-- ==== Sys2Proof/Word.lean ====
section
/-! DEFINITION. The word types of the Daxger D9 (R2, R3): bytes, halfwords, words and dwords. -/

namespace Sys2Proof

/-- 8 bits. -/
abbrev Byte := BitVec 8
/-- 16 bits (R3). -/
abbrev Half := BitVec 16
/-- 32 bits (R3). -/
abbrev Word := BitVec 32
/-- 64 bits (R3). -/
abbrev DWord := BitVec 64

end Sys2Proof
end

