-- ==== Sys2Proof/Syntax.lean ====
section
/-! DEFINITION. The instructions and the engine and host steps of the Daxger D9, one constructor per row of
the opcode table (spec/opcode_table.json): 148 instructions of chapters 2 to 10, then the steps that the
engines, the front end, the host and the package itself take (spec/95_what_each_step_holds.md). -/

namespace Sys2Proof

/-- The trap codes of R306. -/
inductive TrapCode where
  | illop | priv | hazard | badtarget | stack | misalign | page | prot | tilestate | tilebound | token | join
  | format | tilespace | layout | mcmask | fabric | dataerr | watchdog | swtrap | brk | recv | maxreg
  deriving DecidableEq, Repr

/-- W32-A (R36): minor, b, a, d and the switch marker. -/
structure FormA where
  sw : Bool
  m : BitVec 4
  b : BitVec 6
  a : BitVec 6
  d : BitVec 6
  deriving DecidableEq, Repr

/-- W32-A with the field b fixed at zero (R81, R95, R106, R107, R112, R113). -/
structure FormU where
  sw : Bool
  m : BitVec 4
  a : BitVec 6
  d : BitVec 6
  deriving DecidableEq, Repr

/-- W32-B (R36). -/
structure FormB where
  sw : Bool
  imm : BitVec 10
  a : BitVec 6
  d : BitVec 6
  deriving DecidableEq, Repr

/-- W32-C (R36). -/
structure FormC where
  sw : Bool
  imm : BitVec 16
  d : BitVec 6
  deriving DecidableEq, Repr

/-- The generic X64 layout (R39): four operand specifiers, the guard and the 18-bit modifier that each
instruction's chapter lays out. -/
structure FormX where
  sw : Bool
  g : BitVec 3
  ng : Bool
  d : BitVec 8
  a : BitVec 8
  b : BitVec 8
  c : BitVec 8
  m : BitVec 18
  deriving DecidableEq, Repr

/-- X64-I (R40): the immediate kind in [31:30] and imm32 in [63:32]. -/
structure FormI where
  sw : Bool
  g : BitVec 3
  ng : Bool
  d : BitVec 8
  a : BitVec 8
  kind : BitVec 2
  imm : Word
  deriving DecidableEq, Repr

/-- What a fetch or a decode can find (R33, R47 steps 1, 2, 4 and 5): the trap, its subcode and `$taddr`.
`sys` marks a word of majors 0x70 to 0x74, which an unprivileged thread meets as PRIV first (R47 step 3). -/
structure FetchFault where
  code : TrapCode
  sub : Nat
  addr : DWord
  sys : Bool
  deriving DecidableEq, Repr

/-- Packet kinds of the Flogal fabric (R259). -/
inductive PacketKind where
  | read | readResponse | write | atomic | atomicResponse | invalidate | acknowledge | writeBack
  | reducingWrite | messageHeader | messagePull | counterAdvance | refusal
  deriving DecidableEq, Repr

/-- A line on the wire or at rest: 128 payload bytes as one little-endian number and the 8 sidecar bytes (R30). -/
structure WireLine where
  data : BitVec 1024
  side : DWord
  deriving DecidableEq, Repr

/-- A fabric packet (R259): the header's fields and the lines that follow. -/
structure Packet where
  kind : PacketKind
  flags : Half
  src : Nat
  dst : Nat
  job : Word
  order : Nat
  field : DWord
  lines : List WireLine
  deriving DecidableEq, Repr

/-- Where one crew is placed: its partition and the first slot of its range in each lane (R59). -/
structure CrewPlace where
  part : Nat
  bases : List Nat
  deriving DecidableEq, Repr

/-- Where one block is placed: its bay position, its block token and its crews (R298, R299). -/
structure BlockPlace where
  pos : Nat
  token : Nat
  crews : List CrewPlace
  deriving DecidableEq, Repr

/-- The front end's open choice at an admission (R297): the die, the bay and the places of each block;
`spawned` says that the launch's oldest formed spawned crew of that die is admitted, not its next cluster. -/
structure Placement where
  die : Nat
  bay : Nat
  spawned : Bool
  blocks : List BlockPlace
  deriving DecidableEq, Repr

/-- Why a block is saved (R317, R319). -/
inductive SaveCause where
  | hot | suspend | drain | halt
  deriving DecidableEq, Repr

/-- Where a check code finds an error (R335): a line of memory, a register of a thread or a w register of its warp, a line of
a tile, another array of a core, or any other array of the package. -/
inductive ErrorSite where
  | memLine (line : Nat)
  | register (bid ti v : Nat)
  | kRegister (bid ti k : Nat)
  | pRegister (bid ti p : Nat)
  | wRegister (bid ti w : Nat)
  | tileLine (bid h line : Nat)
  | core (die core : Nat)
  | other
  deriving DecidableEq, Repr

/-- What the host reads: 8 bytes of the read-back window (R337), or 4 or 8 bytes of a function page (R324). -/
inductive HostRead where
  | window (off : Nat)
  | page (fn off size : Nat)
  deriving DecidableEq, Repr

/-- A home slice of a die (R28). -/
structure SliceRef where
  die : Nat
  slice : Nat
  deriving DecidableEq, Repr

/-- A core of a die (R12). -/
structure CoreRef where
  die : Nat
  core : Nat
  deriving DecidableEq, Repr

/-- A flit as a port receives it (R255). `spoiler` is the lane that spoiled it, where one did (R258). -/
structure RxFlit where
  bytes : List Byte
  spoiler : Option Nat
  deriving DecidableEq, Repr

/-- Bytes that the host writes at an offset of a record's register (R328). -/
structure ByteWrite where
  off : Nat
  bytes : List Byte
  deriving DecidableEq, Repr

/-- The averages of a power sample over 1 ms: core amperes and package watts (R332). -/
structure PowerAvg where
  amps : Nat
  watts : Nat
  deriving DecidableEq, Repr

/-- What a power sample finds of the islands: what each compute island draws, and those with a junction above 105 °C
(R332). -/
structure IslandSample where
  draws : List Nat
  hot : List Nat
  deriving DecidableEq, Repr

/-- What is told of a function of the package: that it is ready, or has failed for good (R339), by its readiness bit; or the
fused minimum version for which the running firmware asks (R333). -/
inductive FnWord where
  | ready (bit : Nat)
  | failed (bit : Nat)
  | minVersion (ask : Nat)
  deriving DecidableEq, Repr

/-- One constructor per row of the opcode table. Instructions carry the fields of their encoding; the other
steps carry what identifies the operation concerned, or the value that the host or the fabric supplies. -/
inductive Instr where
  /-- C16_MOV (R35): Compressed 16-bit register move, the same operation as movx vd, vs. -/
  | c16Mov (sw : Bool) (d r : BitVec 5)
  /-- C16_ADD (R35): Compressed two-address integer add, the same operation as iadd.add. -/
  | c16Add (sw : Bool) (d r : BitVec 5)
  /-- C16_SUB (R35): Compressed two-address integer subtract, the same operation as iadd.sub. -/
  | c16Sub (sw : Bool) (d r : BitVec 5)
  /-- C16_MUL (R35): Compressed two-address multiply, the same operation as imul.lo. -/
  | c16Mul (sw : Bool) (d r : BitVec 5)
  /-- C16_AND (R35): Compressed two-address bitwise and, the same operation as logic.and. -/
  | c16And (sw : Bool) (d r : BitVec 5)
  /-- C16_OR (R35): Compressed two-address bitwise or, the same operation as logic.or. -/
  | c16Or (sw : Bool) (d r : BitVec 5)
  /-- C16_XOR (R35): Compressed two-address bitwise xor, the same operation as logic.xor. -/
  | c16Xor (sw : Bool) (d r : BitVec 5)
  /-- C16_SHL (R35): Compressed two-address shift left, the same operation as shift.shl. -/
  | c16Shl (sw : Bool) (d r : BitVec 5)
  /-- C16_SHR (R35): Compressed two-address logical shift right, the same operation as shift.shr. -/
  | c16Shr (sw : Bool) (d r : BitVec 5)
  /-- C16_SAR (R35): Compressed two-address arithmetic shift right, the same operation as shift.sar. -/
  | c16Sar (sw : Bool) (d r : BitVec 5)
  /-- C16_ADDI (R35): Compressed add of a signed imm5, the same operation as iaddi. -/
  | c16Addi (sw : Bool) (d imm : BitVec 5)
  /-- C16_MOVI (R35): Compressed move of a signed imm5, the same operation as movi. -/
  | c16Movi (sw : Bool) (d imm : BitVec 5)
  /-- C16_FADD (R35): Compressed two-address FP32 add, the same operation as fadd.add. -/
  | c16Fadd (sw : Bool) (d r : BitVec 5)
  /-- C16_FMUL (R35): Compressed two-address FP32 multiply, the same operation as fmul.rn. -/
  | c16Fmul (sw : Bool) (d r : BitVec 5)
  /-- C16_FMAX (R35): Compressed two-address FP32 maximum, the same operation as fadd.max. -/
  | c16Fmax (sw : Bool) (d r : BitVec 5)
  /-- C16_FMIN (R35): Compressed two-address FP32 minimum, the same operation as fadd.min. -/
  | c16Fmin (sw : Bool) (d r : BitVec 5)
  /-- BRA (R74): Branches each thread of the run to a PC-relative target. -/
  | bra (sw : Bool) (off : BitVec 22)
  /-- CALL (R74): Pushes the return address on the return stack and branches to a PC-relative target. -/
  | call (sw : Bool) (off : BitVec 22)
  /-- BC (R74): Branches when a predicate, optionally negated, holds. -/
  | bc (sw : Bool) (off : BitVec 18) (neg : Bool) (p : BitVec 3)
  /-- CTRL_NOP (R77): Does nothing. -/
  | ctrlNop (sw : Bool)
  /-- CTRL_RET (R77): Pops the return stack into the program counter. -/
  | ctrlRet (sw : Bool)
  /-- CTRL_EXIT (R77): Waits as a switch marker does, then ends the thread and releases its registers. -/
  | ctrlExit (sw : Bool)
  /-- CTRL_YIELD (R77): Ends the warp's run and exchanges the warp as a park does. -/
  | ctrlYield (sw : Bool)
  /-- CTRL_BRK (R77): Raises a BREAK trap at this instruction. -/
  | ctrlBrk (sw : Bool)
  /-- TRAP (R78): Raises SWTRAP with a 16-bit code as its subcode. -/
  | trap (sw : Bool) (code : BitVec 16)
  /-- JTAB (R75): Branches each thread through the inline target list selected by its index. -/
  | jtab (sw : Bool) (n : BitVec 10) (a : BitVec 6)
  /-- CTAB (R75): Calls through the inline target list, pushing the address after the list. -/
  | ctab (sw : Bool) (n : BitVec 10) (a : BitVec 6)
  /-- PLOG (R79): Computes a logical operation on predicates. -/
  | plog (f : FormA)
  /-- VOTE (R81): Folds a predicate over the participants into a ballot, any, all or count result. -/
  | vote (f : FormU)
  /-- MATCH (R82): Gives each participant the mask of participants holding an equal value, and a leader predicate. -/
  | matchPeers (f : FormA)
  /-- ELECT (R83): Sets a predicate true for the lowest-position participant only. -/
  | elect (sw : Bool) (d : BitVec 6)
  /-- WRESIZE (R72): Splits the thread's warp, or arrives at a fuse of its aligned slot group, to a new warp size. -/
  | wresize (sw : Bool) (m : BitVec 2) (d : BitVec 6)
  /-- WSYNC_WARP (R84): Parks the thread until every live thread of its warp waits at a wsync. -/
  | wsyncWarp (sw : Bool)
  /-- WSYNC_MASK (R84): Parks the thread until every live thread of a 64-bit position mask waits at a wsync. -/
  | wsyncMask (sw : Bool) (a : BitVec 6)
  /-- BAR (R86): Arrives at a crew, block or cluster barrier and parks until the round's expected arrivals are reached. -/
  | bar (sw : Bool) (lv : BitVec 2) (cnt : BitVec 14) (id : BitVec 6)
  /-- SPAWN (R88): Places a 64-byte continuation record in the launch's spawn pool. -/
  | spawn (sw : Bool) (a : BitVec 6)
  /-- SPAWN_EXIT (R88): Places a continuation record and then ends the thread as ctrl.exit does. -/
  | spawnExit (sw : Bool) (a : BitVec 6)
  /-- REGGROW (R89): Grants a larger register count from the lane's free words, or reports failure in a predicate. -/
  | reggrow (sw : Bool) (n : BitVec 8) (d : BitVec 6)
  /-- REGSHRINK (R90): Returns registers above a new count to the lane. -/
  | regshrink (sw : Bool) (n : BitVec 8)
  /-- MOVS (R91): Reads a special register into a register or pair. -/
  | movs (sw : Bool) (num : BitVec 10) (d : BitVec 6)
  /-- IADD (R94): Integer add or subtract, wrapping or saturating. -/
  | iadd (f : FormA)
  /-- IMUL (R94): Integer multiply, low or high word. -/
  | imul (f : FormA)
  /-- IMINMAX (R94): Signed or unsigned integer minimum or maximum. -/
  | iminmax (f : FormA)
  /-- LOGIC (R94): Bitwise and, or, xor, andn, orn or xnor. -/
  | logic (f : FormA)
  /-- SHIFT (R94): Shifts or rotates by a register amount. -/
  | shift (f : FormA)
  /-- IUNARY (R95): Unary integer operation such as popc, clz, brev, abs, neg or extension. -/
  | iunary (f : FormU)
  /-- ISET (R96): Compares two integers into a predicate. -/
  | iset (f : FormA)
  /-- IADDI (R97): Adds a sign-extended imm10. -/
  | iaddi (f : FormB)
  /-- ANDI (R97): Ands with a sign-extended imm10. -/
  | andi (f : FormB)
  /-- ORI (R97): Ors with a sign-extended imm10. -/
  | ori (f : FormB)
  /-- XORI (R97): Xors with a sign-extended imm10. -/
  | xori (f : FormB)
  /-- SHIFTI (R97): Shifts or rotates by an immediate amount of a given kind. -/
  | shifti (sw : Bool) (k : BitVec 3) (h : BitVec 5) (a d : BitVec 6)
  /-- MOVI (R97): Moves a sign-extended imm16. -/
  | movi (f : FormC)
  /-- MOVHI (R97): Replaces the high half of a register with imm16. -/
  | movhi (f : FormC)
  /-- LEA (R94): Adds a register shifted left by the minor field. -/
  | lea (f : FormA)
  /-- BFX (R98): Extracts a bit field, zero- or sign-extended. -/
  | bfx (f : FormA)
  /-- BFI (R98): Inserts a bit field into the destination. -/
  | bfi (sw : Bool) (b a d : BitVec 6)
  /-- IDIV (R99): V-class integer division or remainder with defined results for zero divisors. -/
  | idiv (f : FormA)
  /-- FADD (R104): FP32 add, subtract, minimum or maximum. -/
  | fadd (f : FormA)
  /-- FMUL (R104): FP32 multiply in a chosen rounding. -/
  | fmul (f : FormA)
  /-- FSET (R104): Compares two FP32 values into a predicate. -/
  | fset (f : FormA)
  /-- FUNC (R106): V-class correctly rounded FP32 function such as rcp, rsq, sqrt, exp2, log2, sin, cos or tanh. -/
  | func (f : FormU)
  /-- CVTFI (R107): Converts FP32 to a clamped integer. -/
  | cvtfi (f : FormU)
  /-- CVTIF (R107): Converts a signed or unsigned integer to FP32. -/
  | cvtif (f : FormU)
  /-- HOP (R108): Packed BF16x2 or FP16x2 add, multiply, max or min on each half. -/
  | hop (f : FormA)
  /-- SHFL (R110): Exchanges register values among threads at warp scope, or in rounds at crew scope. -/
  | shfl (f : FormA)
  /-- WRED (R112): V-class fold of a value over the participants, in ascending position. -/
  | wred (f : FormU)
  /-- WSCAN (R113): V-class inclusive or exclusive prefix sum over the participants. -/
  | wscan (f : FormU)
  /-- LD32 (R199): Weak 32-bit load with a word-scaled offset. -/
  | ld32 (f : FormB)
  /-- LD128 (R199): Weak 128-bit load into a quad. -/
  | ld128 (f : FormB)
  /-- ST32 (R199): Weak 32-bit store. -/
  | st32 (f : FormB)
  /-- ST128 (R199): Weak 128-bit store from a quad. -/
  | st128 (f : FormB)
  /-- MOVF (R146): Reads the low or high word of a format slot. -/
  | movf (sw : Bool) (w : Bool) (f : BitVec 3) (d : BitVec 6)
  /-- ERET (R314): Waits as a switch marker, leaves privileged mode and resumes at $epc. -/
  | eret (sw : Bool)
  /-- CTLRD (R313): Reads a control register in privileged mode. -/
  | ctlrd (sw : Bool) (num : BitVec 10) (d : BitVec 6)
  /-- CTLWR (R313): Writes a control register in privileged mode, checking its limits. -/
  | ctlwr (sw : Bool) (num : BitVec 10) (a : BitVec 6)
  /-- PGINV_PAGE (R316): Performs earlier writes at package scope and waits until every TLB drops the page's translations. -/
  | pginvPage (sw : Bool) (a : BitVec 6)
  /-- PGINV_CONTEXT (R316): Waits until every TLB of the package drops all of the context's translations. -/
  | pginvContext (sw : Bool)
  /-- IDLE (R315): Parks the thread until a report, a host wake or 2^20 clocks. -/
  | idle (sw : Bool)
  /-- FFMA (R105): FP32 fused multiply-add with one rounding. -/
  | ffma (x : FormX)
  /-- IMAD (R101): Integer multiply-add, low word or 64-bit wide. -/
  | imad (x : FormX)
  /-- SEL (R101): Selects one of two registers or pairs by a predicate. -/
  | sel (x : FormX)
  /-- HFMA (R109): Packed half-precision fused multiply-add on each half. -/
  | hfma (x : FormX)
  /-- IDP4 (R101): Four-way byte dot product with accumulate, optionally saturating. -/
  | idp4 (x : FormX)
  /-- IADD64 (R101): 64-bit add or subtract of pairs or an extended register. -/
  | iadd64 (x : FormX)
  /-- LEA64 (R101): 64-bit add of a shifted pair or extended register. -/
  | lea64 (x : FormX)
  /-- ISET64 (R101): Compares two 64-bit pairs into a predicate. -/
  | iset64 (x : FormX)
  /-- MOVX (R40): Moves a 32-bit immediate, an extended immediate, a high word, or a register of any class. -/
  | movx (x : FormI)
  /-- WIDE (R44): Carries a W32 A- or B-form instruction with 8-bit specifiers and a guard. -/
  | wide (x : FormX)
  /-- CVT (R137): Converts plain-format elements into the slot's format under its rounding. -/
  | cvt (x : FormX)
  /-- QNT (R138): Quantises each quad's values into one block with a chosen or given scale. -/
  | qnt (x : FormX)
  /-- DQN (R139): Expands block elements into FP32 or BF16 values. -/
  | dqn (x : FormX)
  /-- AMAX (R140): Computes the maximum magnitude over a quad or over the thread's own elements. -/
  | amax (x : FormX)
  /-- SCOF (R141): Writes a scale byte chosen from an amax by the scale or ceiling rule. -/
  | scof (x : FormX)
  /-- RSCL (R142): Re-expresses a block under a new scale in another block format. -/
  | rscl (x : FormX)
  /-- RHAD (R143): Applies a randomised Hadamard rotation over groups of 16, 64 or 256 elements. -/
  | rhad (x : FormX)
  /-- RAND (R144): Draws 64 random bits or a uniform FP32 value from the coordinate hash. -/
  | rand (x : FormX)
  /-- NPACK (R145): Packs narrow integer elements into registers, optionally clamping. -/
  | npack (x : FormX)
  /-- NUNPK (R145): Unpacks narrow elements into one register each, zero- or sign-extended. -/
  | nunpk (x : FormX)
  /-- TALLOC (R170): Allocates and zeroes a tile of a given shape, format, kind and level. -/
  | talloc (x : FormX)
  /-- TFREE (R171): Returns a tile's granules, parking while copies are in flight. -/
  | tfree (x : FormX)
  /-- TSTAT (R172): Reads a tile's status word, optionally clearing its sticky bits. -/
  | tstat (x : FormX)
  /-- TWAIT (R173): Parks until a tile reaches the named state condition. -/
  | twait (x : FormX)
  /-- TLD (R174): Reads elements, scales or ridge m and l from a tile into registers. -/
  | tld (x : FormX)
  /-- TST (R175): Writes register elements, scales or ridge m and l into a tile. -/
  | tst (x : FormX)
  /-- TFILL (R176): Fills every element and scale of a tile and makes it READY. -/
  | tfill (x : FormX)
  /-- TSET_EMPTY (R177): Returns a READY tile to EMPTY and clears its fill bits. -/
  | tsetEmpty (x : FormX)
  /-- TSET_READY (R177): Declares an EMPTY tile READY and sets its fill bits. -/
  | tsetReady (x : FormX)
  /-- CPYIN (R178): Starts a copy of a tensor window into a tile, optionally multicast to the cluster. -/
  | cpyin (x : FormX)
  /-- CPYOUT (R179): Starts a copy of a tile window into a tensor. -/
  | cpyout (x : FormX)
  /-- CPYTT (R180): Starts a copy of a tile window into a tile on this or other cores of the cluster. -/
  | cpytt (x : FormX)
  /-- CPYGG (R181): Starts a copy from tensor to tensor. -/
  | cpygg (x : FormX)
  /-- STASH (R182): Starts a copy of a tile to a plain and a transposed tensor. -/
  | stash (x : FormX)
  /-- LD (R196): Loads bytes, expanded block values or block codes and scale, with optional acquire. -/
  | ld (x : FormX)
  /-- ST (R197): Stores bytes or block codes with scales, with optional release. -/
  | st (x : FormX)
  /-- PST (R200): Stores one predicate bit per thread. -/
  | pst (x : FormX)
  /-- PLD (R200): Loads one predicate bit per thread. -/
  | pld (x : FormX)
  /-- ATOM (R204): Performs a returning read-modify-write on memory in position order. -/
  | atom (x : FormX)
  /-- ATOMCAS (R204): Performs a returning compare-and-swap in position order. -/
  | atomcas (x : FormX)
  /-- RED (R204): Performs a non-returning reduction on memory, near, far or merged, or a reducing write to a window. -/
  | red (x : FormX)
  /-- TATOM (R207): Performs an atomic on a tile element, returning the old value. -/
  | tatom (x : FormX)
  /-- TRED (R207): Performs a non-returning atomic on a tile element. -/
  | tred (x : FormX)
  /-- WAITA (R209): Parks until a memory location meets a condition or a timeout passes. -/
  | waita (x : FormX)
  /-- FENCE (R215): Orders the thread's accesses as acquire, release, both or sequentially consistent at a scope. -/
  | fence (x : FormX)
  /-- QWAIT (R220): Parks until a counter's completed value reaches a target, then acquires. -/
  | qwait (x : FormX)
  /-- QREAD (R220): Reads a counter's completed or issued value. -/
  | qread (x : FormX)
  /-- QADV (R220): Takes and completes a number of counter numbers, optionally as a release. -/
  | qadv (x : FormX)
  /-- PREF (R221): Brings a line toward the bay cache or home slice, never faulting. -/
  | pref (x : FormX)
  /-- CMAINT_WB (R222): Writes a line back from the bay cache to home. -/
  | cmaintWb (x : FormX)
  /-- CMAINT_WBINV (R222): Writes a line back and drops the bay's copy. -/
  | cmaintWbinv (x : FormX)
  /-- CMAINT_MERGE (R222): Merges a line's churn partials at home. -/
  | cmaintMerge (x : FormX)
  /-- CMAINT_ZERO (R222): Stores 128 zero bytes and a zero sidecar to a line. -/
  | cmaintZero (x : FormX)
  /-- JDECL (R226): Declares a convergence register's member set. -/
  | jdecl (x : FormX)
  /-- JFREE (R228): Returns a convergence register to IDLE. -/
  | jfree (x : FormX)
  /-- MMA (R232): Joins a matrix operation; the last join makes it issuable. -/
  | mma (x : FormX)
  /-- TACQ (R237): Takes a tile back from the matrix unit once its operations are done. -/
  | tacq (x : FormX)
  /-- TREL (R237): Passes a READY tile to the matrix unit as ENGAGED. -/
  | trel (x : FormX)
  /-- SMXINIT (R240): Issues a ridge operation that resets each row's m, l and sums. -/
  | smxinit (x : FormX)
  /-- SMXUPD (R243): Issues a ridge operation folding a score tile into a ridge tile and writing probabilities. -/
  | smxupd (x : FormX)
  /-- SMXMRG (R244): Issues a ridge operation merging one ridge tile into another. -/
  | smxmrg (x : FormX)
  /-- SMXFIN (R245): Issues a ridge operation writing normalised rows into a plain tile. -/
  | smxfin (x : FormX)
  /-- SEND (R274): Starts a tagged message from memory or a tile to an endpoint. -/
  | send (x : FormX)
  /-- RPOST (R278): Posts a receive in the die's Skimmer, matching the unexpected queue first. -/
  | rpost (x : FormX)
  /-- RCANCEL (R286): Asks the Skimmer to remove a posted receive and parks for the answer. -/
  | rcancel (x : FormX)
  /-- RPROBE (R287): Finds the earliest matching unexpected message without removing it. -/
  | rprobe (x : FormX)
  /-- WPOST (R271): Places a work entry triggered by a network counter threshold. -/
  | wpost (x : FormX)
  /-- RRED (R268): Narrows each quad's values to an MXFP8 block and sends a reducing write. -/
  | rred (x : FormX)
  /-- FSTAT (R287): Reads a fabric statistic or identity item. -/
  | fstat (x : FormX)
  /-- RESULT_WRITEBACK (R50): A V-class result arrives and is written to its registers. -/
  | resultWriteback (bid ti rid : Nat)
  /-- WARP_EXCHANGE (R68): Swaps a parked active warp with the oldest ready pending warp. -/
  | warpExchange (die core part idx : Nat)
  /-- WARP_QUANTUM_EXPIRE (R68): An active warp reaching 4,096 issue clocks is exchanged with a ready pending warp. -/
  | warpQuantumExpire (die core part idx : Nat)
  /-- WAITA_WAKE (R210): A write to watched bytes wakes a waiting thread to test again. -/
  | waitaWake (bid ti : Nat)
  /-- WAITA_DEADLINE (R209): The timeout of a waita passes and its predicate is written false. -/
  | waitaDeadline (bid ti : Nat)
  /-- WATCH_FILTER_CLEAR (R210): Every 2^20 home clocks a bay's watch filter is cleared and re-entered. -/
  | watchFilterClear (slice : SliceRef) (bay : Nat)
  /-- IDLE_TIMEOUT (R315): 2^20 clocks pass and an idle thread is released. -/
  | idleTimeout (bid ti : Nat)
  /-- CHURN_MERGE (R206): The home slice merges a line's churn partials before another access, at eviction or on release. -/
  | churnMerge (line : Nat)
  /-- MC_ARRIVAL (R166): A multicast copy's first data reach a destination core, which accepts, holds or drops it. -/
  | mcArrival (cid dst : Nat)
  /-- LANDING_ACCEPT_AFTER_DRAIN (R166): A landing held on a DRAINING tile is accepted when the drain ends. -/
  | landingAcceptAfterDrain (cid dst : Nat)
  /-- COPY_COMPLETE (R163): A copy finishes, its tiles become READY and its counter may advance. -/
  | copyComplete (cid : Nat)
  /-- MATRIX_QUEUE_ENTER (R224): An issuable matrix or ridge operation takes a free queue entry and reads its registers. -/
  | matrixQueueEnter (die core : Nat)
  /-- MATRIX_OP_COMPLETE (R223): The matrix unit finishes an operation, writes its tiles and frees its entry. -/
  | matrixOpComplete (die core : Nat)
  /-- FLIT_RECEIVE (R257): A port receives a flit, checks it, accepts it or requests a replay. -/
  | flitReceive (port : Nat) (flit : RxFlit)
  /-- LANE_RETRAIN (R258): A lane with 16 consecutive failed replays is retrained or dropped to one-lane operation. -/
  | laneRetrain (port lane : Nat) (trained : Bool)
  /-- PACKET_DELIVER (R260): The destination delivers a stream's packets in order, holding early arrivals. -/
  | packetDeliver (pkt : Packet)
  /-- DIR_INVALIDATE (R253): An invalidation from a line's home slice removes a copy held on another die. -/
  | dirInvalidate (line ep : Nat)
  /-- REDUCTION_HOP (R265): A leaf or spine reduces a completed round of contributions to one block. -/
  | reductionHop (win off round : Nat) (leaf : Option Nat)
  /-- FINAL_HOP (R266): A home slice applies an incoming reduced block to the target atomically. -/
  | finalHop (rid : Nat)
  /-- COUNTER_ADVANCE_ARRIVE (R219): A remote advance reaches a network counter and completes its numbers. -/
  | counterAdvanceArrive (aid : Nat)
  /-- WORK_ENTRY_FIRE (R272): A work entry's trigger counter reaches its threshold and its transfer starts. -/
  | workEntryFire (eid : Nat)
  /-- WORK_ENTRY_DONE (R272): A work entry's transfer ends; it advances the remote counter, completes its number and frees its place. -/
  | workEntryDone (eid : Nat)
  /-- MSG_ARRIVE (R279): A message header reaches the Skimmer and matches a posted receive or joins the unexpected queue. -/
  | msgArrive (mid : Nat)
  /-- MSG_RETRY (R276): After the back-off expires, the source resends a refused message. -/
  | msgRetry (mid : Nat)
  /-- RENDEZVOUS_PULL (R280): The Skimmer pulls a matched rendezvous message's payload and lands it. -/
  | rendezvousPull (mid : Nat)
  /-- RECEIVE_COMPLETE (R283): A landing finishes; fill count, status record and counter are updated in order. -/
  | receiveComplete (rid : Nat)
  /-- SEND_COMPLETE (R275): The destination has taken or pulled the whole payload; the send's counter advances. -/
  | sendComplete (mid : Nat)
  /-- RCANCEL_ANSWER (R286): The Skimmer handles a cancel at one point in its order and answers the thread. -/
  | rcancelAnswer (bid ti : Nat)
  /-- GRAPH_FETCH (R290): The front end fetches the graph descriptor at a queue's head when head differs from tail. -/
  | graphFetch (die q : Nat)
  /-- GRAPH_RESIDENT (R291): A graph's nodes are copied into the node store once it has room, and nodes with no predecessors become READY. -/
  | graphResident (die q : Nat)
  /-- NODE_START (R293): The front end starts a READY node by priority and age. -/
  | nodeStart (die q node : Nat)
  /-- NODE_DONE (R293): A node's work ends; its record is written and its released list is decremented. -/
  | nodeDone (die q node : Nat)
  /-- GRAPH_END (R294): No node of a graph is READY or RUNNING; its record is written and the head advances. -/
  | graphEnd (die q : Nat)
  /-- CLUSTER_ADMIT (R297): A cluster is admitted in one step to a bay whose free places hold all its blocks. -/
  | clusterAdmit (launch : Nat) (pl : Placement)
  /-- BLOCK_END (R302): Every thread of a block has exited; its handles, convergence registers, q counters and token are released. -/
  | blockEnd (bid : Nat)
  /-- LAUNCH_END (R302): A launch's clusters, pools, spawned crews and operations are all finished. -/
  | launchEnd (launch : Nat)
  /-- SPAWN_CREW_FORM (R301): The front end forms a spawned crew from nthr records of one entry. -/
  | spawnCrewForm (launch die : Nat) (entry : DWord)
  /-- SPAWN_GATHER_TIMEOUT (R301): The oldest record has waited 4,096 clocks and a crew is formed early. -/
  | spawnGatherTimeout (launch die : Nat)
  /-- BLOCK_SAVE (R318): Pre-emption saves a block's state into a save-store slot. -/
  | blockSave (bid : Nat) (cause : SaveCause)
  /-- SAVE_SLOT_GRANT (R319): A save-store slot frees and is granted to the next waiting save. -/
  | saveSlotGrant (die : Nat)
  /-- BLOCK_RESTORE (R320): A saved block is restored to its core once its places are free, and resumes issue. -/
  | blockRestore (bid : Nat)
  /-- WATCHDOG_EXPIRE (R322): The deadlock count reaches 2^32; a report is written and the context is suspended. -/
  | watchdogExpire (ctx die : Nat)
  /-- HANDLER_ENTRY (R307): A trapping thread waits as a switch marker, then enters the handler in privileged mode. -/
  | handlerEntry (bid ti : Nat)
  /-- LATE_FAILURE_DELIVERY (R309): A late V-class failure is delivered when the thread next waits for its pending set. -/
  | lateFailureDelivery (bid ti : Nat)
  /-- REPORT_WRITE (R311): A report is written to the context's ring, the tail advances and interrupts or counters move. -/
  | reportWrite (ctx : Nat)
  /-- REPACT_RESUME (R312): Action 0 of $repact or REPACT resumes the reported thread, operation or context. -/
  | repactResume (ctx idx : Nat)
  /-- REPACT_ABANDON (R312): Action 1 of $repact or REPACT abandons the reported operation or halts or ends the block. -/
  | repactAbandon (ctx idx : Nat)
  /-- CTX_CREATE (R325): CTXCMD create sets up a context with its job id and zeroed state. -/
  | ctxCreate (fn ctx : Nat) (job : Word)
  /-- CTX_DESTROY (R325): CTXCMD destroy abandons the context's operations and ends its graphs. -/
  | ctxDestroy (fn ctx : Nat)
  /-- CTX_SUSPEND (R321): CTXCMD suspend stops the context's queues and saves its resident blocks. -/
  | ctxSuspend (fn ctx : Nat)
  /-- CTX_RESUME (R321): CTXCMD resume restores the context's blocks and runs its queues again. -/
  | ctxResume (fn ctx : Nat)
  /-- WAKE (R324): A host write ends the idle of every thread of the context. -/
  | wake (fn : Nat)
  /-- INTSTAT_CLEAR (R324): Writing ones clears bits of INTSTAT. -/
  | intstatClear (fn : Nat) (val : DWord)
  /-- SVCREQ_CLEAR (R338): Writing ones clears service-request bits. -/
  | svcreqClear (fn : Nat) (val : DWord)
  /-- WINVA_WRITE (R324): Sets the aperture base, or is ignored and flags a doorbell error. -/
  | winvaWrite (fn : Nat) (val : DWord)
  /-- DOORBELL (R327): Writes a queue's tail, releasing the function's earlier aperture writes. -/
  | doorbell (fn die q : Nat) (tail : Word)
  /-- QUEUE_DESC_WRITE (R327): Writes a queue descriptor, checking its fields when enable is set. -/
  | queueDescWrite (fn die q : Nat) (desc : List Byte)
  /-- QUEUE_DISABLE (R327): A write clearing enable takes effect once the queue's running graph has ended. -/
  | queueDisable (die q : Nat)
  /-- CARVE_WRITE (R328): Writes a die's carve record, accepted only when valid and well-formed. -/
  | carveWrite (fn die : Nat) (rec : ByteWrite)
  /-- ISLCTL_WRITE (R331): Sets an island's clock floor and ceiling. -/
  | islctlWrite (fn island : Nat) (val : DWord)
  /-- ONCECLR (R303): Any write empties the context's once-tag set on a die. -/
  | onceclr (fn : Nat) (die : Option Nat)
  /-- CTL_REG_WRITE (R305): Writes a control register without behaviour of its own, checked against its limits. -/
  | ctlRegWrite (fn num : Nat) (die : Option Nat) (val : DWord)
  /-- APERTURE_READ (R326): A host read through BAR4 is translated and performed as a weak load. -/
  | apertureRead (fn off size : Nat)
  /-- APERTURE_WRITE (R326): A host write through BAR4 is translated and performed as a weak store. -/
  | apertureWrite (fn off size val : Nat)
  /-- READBACK_READ (R337): An aligned read of the read-back window returns device state atomically. -/
  | readbackRead (rd : HostRead)
  /-- RESET (R339): Reset clears readiness and starts the boot ROM waiting for an image. -/
  | reset
  /-- BOOT_VERIFY (R333): Writing 1 to the boot register copies and verifies the firmware image, then runs it or reports the failed check. -/
  | bootVerify
  /-- ATTEST_REQUEST (R334): Writing 1 at 0xA400 starts a signed attestation report over the nonce. -/
  | attestRequest (nonce : List Byte)
  /-- ATTEST_COMPLETE (R334): The attestation report is ready in the buffer and 0xA400 reads 2. -/
  | attestComplete
  /-- PTP_MESSAGE (R329): A PTP exchange on the management port slews or steps the package time base. -/
  | ptpMessage (offset : Int)
  /-- POWER_SAMPLE (R332): Each microsecond the rail currents are measured and issue throttling applied or lifted. -/
  | powerSample (coreAmps above15us : Nat) (avg : PowerAvg) (isl : IslandSample)
  /-- CLOCK_STEP_DOWN (R332): Every 10 µs under a limit, the clocks of the drawing islands fall by 25 MHz. -/
  | clockStepDown (island : Nat)
  /-- CLOCK_STEP_UP (R332): Every 100 µs with limits clear, clocks rise by 25 MHz up to max. -/
  | clockStepUp (island : Nat)
  /-- THERMAL_SHUTDOWN (R332): A junction above 115 °C stops the whole package. -/
  | thermalShutdown (island : Nat)
  /-- SCRUB (R335): The daily scrub reads every HBM line, correcting or marking errors. `error` says what it found in the
  line: nothing, a correctable error (true) or an uncorrectable one (false). -/
  | scrub (line : Nat) (error : Option Bool)
  /-- CORE_FAIL (R338): A failing core is drained by pre-emption for replacement. -/
  | coreFail (core : CoreRef) (logic : Bool)
  /-- SPARE_ENGAGE (R14): After the drain, the spare takes over the logical number of the replaced core. -/
  | spareEngage (die half : Nat)
  /-- HBM_ROW_REMAP (R338): An HBM row with errors is remapped to a spare row with its data and marks. -/
  | hbmRowRemap (stack bank row : Nat)
  /-- CHANNEL_FAIL (R338): A failed HBM channel moves to its stack's spare channel or becomes marked. -/
  | channelFail (stack channel : Nat)
  /-- FUNCTION_READY (R339): A function finishes training and its readiness bit is set. -/
  | functionReady (word : FnWord)
  /-- DECODE_TRAP (R47): A fetch that faults, or a fetched word that encodes no assigned instruction (an unassigned major, or a minor or reserved pattern outside every step's match), takes its PAGE, PROT or ILLOP trap. -/
  | decodeTrap (fault : FetchFault)
  /-- LINE_LANDED (R152): Data of a copy or a message landing reach a destination line, advance the landed count and set the line's fill bit once every element written to it has landed. -/
  | lineLanded (cid dst : Nat) (unit : Nat)
  /-- STORE_QUEUE_DRAIN (R213): A store leaves its warp's store queue and is performed, becoming visible to other threads. -/
  | storeQueueDrain (bid wi : Nat)
  /-- SOFT_ERROR (R335): A check-code error strikes an SRAM, register file, tile line or cache line, and is corrected and counted, or is marked uncorrectable. -/
  | softError (site : ErrorSite) (corrected : Bool)
  /-- JUNCTION_ABOVE_105 (R332): A junction temperature rises above 105 °C, setting SVCREQ thermal and putting its island under a clock limit. -/
  | junctionAbove105 (island : Nat)
  deriving DecidableEq, Repr

end Sys2Proof
end

