-- ==== Sys2Proof/Machine/Bits.lean ====
section
/-! DEFINITION. Bit fields, sign extension and byte order (R1, R2), shared by every meaning. -/

namespace Sys2Proof.Machine

open Sys2Proof

/-- Bits [lo + n − 1 : lo] of `x` (R1). -/
def bitsAt (x lo n : Nat) : Nat := (x >>> lo) % 2 ^ n

/-- `x` with bits [lo + n − 1 : lo] replaced by the low `n` bits of `y`. -/
def putBits (x lo n y : Nat) : Nat := x - (bitsAt x lo n) <<< lo + (y % 2 ^ n) <<< lo

/-- The low `n` bits of `x` read as two's complement. -/
def sext (n x : Nat) : Int := if bitsAt x (n - 1) 1 = 1 then (x % 2 ^ n : Int) - 2 ^ n else (x % 2 ^ n : Int)

/-- A 64-bit value from a pair, low word in the even register (R101). -/
def pair (lo hi : Word) : DWord := hi ++ lo

/-- The low word of a pair. -/
def loWord (x : DWord) : Word := x.setWidth 32

/-- The high word of a pair. -/
def hiWord (x : DWord) : Word := (x >>> 32).setWidth 32

/-- A little-endian number from bytes, lowest address first (R2). -/
def fromBytes : List Byte → Nat
  | [] => 0
  | b :: bs => b.toNat + 256 * fromBytes bs

/-- The `n` lowest bytes of a number, lowest address first (R2). -/
def toBytes : Nat → Nat → List Byte
  | 0, _ => []
  | n + 1, x => BitVec.ofNat 8 (x % 256) :: toBytes n (x / 256)

/-- Bytes [at, at + n) of a record as a little-endian number. -/
def field (r : List Byte) (at_ n : Nat) : Nat := fromBytes ((r.drop at_).take n)

/-- Whether bytes [at, at + n) of a record are all zero (R5). -/
def zeroAt (r : List Byte) (at_ n : Nat) : Bool := ((r.drop at_).take n).all (· == 0)

/-- The words of a little-endian number, lowest first. -/
def toWords : Nat → Nat → List Word
  | 0, _ => []
  | n + 1, x => BitVec.ofNat 32 x :: toWords n (x >>> 32)

/-- A number from words, lowest first. -/
def fromWords : List Word → Nat
  | [] => 0
  | w :: ws => w.toNat + (fromWords ws) <<< 32

/-- Number of set bits among the low `n`. -/
def popcount : Nat → Nat → Nat
  | 0, _ => 0
  | n + 1, x => x % 2 + popcount n (x / 2)

/-- The low `n` bits in reverse order. -/
def reverseBits : Nat → Nat → Nat
  | 0, _ => 0
  | n + 1, x => (x % 2) <<< n + reverseBits n (x / 2)

/-- The smallest power of two not below `n`, for n up to 2^16. -/
def pow2AtLeast (n : Nat) : Nat := ((List.range 17).map (2 ^ ·)).find? (n ≤ ·) |>.getD (2 ^ 17)

/-- Whether `n` is a power of two from `lo` to `hi`. -/
def isPow2In (lo hi n : Nat) : Bool := lo ≤ n && n ≤ hi && 2 ^ n.log2 == n

/-- ⌈a / b⌉. -/
def ceilDiv (a b : Nat) : Nat := (a + b - 1) / b

/-- Clamp an integer to a range. -/
def clamp (lo hi x : Int) : Int := max lo (min hi x)

/-- A 32-bit word from an exact integer, modulo 2^32 (R93). -/
def word (x : Int) : Word := BitVec.ofInt 32 x

/-- Replace the element at an index, where there is one. -/
def setAt {α : Type} : List α → Nat → α → List α
  | [], _, _ => []
  | _ :: xs, 0, y => y :: xs
  | x :: xs, n + 1, y => x :: setAt xs n y

/-- Change the element at an index, where there is one. -/
def modAt {α : Type} : List α → Nat → (α → α) → List α
  | [], _, _ => []
  | x :: xs, 0, f => f x :: xs
  | x :: xs, n + 1, f => x :: modAt xs n f

/-- Change the first element that a test accepts. -/
def modFirst {α : Type} (p : α → Bool) (f : α → α) : List α → List α
  | [] => []
  | x :: xs => if p x then f x :: xs else x :: modFirst p f xs

/-- Drop the first element that a test accepts. -/
def dropFirst {α : Type} (p : α → Bool) : List α → List α
  | [] => []
  | x :: xs => if p x then xs else x :: dropFirst p xs

end Sys2Proof.Machine

namespace Sys2Proof

/-- Bits [hi:lo] of an X64 word, for 46 ≤ lo (R39). -/
def FormX.fld (x : FormX) (hi lo : Nat) : Nat := Machine.bitsAt x.m.toNat (lo - 46) (hi + 1 - lo)

end Sys2Proof
end

