-- ==== Sys2Proof/Machine/Num.lean ====
section
/-! DEFINITION. Number formats (R116 to R123), rounding (R102, R124 to R126), the scale rule (R127), the
coordinate hash (R130) and the ridge exponential (R133). Values are exact: sign, integer, power of two. -/

namespace Sys2Proof.Machine

open Sys2Proof

/-- An exact value: NaN, an infinity, or (−1)^neg × m × 2^e, with a signed zero. -/
inductive Val where
  | nan
  | inf (neg : Bool)
  | fin (neg : Bool) (m : Nat) (e : Int)
  deriving DecidableEq, Repr

/-- A rounding mode (R124); `sr` carries its 16 random bits (R126). -/
inductive RMode where
  | rne | rz | ru | rd
  | sr (r : Nat)
  deriving DecidableEq, Repr

/-- How a floating format spends its largest exponent (R118). -/
inductive FpTop where
  | ieee | e4m3 | finite
  deriving DecidableEq, Repr

/-- A binary floating format: field widths, bias and the top exponent (R117, R118). -/
structure FpFmt where
  ebits : Nat
  mbits : Nat
  bias : Int
  top : FpTop
  deriving DecidableEq, Repr

def fp32 : FpFmt := ⟨8, 23, 127, .ieee⟩
def bf16 : FpFmt := ⟨8, 7, 127, .ieee⟩
def fp16 : FpFmt := ⟨5, 10, 15, .ieee⟩
def e4m3 : FpFmt := ⟨4, 3, 7, .e4m3⟩
def e5m2 : FpFmt := ⟨5, 2, 15, .ieee⟩
def e3m2 : FpFmt := ⟨3, 2, 3, .finite⟩
def e2m3 : FpFmt := ⟨2, 3, 1, .finite⟩
def e2m1 : FpFmt := ⟨2, 1, 1, .finite⟩

/-- An element's arithmetic kind: a floating format, an integer of some width, a fixed-point integer in units
of 2^−6 (MXINT8, R122), or a table of AX4 magnitudes (R119). -/
inductive Elem where
  | fp (f : FpFmt)
  | int (signed : Bool) (w : Nat)
  | fix8
  | table (mags : List Nat)
  deriving DecidableEq, Repr

/-- The magnitudes of AX4 type 2 (R119). -/
def ax4Powers : List Nat := [0, 1, 2, 4, 8, 16, 32, 64]
/-- The magnitudes of AX4 type 3 (R119). -/
def ax4Hybrid : List Nat := [0, 1, 2, 3, 4, 6, 8, 12]

/-- The element kind of a format code; `ty` is the AX4 type (R116 to R122). Reserved codes have none. -/
def elemOf (code ty : Nat) : Option Elem :=
  match code with
  | 0x00 => some (.fp fp32)
  | 0x01 => some (.fp bf16)
  | 0x02 => some (.fp fp16)
  | 0x03 => some (.fp e4m3)
  | 0x04 => some (.fp e5m2)
  | 0x05 => some (.fp e3m2)
  | 0x06 => some (.fp e2m3)
  | 0x07 => some (.fp e2m1)
  | 0x08 => some (.int true 8)
  | 0x09 => some (.int false 8)
  | 0x0A => some (.int true 4)
  | 0x0B => some (.int true 32)
  | 0x10 => some (.fp e4m3)
  | 0x11 => some (.fp e5m2)
  | 0x12 => some (.fp e3m2)
  | 0x13 => some (.fp e2m3)
  | 0x14 => some (.fp e2m1)
  | 0x15 => some .fix8
  | 0x16 => match ty with
    | 0 => some (.int true 4)
    | 1 => some (.fp e2m1)
    | 2 => some (.table ax4Powers)
    | _ => some (.table ax4Hybrid)
  | _ => none

/-- The width of an element in bits (R117, R118, R123); 0 for a reserved code. -/
def fmtWidth (code : Nat) : Nat :=
  match code with
  | 0x00 | 0x0B => 32
  | 0x01 | 0x02 => 16
  | 0x03 | 0x04 | 0x08 | 0x09 | 0x10 | 0x11 | 0x15 => 8
  | 0x05 | 0x06 | 0x12 | 0x13 => 6
  | 0x07 | 0x0A | 0x14 | 0x16 => 4
  | _ => 0

/-- A code that R116 assigns. -/
def fmtAssigned (code : Nat) : Bool := code ≤ 0x0B || (0x10 ≤ code && code ≤ 0x16)
/-- A block format (R116). -/
def fmtBlock (code : Nat) : Bool := 0x10 ≤ code && code ≤ 0x16
/-- A plain format (R116). -/
def fmtPlain (code : Nat) : Bool := code ≤ 0x0B

/-! ### Values of codes -/

/-- The value of a floating code (R117, R118). -/
def decodeFp (f : FpFmt) (code : Nat) : Val :=
  let man := bitsAt code 0 f.mbits
  let ex := bitsAt code f.mbits f.ebits
  let neg := bitsAt code (f.mbits + f.ebits) 1 == 1
  let top := 2 ^ f.ebits - 1
  if f.top = .ieee ∧ ex = top then (if man = 0 then .inf neg else .nan)
  else if f.top = .e4m3 ∧ ex = top ∧ man = 2 ^ f.mbits - 1 then .nan
  else if ex = 0 then .fin neg man (1 - f.bias - f.mbits)
  else .fin neg (man + 2 ^ f.mbits) (ex - f.bias - f.mbits)

/-- The exact value of an integer. -/
def ofInt (x : Int) : Val := .fin (decide (x < 0)) x.natAbs 0

/-- The value of an element's code, without a scale (R117 to R119, R122). -/
def decodeElem (k : Elem) (code : Nat) : Val :=
  match k with
  | .fp f => decodeFp f code
  | .int true w => ofInt (sext w code)
  | .int false w => ofInt (bitsAt code 0 w)
  | .fix8 => match ofInt (sext 8 code) with
    | .fin n m e => .fin n m (e - 6)
    | v => v
  | .table mags => .fin (bitsAt code 3 1 == 1) (mags.getD (bitsAt code 0 3) 0) 0

/-- The value of an element of a plain format code (R117, R118). -/
def plainVal (fmt code : Nat) : Val :=
  match elemOf fmt 0 with
  | some k => decodeElem k code
  | none => .nan

/-- Multiply by a power of two, exactly. -/
def Val.scale (v : Val) (x : Int) : Val :=
  match v with
  | .fin n m e => .fin n m (e + x)
  | v => v

/-- Whether a scale byte is the NaN scale of a block format (R120, R121). -/
def nanScale (fmt : Nat) (s : Nat) : Bool := if fmt = 0x16 then s % 64 == 63 else s == 0xFF

/-- The AX4 type in a scale byte (R120); 0 for the MX formats. -/
def scaleType (fmt : Nat) (s : Nat) : Nat := if fmt = 0x16 then s / 64 else 0

/-- The exponent that a scale byte stands for (R120, R121, R122). -/
def scaleExp (fmt : Nat) (s : Nat) : Int := if fmt = 0x16 then (s % 64 : Int) - 32 else (s : Int) - 127

/-- The value of a block element (R122). -/
def blockVal (fmt s code : Nat) : Val :=
  if nanScale fmt s then .nan
  else match elemOf fmt (scaleType fmt s) with
    | some k => (decodeElem k code).scale (scaleExp fmt s)
    | none => .nan

/-! ### Rounding -/

/-- Round the magnitude m × 2^e to a multiple of 2^u (R124, R126): the multiple. -/
def roundMag (mode : RMode) (neg : Bool) (m : Nat) (e u : Int) : Nat :=
  if u ≤ e then m <<< (e - u).toNat
  else
    let sh := (u - e).toNat
    let q := m >>> sh
    let rem := m % 2 ^ sh
    let up : Bool := match mode with
      | .rne => decide (2 ^ (sh - 1) < rem) || (rem == 2 ^ (sh - 1) && q % 2 == 1)
      | .rz => false
      | .ru => !neg && rem != 0
      | .rd => neg && rem != 0
      | .sr r => decide (2 ^ 16 ≤ (rem <<< 16) >>> sh + r)
    if up then q + 1 else q

/-- The largest finite code of a floating format, without sign (R117, R118). -/
def FpFmt.maxCode (f : FpFmt) : Nat :=
  match f.top with
  | .ieee => (2 ^ f.ebits - 1) <<< f.mbits - 1
  | .e4m3 => 2 ^ (f.ebits + f.mbits) - 2
  | .finite => 2 ^ (f.ebits + f.mbits) - 1

/-- The code of +∞ in a format that has it. -/
def FpFmt.infCode (f : FpFmt) : Nat := (2 ^ f.ebits - 1) <<< f.mbits

/-- The canonical NaN (R117, R118); formats without NaN give +0 (R125). -/
def FpFmt.nanCode (f : FpFmt) : Nat :=
  match f.top with
  | .ieee => f.infCode + 2 ^ (f.mbits - 1)
  | .e4m3 => 2 ^ (f.ebits + f.mbits) - 1
  | .finite => 0

/-- A code with its sign bit. -/
def FpFmt.signed (f : FpFmt) (neg : Bool) (code : Nat) : Nat :=
  if neg then code + 2 ^ (f.ebits + f.mbits) else code

/-- The magnitude code of the rounded value, or none when it exceeds the largest finite value (R124). -/
def FpFmt.roundCode (f : FpFmt) (mode : RMode) (neg : Bool) (m : Nat) (e : Int) : Option Nat :=
  if m = 0 then some 0 else
  let u := max (m.log2 + e - f.mbits) (1 - f.bias - f.mbits)
  let n := roundMag mode neg m e u
  let code := if n < 2 ^ f.mbits then n else ((u + f.mbits + f.bias).toNat <<< f.mbits) + (n - 2 ^ f.mbits)
  if code ≤ f.maxCode then some code else none

/-- The overflow rule of R102: infinity or the largest finite value, by mode and sign. -/
def FpFmt.overflow (f : FpFmt) (mode : RMode) (neg : Bool) : Nat :=
  f.signed neg <| match mode, neg with
    | .rz, _ => f.maxCode
    | .ru, true => f.maxCode
    | .rd, false => f.maxCode
    | _, _ => f.infCode

/-- Round a value into a floating format (R124, R125). `isFp32` ignores the saturate field. -/
def FpFmt.round (f : FpFmt) (mode : RMode) (sat : Bool) (v : Val) : Nat :=
  match v with
  | .nan => f.nanCode
  | .inf neg => match f.top with
    | .ieee => if sat then f.signed neg f.maxCode else f.signed neg f.infCode
    | .e4m3 => if sat then f.signed neg f.maxCode else f.signed neg f.nanCode
    | .finite => f.signed neg f.maxCode
  | .fin neg m e => match f.roundCode mode neg m e with
    | some c => f.signed neg c
    | none => match f.top with
      | .ieee => if sat then f.signed neg f.maxCode else f.overflow mode neg
      | .e4m3 => if sat then f.signed neg f.maxCode else f.signed neg f.nanCode
      | .finite => f.signed neg f.maxCode

/-- Round to an integer and clamp (R107, R124, R125): NaN gives 0. -/
def roundInt (mode : RMode) (lo hi : Int) (v : Val) : Int :=
  match v with
  | .nan => 0
  | .inf neg => if neg then lo else hi
  | .fin neg m e =>
    let n : Int := roundMag mode neg m e 0
    clamp lo hi (if neg then -n else n)

/-- Round into a table of AX4 magnitudes (R124): the index of the chosen magnitude. -/
def roundTable (mode : RMode) (mags : List Nat) (neg : Bool) (m : Nat) (e : Int) : Nat :=
  let x := if 0 ≤ e then m <<< e.toNat else m
  let one := if 0 ≤ e then 1 else 2 ^ (-e).toNat
  let i := ((List.range 8).reverse.find? (fun i => mags.getD i 0 * one ≤ x)).getD 0
  if i = 7 then 7 else
  let lo := mags.getD i 0 * one
  let gap := mags.getD (i + 1) 0 * one - lo
  let r := x - lo
  let up : Bool := match mode with
    | .rne => decide (gap < 2 * r) || (2 * r == gap && i % 2 == 1)
    | .rz => false
    | .ru => !neg && r != 0
    | .rd => neg && r != 0
    | .sr d => decide (2 ^ 16 ≤ (r <<< 16) / gap + d)
  if up then i + 1 else i

/-- Round a value into an element's code (R124 to R126). FP32 ignores `sat` (R125). -/
def roundElem (k : Elem) (mode : RMode) (sat : Bool) (v : Val) : Nat :=
  match k with
  | .fp f => f.round mode (sat && !(f == fp32)) v
  | .int true w => bitsAt (roundInt mode (-(2 ^ (w - 1))) (2 ^ (w - 1) - 1) v % 2 ^ w).toNat 0 w
  | .int false w => (roundInt mode 0 (2 ^ w - 1) v).toNat
  | .fix8 => bitsAt (roundInt mode (-128) 127 (v.scale 6) % 256).toNat 0 8
  | .table mags => match v with
    | .nan => 0
    | .inf neg => (if neg then 8 else 0) + 7
    | .fin neg m e => (if neg then 8 else 0) + roundTable mode mags neg m e

/-- rne32 of R8. -/
def rne32 (v : Val) : Word := BitVec.ofNat 32 (fp32.round .rne false v)

/-- Round into FP32 in a mode (R102). -/
def round32 (mode : RMode) (v : Val) : Word := BitVec.ofNat 32 (fp32.round mode false v)

/-- The value of an FP32 word. -/
def f32 (w : Word) : Val := decodeFp fp32 w.toNat

/-! ### Exact arithmetic on values -/

/-- The sign of a value; NaN counts as positive. -/
def Val.neg? : Val → Bool
  | .nan => false
  | .inf n => n
  | .fin n _ _ => n

/-- Exact negation; NaN stays NaN. -/
def Val.negate : Val → Val
  | .nan => .nan
  | .inf n => .inf (!n)
  | .fin n m e => .fin (!n) m e

/-- The magnitude. -/
def Val.abs : Val → Val
  | .nan => .nan
  | .inf _ => .inf false
  | .fin _ m e => .fin false m e

/-- Whether the value is zero. -/
def Val.isZero : Val → Bool
  | .fin _ 0 _ => true
  | _ => false

/-- Whether the value is NaN. -/
def Val.isNan : Val → Bool
  | .nan => true
  | _ => false

/-- Whether the value is an infinity. -/
def Val.isInf : Val → Bool
  | .inf _ => true
  | _ => false

/-- A finite value as an integer multiple of 2^u, for u at most its exponent. -/
def Val.units (v : Val) (u : Int) : Int :=
  match v with
  | .fin n m e => let x : Int := m <<< (e - u).toNat; if n then -x else x
  | _ => 0

/-- The exponent of a finite value's last bit. -/
def Val.exp (v : Val) : Int :=
  match v with
  | .fin _ _ e => e
  | _ => 0

/-- The exact sum (R102): opposite infinities give NaN; an exact zero sum of opposite signs is +0, or −0 when
`down` holds. -/
def Val.add (a b : Val) (down : Bool := false) : Val :=
  match a, b with
  | .nan, _ => .nan
  | _, .nan => .nan
  | .inf x, .inf y => if x = y then .inf x else .nan
  | .inf x, _ => .inf x
  | _, .inf y => .inf y
  | .fin n1 m1 e1, .fin n2 m2 e2 =>
    let u := min e1 e2
    let s := (Val.fin n1 m1 e1).units u + (Val.fin n2 m2 e2).units u
    if s = 0 then .fin (if n1 = n2 then n1 else down) 0 0 else .fin (decide (s < 0)) s.natAbs u

/-- The exact product (R102): ∞ × 0 gives NaN. -/
def Val.mul (a b : Val) : Val :=
  match a, b with
  | .nan, _ => .nan
  | _, .nan => .nan
  | .inf x, .inf y => .inf (x != y)
  | .inf x, .fin n m _ => if m = 0 then .nan else .inf (x != n)
  | .fin n m _, .inf y => if m = 0 then .nan else .inf (n != y)
  | .fin n1 m1 e1, .fin n2 m2 e2 => .fin (n1 != n2) (m1 * m2) (e1 + e2)

/-- p / q to 96 significant bits and a sticky bit, for q above 0: enough to round the exact quotient once. -/
def quotient (neg : Bool) (p q : Nat) (e : Int) : Val :=
  if p = 0 then .fin neg 0 0 else
  let k := 96 + q.log2 - p.log2
  let a := (p <<< k) / q
  let rem := (p <<< k) % q
  .fin neg (2 * a + (if rem = 0 then 0 else 1)) (e - k - 1)

/-- The quotient under IEEE 754 division (R245). -/
def Val.div (a b : Val) : Val :=
  match a, b with
  | .nan, _ => .nan
  | _, .nan => .nan
  | .inf _, .inf _ => .nan
  | .inf x, .fin n _ _ => .inf (x != n)
  | .fin n _ _, .inf y => .fin (n != y) 0 0
  | .fin n1 m1 e1, .fin n2 m2 e2 =>
    if m2 = 0 then (if m1 = 0 then .nan else .inf (n1 != n2)) else quotient (n1 != n2) m1 m2 (e1 - e2)

/-- a < b for values that are not NaN; −0 equals +0. -/
def Val.lt (a b : Val) : Bool :=
  match a, b with
  | .nan, _ => false
  | _, .nan => false
  | .inf x, .inf y => x && !y
  | .inf x, .fin .. => x
  | .fin .., .inf y => !y
  | .fin n1 m1 e1, .fin n2 m2 e2 =>
    let u := min e1 e2
    decide ((Val.fin n1 m1 e1).units u < (Val.fin n2 m2 e2).units u)

/-- a = b for values that are not NaN; −0 equals +0. -/
def Val.eq (a b : Val) : Bool :=
  match a, b with
  | .nan, _ => false
  | _, .nan => false
  | a, b => !a.lt b && !b.lt a

/-- The larger magnitude of two; NaN carries (R112, R140). -/
def amax2 (a b : Val) : Val :=
  if a.isNan || b.isNan then .nan else if a.abs.lt b.abs then b.abs else a.abs

/-- The min/max rule of R103 on codes of one format: the chosen operand bit for bit, or the canonical NaN. -/
def minMax (f : FpFmt) (max? : Bool) (a b : Nat) : Nat :=
  let x := decodeFp f a
  let y := decodeFp f b
  if x.isNan && y.isNan then f.nanCode
  else if x.isNan then b
  else if y.isNan then a
  else
    let less := x.lt y || (x.eq y && x.neg? && !y.neg?)
    if less then (if max? then b else a) else (if max? then a else b)

/-! ### The scale rule -/

/-- emax of a block format (R118, R120, R122). -/
def emaxOf (fmt ty : Nat) : Int :=
  match fmt with
  | 0x10 => 8
  | 0x11 => 15
  | 0x12 => 4
  | 0x13 => 2
  | 0x14 => 2
  | 0x15 => 0
  | _ => match ty with
    | 0 => 2
    | 1 => 2
    | 2 => 6
    | _ => 3

/-- The least and greatest scale exponents (R127). -/
def scaleLo (fmt : Nat) : Int := if fmt = 0x16 then -32 else -127
def scaleHi (fmt : Nat) : Int := if fmt = 0x16 then 30 else 127

/-- The byte of a scale exponent (R127). -/
def scaleByte (fmt ty : Nat) (x : Int) : Nat := if fmt = 0x16 then ty * 64 + (x + 32).toNat else (x + 127).toNat

/-- The NaN scale byte (R127). -/
def nanScaleByte (fmt ty : Nat) : Nat := if fmt = 0x16 then ty * 64 + 63 else 0xFF

/-- `scale_rule` (R127). -/
def scaleRule (amax : Val) (fmt ty : Nat) : Nat :=
  match amax with
  | .nan => nanScaleByte fmt ty
  | .inf _ => nanScaleByte fmt ty
  | .fin _ 0 _ => scaleByte fmt ty (scaleLo fmt)
  | .fin _ m e => scaleByte fmt ty (clamp (scaleLo fmt) (scaleHi fmt) (m.log2 + e - emaxOf fmt ty))

/-- The largest finite element value that the ceiling rule uses (R141): of MXINT8, which R118 and R120 do not list,
127/64 (R122; DEDUCED, notes/assumptions/60.md). -/
def maxElem (fmt ty : Nat) : Val :=
  match fmt with
  | 0x10 => .fin false 448 0
  | 0x11 => .fin false 57344 0
  | 0x12 => .fin false 28 0
  | 0x13 => .fin false 15 (-1)
  | 0x14 => .fin false 6 0
  | 0x15 => .fin false 127 (-6)
  | _ => match ty with
    | 0 => .fin false 7 0
    | 1 => .fin false 6 0
    | 2 => .fin false 64 0
    | _ => .fin false 12 0

/-- The ceiling rule of `scof` (R141): the smallest X with |a| / 2^X at most the largest element, clamped. -/
def ceilRule (amax : Val) (fmt ty : Nat) : Nat :=
  match amax with
  | .nan => nanScaleByte fmt ty
  | .inf _ => nanScaleByte fmt ty
  | .fin _ 0 _ => scaleByte fmt ty (scaleLo fmt)
  | .fin _ m e =>
    let x0 : Int := m.log2 + e - emaxOf fmt ty
    let fits (x : Int) : Bool := !((maxElem fmt ty).scale x).lt (.fin false m e)
    let x := if fits (x0 - 1) then x0 - 1 else if fits x0 then x0 else if fits (x0 + 1) then x0 + 1 else x0 + 2
    scaleByte fmt ty (clamp (scaleLo fmt) (scaleHi fmt) x)

/-- Quantise a value under a scale byte of a block format (R127): codes are 0 under the NaN scale. -/
def quantise (fmt s : Nat) (mode : RMode) (sat : Bool) (v : Val) : Nat :=
  if nanScale fmt s then 0
  else match elemOf fmt (scaleType fmt s) with
    | some k => roundElem k mode sat (v.scale (-(scaleExp fmt s)))
    | none => 0

/-! ### Format slots -/

/-- The fields of a format slot (R128). -/
def slotFmt (s : DWord) : Nat := bitsAt s.toNat 0 5
def slotRound (s : DWord) : Nat := bitsAt s.toNat 5 3
def slotSat (s : DWord) : Bool := bitsAt s.toNat 8 1 == 1
def slotAx4 (s : DWord) : Nat := bitsAt s.toNat 9 2
def slotStream (s : DWord) : Nat := bitsAt s.toNat 16 32

/-- Whether a slot's reserved fields and rounding code are permitted (R129). -/
def slotOk (s : DWord) : Bool :=
  bitsAt s.toNat 48 16 == 0 && bitsAt s.toNat 11 5 == 0 && slotRound s ≤ 4

/-! ### The coordinate hash -/

/-- `chg` (R130). -/
def chg (key : DWord) (stream : Nat) (ctr : DWord) : DWord :=
  let x := ctr
  let x := x ^^^ key
  let x := x * 0xD6E8FEB86659FD93#64
  let x := x ^^^ (x >>> 31)
  let x := x ^^^ (BitVec.ofNat 64 stream * 0x0000000100000001#64)
  let x := x * 0xA3B195354A39B70D#64
  let x := x ^^^ (x >>> 29)
  let x := x ^^^ key.rotateLeft 32
  let x := x * 0xE7C39A5B2F8146D5#64
  let x := x ^^^ (x >>> 32)
  let x := x ^^^ 0x71A40E9C5B2D83F6#64
  let x := x * 0x8F1BC462D3A75E29#64
  x ^^^ (x >>> 33)

/-- The mode of a slot's rounding for the element whose counter is `ctr` (R124, R126, R131). -/
def slotMode (s : DWord) (key ctr : DWord) : RMode :=
  match slotRound s with
  | 0 => .rne
  | 1 => .rz
  | 2 => .ru
  | 3 => .rd
  | _ => .sr (bitsAt (chg key (slotStream s) ctr).toNat 0 16)

/-! ### The ridge exponential -/

/-- T[j] = rne32(2^(j/64)) of R133. -/
def exp2aTable : List Nat :=
  [0x3F800000, 0x3F8164D2, 0x3F82CD87, 0x3F843A29, 0x3F85AAC3, 0x3F871F62, 0x3F88980F, 0x3F8A14D5] ++
  [0x3F8B95C2, 0x3F8D1ADF, 0x3F8EA43A, 0x3F9031DC, 0x3F91C3D3, 0x3F935A2B, 0x3F94F4F0, 0x3F96942D] ++
  [0x3F9837F0, 0x3F99E046, 0x3F9B8D3A, 0x3F9D3EDA, 0x3F9EF532, 0x3FA0B051, 0x3FA27043, 0x3FA43516] ++
  [0x3FA5FED7, 0x3FA7CD94, 0x3FA9A15B, 0x3FAB7A3A, 0x3FAD583F, 0x3FAF3B79, 0x3FB123F6, 0x3FB311C4] ++
  [0x3FB504F3, 0x3FB6FD92, 0x3FB8FBAF, 0x3FBAFF5B, 0x3FBD08A4, 0x3FBF179A, 0x3FC12C4D, 0x3FC346CD] ++
  [0x3FC5672A, 0x3FC78D75, 0x3FC9B9BE, 0x3FCBEC15, 0x3FCE248C, 0x3FD06334, 0x3FD2A81E, 0x3FD4F35B] ++
  [0x3FD744FD, 0x3FD99D16, 0x3FDBFBB8, 0x3FDE60F5, 0x3FE0CCDF, 0x3FE33F89, 0x3FE5B907, 0x3FE8396A] ++
  [0x3FEAC0C7, 0x3FED4F30, 0x3FEFE4BA, 0x3FF28177, 0x3FF5257D, 0x3FF7D0DF, 0x3FFA83B3, 0x3FFD3E0C]

/-- The part of `exp2a` for a finite y below 128, given as n + f with f = r / 2^k exactly (R133). -/
def exp2aCore (n : Int) (r k : Nat) : Word :=
  let j := (64 * r) >>> k
  let d : Val := .fin false (64 * r - j <<< k) (-(k : Int) - 6)
  let h := f32 (rne32 ((d.mul (f32 0x3E75FDF0)).add (f32 0x3F317218)))
  let q := f32 (rne32 ((d.mul h).add (f32 0x3F800000)))
  let z := (f32 (rne32 ((decodeFp fp32 (exp2aTable.getD j 0)).mul q))).scale n
  if z.lt (.fin false 1 (-126)) then 0 else rne32 z

/-- `exp2a` (R133). Below −128, T[j] × q is less than 4 and z less than 2^−126. -/
def exp2a (y : Word) : Word :=
  match f32 y with
  | .nan => 0x7FC00000
  | .inf neg => if neg then 0 else 0x7F800000
  | .fin neg m e =>
    if !(f32 y).lt (.fin false 128 0) then 0x7F800000
    else if (f32 y).lt (.fin true 128 0) then 0
    else if 0 ≤ e then exp2aCore (if neg then -(m <<< e.toNat : Int) else (m <<< e.toNat : Int)) 0 0
    else
      let k := (-e).toNat
      let i := m >>> k
      let r := m % 2 ^ k
      if neg then (if r = 0 then exp2aCore (-(i : Int)) 0 0 else exp2aCore (-(i : Int) - 1) (2 ^ k - r) k)
      else exp2aCore i r k

end Sys2Proof.Machine
end

