-- ==== Sys2Proof/Machine/Flags.lean ====
section
/-! DEFINITION. The Borpix has no status flags (R102): its conditions are predicates. The conditions that
instructions compute into predicates (R79, R96, R101, R104). -/

namespace Sys2Proof.Machine

open Sys2Proof

/-- The conditions of `iset` and `iset64` on words of `n` bits (R96, R101). -/
def icond {n : Nat} (m : Nat) (a b : BitVec n) : Bool :=
  match m with
  | 0 => a == b
  | 1 => a != b
  | 2 => a.toInt < b.toInt
  | 3 => a.toInt ≤ b.toInt
  | 4 => b.toInt < a.toInt
  | 5 => b.toInt ≤ a.toInt
  | 6 => a.toNat < b.toNat
  | 7 => a.toNat ≤ b.toNat
  | 8 => b.toNat < a.toNat
  | _ => b.toNat ≤ a.toNat

/-- The conditions of `fset` (R104): −0 equals +0. -/
def fcond (m : Nat) (a b : Word) : Bool :=
  let x := f32 a
  let y := f32 b
  let un := x.isNan || y.isNan
  match m with
  | 0 => !un && x.eq y
  | 1 => un || !x.eq y
  | 2 => !un && x.lt y
  | 3 => !un && (x.lt y || x.eq y)
  | 4 => !un && y.lt x
  | 5 => !un && (y.lt x || x.eq y)
  | 6 => un
  | _ => !un

/-- The operations of `plog` (R79). -/
def plogVal (m : Nat) (a b : Bool) : Bool :=
  match m with
  | 0 => a && b
  | 1 => a || b
  | 2 => a != b
  | 3 => a && !b
  | 4 => !(a && b)
  | 5 => !(a || b)
  | 6 => a == b
  | _ => !a

end Sys2Proof.Machine
end

