-- ==== Sys2Proof/Machine/Sig.lean ====
section
/-! DEFINITION. What every instruction names (its operands with their classes, group sizes and use), which of its
field values R45 to R47 permit, and the decode fates that follow (R41 to R44, R47). -/

namespace Sys2Proof.Machine

open Sys2Proof

/-- One register operand of an instruction: the 8-bit specifier (R41), the classes its position permits, the
number of consecutive registers it names, the alignment of the first, and whether it is read and written. -/
structure Opd where
  spec : Nat
  v : Bool := true
  w : Bool := true
  k : Bool := false
  z : Bool := true
  n : Nat := 1
  al : Nat := 1
  rd : Bool := false
  wr : Bool := false
  deriving DecidableEq, Repr

/-- What a decoder and the hazard rules need to know of one instruction. `fmt` is the FORMAT subcode that its slot
and format codes give (R116, R129), which every performing thread takes after the hazard checks. -/
structure Sig where
  majorOk : Bool := true
  minorOk : Bool := true
  resOk : Bool := true
  specOk : Bool := true
  ops : List Opd := []
  predR : List Nat := []
  predW : List Nat := []
  g : Nat := 7
  ng : Bool := false
  noGuard : Bool := false
  typeT : Bool := false
  vclass : Bool := false
  sys : Bool := false
  alwaysUniform : Bool := false
  fmt : Option Nat := none
  len : Nat := 4
  sw : Bool := false
  deriving DecidableEq, Repr

/-! ### Operand shapes -/

/-- A source of `n` consecutive registers, aligned to `n`. -/
def src (s : Nat) (n : Nat := 1) : Opd := { spec := s, n := n, al := n, rd := true }
/-- A destination of `n` consecutive registers, aligned to `n`. -/
def dst (s : Nat) (n : Nat := 1) : Opd := { spec := s, n := n, al := n, wr := true }
/-- A register that is read and written. -/
def srcDst (s : Nat) (n : Nat := 1) : Opd := { spec := s, n := n, al := n, rd := true, wr := true }
/-- A position that must hold 0xFF. -/
def noneAt (s : Nat) : Opd := { spec := s, v := false, w := false }

/-- Specifier values (R41). -/
def specIsV (s : Nat) : Bool := s < 0x80
def specIsW (s : Nat) : Bool := 0x80 ≤ s && s < 0xC0
def specIsK (s : Nat) : Bool := 0xC0 ≤ s && s < 0xD0

/-- R47 step 6: the operand's class is permitted. A group of k registers that leaves its class fails here, and so
does an aligned group of w registers that runs past w63, whose fate R41 does not state (DEDUCED,
notes/assumptions/54.md); a group with a misaligned start is left to step 7. -/
def Opd.classOk (o : Opd) : Bool :=
  if specIsV o.spec then o.v
  else if specIsW o.spec then o.w && (o.spec % o.al != 0 || o.spec + o.n ≤ 0xC0)
  else if specIsK o.spec then o.k && o.spec + o.n ≤ 0xD0
  else o.z && o.spec == 0xFF

/-- R47 step 7: pairs and quads are aligned. -/
def Opd.alignOk (o : Opd) : Bool := o.spec == 0xFF || o.spec % o.al == 0

/-- A guard of 7 without negation (R42). -/
def Sig.always (x : Sig) : Bool := x.g == 7 && !x.ng

/-- R43, R49: what a w destination forbids. -/
def Sig.uniformOk (x : Sig) : Bool :=
  !(x.ops.any (fun o => o.wr && specIsW o.spec)) ||
    (x.always && !x.vclass && !x.typeT && x.predR.isEmpty &&
      x.ops.all (fun o => !o.rd || specIsW o.spec || o.spec == 0xFF))

/-- R42, R47 step 9. -/
def Sig.guardOk (x : Sig) : Bool := !(x.g == 7 && x.ng) && (!x.noGuard || x.always)

/-- Steps 4 to 9 of R47: the ILLOP subcode of the first check that fails. -/
def Sig.fate (x : Sig) : Option Nat :=
  if !x.minorOk then some 2
  else if !x.resOk then some 3
  else if !(x.specOk && x.ops.all Opd.classOk) then some 4
  else if !x.ops.all Opd.alignOk then some 5
  else if !x.uniformOk then some 6
  else if !x.guardOk then some 7
  else none

/-- Whether a run of the instruction occupies its lane for one clock (R63). A destination p7, whose write is discarded, counts
as none, which no rule states (DESIGN CHOICE, notes/assumptions/70.md). -/
def Sig.uniform (x : Sig) : Bool :=
  x.alwaysUniform ||
    (x.always && x.predR.isEmpty && x.predW.isEmpty && !x.typeT &&
      x.ops.all (fun o => specIsW o.spec || o.spec == 0xFF))

/-! ### A- and B-form instructions, narrow or wide -/

/-- An instruction of form A or B with its fields as 8-bit specifiers: from a W32 word, a C16 halfword or the
wide form (R35, R36, R44). -/
structure Gen where
  wide : Bool := false
  len : Nat := 4
  major : Nat
  minor : Nat := 0
  imm : Nat := 0
  d : Nat := 0
  a : Nat := 0
  b : Nat := 0
  g : Nat := 7
  ng : Bool := false
  sw : Bool
  resOk : Bool := true
  deriving DecidableEq, Repr

/-- The A-form majors (R45). -/
def isFormA (mj : Nat) : Bool :=
  mj == 0x04 || (0x08 ≤ mj && mj ≤ 0x0D) || mj == 0x0F || (0x20 ≤ mj && mj ≤ 0x26) || mj == 0x2E || mj == 0x2F ||
  mj == 0x30 || mj == 0x31 || (0x38 ≤ mj && mj ≤ 0x3E) || (0x40 ≤ mj && mj ≤ 0x42) || mj == 0x70 || mj == 0x73 ||
  mj == 0x74

/-- The B-form majors (R45). -/
def isFormB (mj : Nat) : Bool :=
  mj == 0x06 || mj == 0x07 || mj == 0x12 || (0x27 ≤ mj && mj ≤ 0x2B) || (0x48 ≤ mj && mj ≤ 0x4B) || mj == 0x50 ||
  mj == 0x71 || mj == 0x72

/-- The majors that take only privileged threads (R47 step 3). -/
def isSysMajor (mj : Nat) : Bool := 0x70 ≤ mj && mj ≤ 0x74

def Gen.ofA (mj : Nat) (f : FormA) : Gen :=
  { major := mj, minor := f.m.toNat, d := f.d.toNat, a := f.a.toNat, b := f.b.toNat, sw := f.sw }
def Gen.ofU (mj : Nat) (f : FormU) : Gen :=
  { major := mj, minor := f.m.toNat, d := f.d.toNat, a := f.a.toNat, sw := f.sw }
def Gen.ofB (mj : Nat) (f : FormB) : Gen :=
  { major := mj, imm := f.imm.toNat, d := f.d.toNat, a := f.a.toNat, sw := f.sw }

/-- A two-address C16 operation as its longer equivalent (R35): d := d op s. -/
def Gen.ofC16 (mj mn : Nat) (sw : Bool) (d r : BitVec 5) : Gen :=
  { len := 2, major := mj, minor := mn, d := d.toNat, a := d.toNat, b := r.toNat, sw := sw }

/-- The inner instruction of a wide word (R44). -/
def Gen.ofWide (x : FormX) : Gen :=
  let mj := x.fld 52 46
  { wide := true, len := 8, major := mj, minor := x.fld 56 53, imm := x.fld 62 53,
    d := x.d.toNat, a := x.a.toNat, b := x.b.toNat, g := x.g.toNat, ng := x.ng, sw := x.sw,
    resOk := x.c.toNat == 0xFF && (if isFormA mj then x.fld 63 57 == 0 else x.fld 63 63 == 0) }

/-- A field that the instruction does not use: zero, or 0xFF in the wide form (R44, R92). -/
def Gen.unused (x : Gen) (f : Nat) : Bool := f == (if x.wide then 0xFF else 0)

/-- imm10, signed. -/
def Gen.simm (x : Gen) : Int := sext 10 x.imm

/-- The base of the signature of a narrow or wide instruction. `res` lists its reserved-field conditions, `pf` its
predicate fields, whose bits [5:3] must be zero, or which must lie in 0 to 7 in the wide form (R37, R44). -/
def Gen.sig (x : Gen) (minors : Nat) (res : Bool) (pf : List Nat) (ops : List Opd) (predR predW : List Nat) : Sig :=
  { minorOk := x.minor < minors
    resOk := x.resOk && res && (x.wide || pf.all (· < 8))
    specOk := !x.wide || pf.all (· < 8)
    ops := ops, predR := predR, predW := predW.filter (· != 7), g := x.g, ng := x.ng, len := x.len, sw := x.sw,
    sys := isSysMajor x.major }

/-- Three-register A-form. -/
def Gen.dab (x : Gen) (minors : Nat) : Sig := x.sig minors true [] [src x.a, src x.b, dst x.d] [] []
/-- Two-register A-form with b unused. -/
def Gen.da (x : Gen) (minors : Nat) : Sig := x.sig minors (x.unused x.b) [] [src x.a, dst x.d] [] []
/-- A comparison into a predicate. -/
def Gen.pab (x : Gen) (minors : Nat) : Sig := x.sig minors true [x.d] [src x.a, src x.b] [] [x.d]
/-- B-form with an immediate. -/
def Gen.dai (x : Gen) (res : Bool := true) : Sig :=
  { x.sig 16 (res && x.unused x.b) [] [src x.a, dst x.d] [] [] with minorOk := true }

/-- Whether a special register is 64 bits wide, and whether it is of type T (R91). -/
def special64 (n : Nat) : Bool := n == 16 || n == 17 || n == 18
def specialT (n : Nat) : Bool := n == 0 || n == 1

/-- The control registers of R303: their numbers, and those of 64 bits. -/
def ctlAssigned (n : Nat) : Bool := n ≤ 4 || (16 ≤ n && n ≤ 28) || n == 32
def ctl64 (n : Nat) : Bool := n == 1 || n == 2 || n == 3 || n == 16 || n == 18 || n == 20 || n == 22 || n == 32

/-- The signature of an instruction of form A or B (chapters 3, 4, 5, 7 and 10). -/
def Gen.theSig (x : Gen) : Sig :=
  match x.major with
  | 0x04 => { x.sig 5 (x.unused x.d && x.unused x.a && x.unused x.b) [] [] [] [] with
              alwaysUniform := x.minor == 0 || x.minor == 3 }
  | 0x06 | 0x07 => { x.sig 16 (x.imm != 0 && x.unused x.d && x.unused x.b) [] [src x.a] [] [] with minorOk := true }
  | 0x08 => if x.minor = 7 then x.sig 8 (x.unused x.b) [x.d, x.a] [] [x.a] [x.d]
            else x.sig 8 true [x.d, x.a, x.b] [] [x.a, x.b] [x.d]
  | 0x09 => if x.minor = 2 ∨ x.minor = 3 then x.sig 5 (x.unused x.b) [x.d, x.a] [] [x.a] [x.d]
            else x.sig 5 (x.unused x.b) [x.a] [dst x.d] [x.a] []
  | 0x0A => { x.sig 2 true [x.b] [src x.a (x.minor + 1), dst x.d 2] [] [x.b] with vclass := true }
  | 0x0B => x.sig 1 (x.unused x.a && x.unused x.b) [x.d] [] [] [x.d]
  | 0x0C => x.sig 4 (x.unused x.a && x.unused x.b) [x.d] [] [] [x.d]
  | 0x0D => if x.minor = 0 then x.sig 2 (x.unused x.a && x.unused x.b && x.unused x.d) [] [] [] []
            else x.sig 2 (x.unused x.b && x.unused x.d) [] [src x.a 2] [] []
  | 0x0F => x.sig 2 (x.unused x.b && x.unused x.d) [] [{ spec := x.a, n := 16, al := 4, rd := true }] [] []
  | 0x12 => { x.sig 16 (x.imm < 20 && x.unused x.a && x.unused x.b) []
                [dst x.d (if special64 x.imm then 2 else 1)] [] [] with minorOk := true, typeT := specialT x.imm }
  | 0x20 => x.dab 6
  | 0x21 => x.dab 4
  | 0x22 => x.dab 4
  | 0x23 => x.dab 6
  | 0x24 => x.dab 5
  | 0x25 => x.da 10
  | 0x26 => x.pab 10
  | 0x27 | 0x28 | 0x29 | 0x2A => x.dai
  | 0x2B => x.dai (bitsAt x.imm 5 3 ≤ 4 && bitsAt x.imm 8 2 == 0)
  | 0x2E => x.dab 16
  | 0x2F => x.dab 2
  | 0x30 => x.sig 1 true [] [src x.a, src x.b, srcDst x.d] [] []
  | 0x31 => { x.dab 4 with vclass := true }
  | 0x38 => x.dab 4
  | 0x39 => x.dab 4
  | 0x3A => x.pab 8
  | 0x3B => { x.da 8 with vclass := true }
  | 0x3C => x.da 4
  | 0x3D => x.da 2
  | 0x3E => x.dab 8
  | 0x40 => { x.dab 8 with vclass := 4 ≤ x.minor }
  | 0x41 => { x.da 12 with vclass := true }
  | 0x42 => { x.da 4 with vclass := true }
  | 0x48 => { x.sig 16 (x.unused x.b) [] [src x.a 2, dst x.d] [] [] with minorOk := true, vclass := true }
  | 0x49 => { x.sig 16 (x.unused x.b) [] [src x.a 2, dst x.d 4] [] [] with minorOk := true, vclass := true }
  | 0x4A => { x.sig 16 (x.unused x.b) [] [src x.a 2, src x.d] [] [] with minorOk := true }
  | 0x4B => { x.sig 16 (x.unused x.b) [] [src x.a 2, src x.d 4] [] [] with minorOk := true }
  | 0x50 => { x.sig 16 (bitsAt x.imm 4 6 == 0 && x.unused x.a && x.unused x.b) [] [dst x.d] [] []
              with minorOk := true }
  | 0x70 | 0x74 => x.sig 1 (x.unused x.d && x.unused x.a && x.unused x.b) [] [] [] []
  | 0x71 => { x.sig 16 (ctlAssigned x.imm && x.unused x.a && x.unused x.b) []
                [dst x.d (if ctl64 x.imm then 2 else 1)] [] [] with minorOk := true }
  | 0x72 => { x.sig 16 (ctlAssigned x.imm && x.unused x.d && x.unused x.b) []
                [src x.a (if ctl64 x.imm then 2 else 1)] [] [] with minorOk := true }
  | 0x73 => if x.minor = 0 then x.sig 2 (x.unused x.d && x.unused x.b) [] [src x.a 2] [] []
            else x.sig 2 (x.unused x.d && x.unused x.a && x.unused x.b) [] [] [] []
  | _ => { majorOk := false, g := x.g, ng := x.ng, len := x.len, sw := x.sw, sys := isSysMajor x.major }

end Sys2Proof.Machine

namespace Sys2Proof

/-- The base of the signature of an X64 instruction: its reserved-field conditions and its operands. -/
def FormX.sig (x : FormX) (res : Bool) (ops : List Machine.Opd) : Machine.Sig :=
  { resOk := res, ops := ops, g := x.g.toNat, ng := x.ng, len := 8, sw := x.sw }

end Sys2Proof
end

