-- ==== Sys2Proof/Config.lean ====
section
/-! DEFINITION. What the manual leaves to the implementation. Every open value is a constant without a body:
nothing can be proved of what it is (notes/assumptions/2.md, 5.md, 40.md). -/

namespace Sys2Proof.Config

/-- How many arithmetic clocks of a compute island pass in one step of the model, beyond the first
(R24, R25, R63: clocks are timing; notes/assumptions/2.md). Arguments: the island, the step's number. -/
opaque extraClocks : Nat → Nat → Nat

/-- How many nanoseconds of `$time` pass in one step (R25, R329; notes/assumptions/2.md). -/
opaque nanos : Nat → Nat

/-- Where the read-back window shows the state of a kind, die and unit: offset and length (R337 gives the directory, not the
places; notes/assumptions/40.md). -/
opaque readbackSpan : Nat → Nat → Nat → Nat × Nat

/-- The word that the read-back window shows of a piece of state, at an offset within its span (R337 gives no layout;
notes/assumptions/40.md). Arguments: the type of the piece, its kind, die and unit, the piece, the offset. -/
opaque readback : (α : Type) → Nat → Nat → Nat → α → Nat → DWord

/-- The attestation signature over the report bytes: made with the fused identity key, which the manual does
not state (R334; notes/assumptions/40.md). Arguments: the report, the request's number. Its 512 bytes as a number. -/
opaque attestSignature : List Byte → Nat → Nat

/-- By which of the ports that can take it a packet to another package leaves (R11, R260: adaptive routing chooses;
notes/assumptions/13.md). Argument: the packet's number. -/
opaque portChoice : Nat → Nat

/-- Which of several offending operands `$tinfo` names, where more than one meets the trap's condition (R303 says
"the specifier"; notes/assumptions/5.md). Argument: the step's number. -/
opaque offender : Nat → Nat

/-- The nanoseconds by which the time base would slew in a step; R329 bounds the rate, not the amount
(notes/assumptions/41.md). Argument: the step's number. -/
opaque slew : Nat → Nat

/-- The channel of its stack that stores a line (R335, R338; R28 gives the stack, not the channel;
notes/assumptions/42.md). Argument: the line's physical address over 128. -/
opaque channelOf : Nat → Nat

/-- The bank and row of its stack that store a line (R338 speaks of them; notes/assumptions/42.md). -/
opaque rowOf : Nat → Nat × Nat

/-- The `SVCREQ` bit that a function sets that fails for good, by its readiness bit (R339 does not say which;
notes/assumptions/42.md). -/
opaque failBit : Nat → Nat

/-- Spare rows of an HBM bank, which R338 speaks of and does not count (notes/assumptions/42.md). -/
opaque spareRows : Nat

end Sys2Proof.Config
end

