-- ==== Sys2Proof/Machine/State.lean ====
section
/-! DEFINITION. The state of one Daxger D9 package (R9 to R31 and the chapters named at each field), as plain
data, the reasons a step can stop, and the state after reset (R339). -/

namespace Sys2Proof.Machine

open Sys2Proof

/-! ### Threads -/

/-- A register as the pending set names it (R50): v, k or p. -/
inductive RegName where
  | v (n : Nat)
  | k (n : Nat)
  | p (n : Nat)
  deriving DecidableEq, Repr

/-- A place a result is written to: a v, k, p or w register, or one byte of a k register (R134). -/
inductive Dest where
  | v (n : Nat)
  | k (n : Nat)
  | kb (n b : Nat)
  | p (n : Nat)
  | w (n : Nat)
  deriving DecidableEq, Repr

/-- One register write; a predicate is true when the value is not zero. -/
structure RegWrite where
  dest : Dest
  val : Word
  deriving DecidableEq, Repr

/-- A trap taken by a thread (R306): its code, subcode, `$taddr`, `$tinfo`, whether it is late (R309), the
address of the instruction and the resume address. -/
structure Trap where
  code : TrapCode
  sub : Nat
  addr : DWord
  info : Word
  late : Bool
  tpc : DWord
  epc : DWord
  deriving DecidableEq, Repr

/-- What an outstanding V-class result still waits for (R49, R111, R174): nothing but its time, on the core (`ready`)
or from memory (`load`, which pre-emption does not await, R318; `far` outside the die, R322) or from the home of a line in another package (`away`, R254);
a round of a crew-scope `shfl`; the fill bits of the
lines that a `tld.stream` reads. -/
inductive ResultKind where
  | ready
  | load (far : Bool)
  | away
  | shfl (src round : Nat) (own : Word) (dest : Dest)
  | stream (h row col n : Nat) (d : Nat) (kn kb : Option Nat)
  deriving DecidableEq, Repr

/-- A V-class result not yet written (R50): its register writes, and the late failure it will report (R309). -/
structure Result where
  rid : Nat
  kind : ResultKind
  writes : List RegWrite
  late : Option Trap
  deriving DecidableEq, Repr

/-- A counter name (R155): a block counter q, or a network counter n of the issuing die and context. -/
structure CtrRef where
  net : Bool
  num : Nat
  deriving DecidableEq, Repr

/-- Tile states (R151), in the order of their codes 0 to 5. -/
inductive TileState where
  | free | empty | filling | ready | draining | engaged
  deriving DecidableEq, Repr

/-- What a thread parked at its instruction waits for before it reissues it (R68). -/
inductive Cond where
  | results
  | tileNot (h : Nat) (states : List TileState)
  | fillRoom (h : Nat)
  | mcastDone (h : Nat)
  | convIdle (j : Nat)
  | notLent (regs : List RegName)
  | tokenFree (h : Nat)
  | copyRoom
  | counter (c : CtrRef) (k : DWord)
  | spawnRoom
  | sendRoom
  | recvRoom
  | workRoom
  | stackReady (k : Nat)
  | lineFree (line : Nat) (wr : Bool)
  | lineHere (line : Nat)
  | redsDone
  | acked (tis : List Nat)
  | answered (tis : List Nat)
  | after (tis : List Nat)
  deriving DecidableEq, Repr

/-- A `waita` in progress (R209): the watched location, the condition, and what completion writes. -/
structure WaitA where
  va : DWord
  pa : Nat
  cond : Nat
  x : DWord
  b64 : Bool
  pd : Nat
  deadline : Option Nat
  deriving DecidableEq, Repr

/-- Why a thread is not ready (R63, R68). `sc` waits until an access to a page with the sc bit is performed (R218): until the
result named is written, or with none until its store is performed; `queued` waits for its ridge operation's queue entry (R224), `conv j` for
the operation of convergence register j to enter the queue (R228). -/
inductive Park where
  | ready
  | marker
  | sc (rid : Option Nat)
  | retry (c : Cond)
  | bar (lv id : Nat)
  | wsync (set : BitVec 64)
  | fuse (n : Nat) (pd : Nat)
  | waita (w : WaitA)
  | idle (deadline : Nat)
  | queued
  | conv (j : Nat)
  | cancel (c : CtrRef) (num : DWord) (pd : Nat)
  | handler (tr : Trap)
  | host (tr : Trap) (idx : Option Nat)
  deriving DecidableEq, Repr

/-- One thread (R59 to R63, R66, R76, R111, R300, R303). `v` holds as many registers as the thread's register
count; `badRegs` the registers marked by an uncorrectable error (R335), v by its number, k from 0xC0 and p from 0xE0; `shares` holds what the thread gave to each crew-scope round it took, so its length is the crew-exchange
count; `mark` says that the switch marker of the instruction it is parked in still has to be obeyed; a late failure
stands in `lates` under the number of its result, which follows program order (R309). `reds` holds the window, the block
and the round of each `red` to a window that is not yet performed (R266, R269). `fenced` is the widest scope at which a fence
has made the thread's later writes releases (R214). `back` is the length of the instruction that a parked thread has gone past. -/
structure Thread where
  crew : Nat
  tid : Nat
  lane : Nat
  slot : Nat
  pc : DWord
  priv : Bool
  exited : Bool
  v : List Word
  k : List Word
  p : BitVec 8
  badRegs : List Nat
  pend : List RegName
  results : List Result
  lates : List (Nat × Trap)
  age : Nat
  ret : List DWord
  spilled : Nat
  shares : List (Option Word)
  reds : List (Nat × Nat × Nat) := []
  fenced : Option Nat := none
  park : Park
  mark : Bool
  back : Nat := 0
  tcause : Word
  tpc : DWord
  epc : DWord
  taddr : DWord
  tinfo : Word
  deriving DecidableEq, Repr

/-- One masked byte of a buffered store: physical address, the bits written, their value. -/
structure MaskByte where
  addr : Nat
  mask : Byte
  val : Byte
  deriving DecidableEq, Repr

/-- One entry of a warp's store queue (R213): the storing thread's index in its block, payload bytes, sidecar
bytes (keyed by line × 8 + byte), the lines it replaces whole with their sidecars, the lines whose payload its run
replaces whole, and the blocks of a line in the page's format (R335). `more` says that the next entry leaves the queue
with it: the parts of one `st.block` (R198); `sc` says that its thread is parked until it is performed (R218). -/
structure StoreEnt where
  ti : Nat
  cells : List MaskByte
  sides : List (Nat × Byte)
  lines : List Nat
  pay : List Nat
  nblk : Nat
  more : Bool := false
  sc : Bool := false
  deriving DecidableEq, Repr

/-- One warp (R61, R62, R67, R114, R213): its aligned slot group, its w registers, its store queue, the issue
clocks it has spent in the active set, when it last parked, and its w registers marked by an uncorrectable error (R335). -/
structure Warp where
  crew : Nat
  lane : Nat
  first : Nat
  size : Nat
  w : List Word
  stores : List StoreEnt
  issued : Nat
  parkTick : Nat
  badW : List Nat := []
  deriving DecidableEq, Repr

/-! ### Blocks -/

/-- One line of the tile store (R18): payload, sidecar, fill bit, and the mark of an uncorrectable error (R335). -/
structure Line where
  data : BitVec 1024
  side : DWord
  fill : Bool
  marked : Bool
  deriving DecidableEq, Repr

/-- One tile table entry (R147, R150, R151, R152, R172). `kind` is 0 plain, 1 accumulator, 2 ridge; `level` is
true for cluster level; `drains` counts the copies still reading the tile. -/
structure Tile where
  st : TileState
  kind : Nat
  level : Bool
  fmt : Nat
  rows : Nat
  cols : Nat
  lines : List Line
  fills : Nat
  drains : Nat
  landed : Nat
  drop : Byte
  aborted : Bool
  truncated : Bool
  emptyRow : Bool
  deriving DecidableEq, Repr

/-- States of a convergence register (R225). -/
inductive ConvState where
  | idle | declared | joining | complete
  deriving DecidableEq, Repr

/-- One convergence register (R225 to R229). `word` is the first join's instruction; `freeing` says that a `jfree`
waits for the operation's queue entry (R228). -/
structure Conv where
  st : ConvState
  crews : BitVec 4
  cnt : Nat
  members : List Nat
  joined : List Nat
  word : Option FormX
  freeing : Bool
  deriving DecidableEq, Repr

/-- A timeline or network counter (R219): issued, completed, and the numbers done out of turn as ranges (first
number, how many). -/
structure Counter where
  i : DWord
  c : DWord
  done : List (DWord × DWord)
  deriving DecidableEq, Repr

/-- One barrier (R85, R86): the round's count field and the threads that have arrived, as (block, thread). -/
structure Bar where
  cnt : Nat
  arrived : List (Nat × Nat)
  deriving DecidableEq, Repr

/-- Where a block stands (R310, R318, R319, R320). `saved true` keeps its places. `ended` keeps the tiles of a block
that has ended until the copies that read or write them complete (R169). -/
inductive BlockStatus where
  | resident
  | stopped (cause : SaveCause)
  | saved (keep : Bool)
  | halted
  | ended
  deriving DecidableEq, Repr

/-- One admitted block (R17, R59, R298 to R300). A saved block is its save image (R318). -/
structure Block where
  bid : Nat
  lid : Nat
  cid : Nat
  ctx : Nat
  die : Nat
  bay : Nat
  pos : Nat
  token : Nat
  clus : Word
  blk : Nat
  nthr : Nat
  ncrew : Nat
  nblk : Nat
  bmask : Nat
  prio : Nat
  grans : Nat
  stack : Nat
  seed : DWord
  slots : List DWord
  places : List CrewPlace
  threads : List Thread
  warps : List Warp
  tiles : List Tile
  conv : List Conv
  q : List Counter
  crewBars : List (List Bar)
  blockBars : List Bar
  status : BlockStatus
  deriving DecidableEq, Repr

/-- One resident cluster with its barriers (R85, R298). -/
structure Cluster where
  cid : Nat
  lid : Nat
  bars : List Bar
  deriving DecidableEq, Repr

/-- The threads that issue together (R63, R66): the warp and the positions at the chosen address. -/
structure Run where
  bid : Nat
  crew : Nat
  lane : Nat
  first : Nat
  pos : List Nat
  addr : DWord
  deriving DecidableEq, Repr

/-- A warp as a partition's scheduler names it (R67). -/
structure WarpRef where
  bid : Nat
  crew : Nat
  lane : Nat
  first : Nat
  deriving DecidableEq, Repr

/-- The active and pending sets of one partition, and for each lane the place of the active set from which it issued last
(R67). The active set has 8 places, each free or held by a warp. -/
structure Sched where
  die : Nat
  core : Nat
  part : Nat
  active : List (Option WarpRef)
  pending : List WarpRef
  last : List (Option Nat)
  deriving DecidableEq, Repr

/-! ### Engines -/

/-- A tensor layout record (R156), decoded. -/
structure Layout where
  base : DWord
  fmt : Nat
  samp : List Nat
  ext : List Nat
  stride : List Int
  win : List Nat
  deriving DecidableEq, Repr

/-- Where the elements of a copy lie: in a tile from (row0, col0), in a tensor from an origin, or in the lines
of a message's payload, read as a virtual tile (R159, R177, R282), some of which came with an uncorrectable error (R283). -/
inductive Place where
  | tile (bid h row0 col0 : Nat)
  | tensor (lay : Layout) (o : List Nat)
  | lines (data : List WireLine) (fmt cols : Nat) (bad : List Nat)
  deriving DecidableEq, Repr

/-- Progress of a copy at one destination (R166). -/
inductive DstState where
  | coming | held | accepted | dropped
  deriving DecidableEq, Repr

/-- One destination of a copy: its place, the bay position a multicast names (none for the issuer's own), the
destination lines still to land as (box row, line) pairs, whether the box is turned (R182), the elements
written so far (R160), and the tile elements that a later copy of the same engine has written meanwhile (R165). -/
structure Dst where
  place : Place
  pos : Option Nat
  st : DstState
  todo : List (Nat × Nat)
  turned : Bool
  elems : Nat
  later : List (Nat × Nat)
  deriving DecidableEq, Repr

/-- What a copy does to values (R161): move codes, move whole lines, convert, or rotate and convert. -/
inductive Xf where
  | raw | lines | cvt | rhad
  deriving DecidableEq, Repr

/-- Whose operation a copy is (R163, R272, R281, R292). -/
inductive CopyOwner where
  | thread
  | landing (rid : Nat)
  | entry (eid : Nat)
  | node (die q node : Nat)
  deriving DecidableEq, Repr

/-- A copy or landing in flight (R162, R163, R167). `box` holds the windows, innermost first; `handle` is the
issuing handle of a multicast and `clus` its cluster (R166). -/
structure Copy where
  cid : Nat
  clus : Nat
  handle : Option Nat
  die : Nat
  bay : Nat
  core : Nat
  bid : Option Nat
  lid : Option Nat
  ctx : Nat
  owner : CopyOwner
  key : DWord
  slot : DWord
  xf : Xf
  src : Place
  box : List Nat
  dsts : List Dst
  ctr : Option CtrRef
  num : DWord
  stalled : Bool
  abandoned : Bool
  short : Bool
  deriving DecidableEq, Repr

/-- A matrix unit operation (R223). An `mma` holds the element codes and scale bytes it read at queue entry, row by row of A and
column by column of B, and whether a register that it read there was marked (R336). -/
inductive MatOp where
  | mma (bid j : Nat) (x : FormX) (a b : List (List Nat)) (sa sb : List (List Nat)) (bad : Bool)
  | init (bid td : Nat)
  | upd (bid td ta tb : Nat) (mask : Nat) (slot : DWord) (sigma maskWord : Word)
  | merge (bid td ta : Nat)
  | fin (bid td ta : Nat) (slot : DWord)
  deriving DecidableEq, Repr

/-- What waits for a matrix queue entry (R224): a COMPLETE convergence register, or a thread's ridge operation. -/
inductive MatWait where
  | conv (bid j : Nat)
  | ridge (op : MatOp) (bid ti : Nat)
  deriving DecidableEq, Repr

/-- The matrix unit of one core: its queue and the operations waiting to enter (R223, R224). -/
structure MatUnit where
  die : Nat
  core : Nat
  queue : List MatOp
  waiting : List MatWait
  deriving DecidableEq, Repr

/-- A bay's private partial value for `red.merge` (R206). -/
structure Churn where
  die : Nat
  bay : Nat
  pa : Nat
  op : Nat
  b64 : Bool
  val : DWord
  deriving DecidableEq, Repr

/-- A cached translation (R191), held in a core's first-level TLB (site = die × 48 + core), at a die's engines
(384 + die) or in a bay's second-level TLB (392 + die × 6 + bay). -/
structure TlbEntry where
  ctx : Nat
  site : Nat
  vbase : Nat
  level : Nat
  entry : DWord
  deriving DecidableEq, Repr

/-- A directory entry of a home slice (R253): an owner, up to 4 sharers, or the marked groups of group mode, and the endpoints
of other packages that an invalidation has been sent to and that have not answered. -/
structure DirEntry where
  line : Nat
  owner : Option Nat
  sharers : List Nat
  groups : List Nat
  asked : List Nat := []
  deriving DecidableEq, Repr

/-- Where a message stands (R273 to R281): on its way, refused, unexpected, matched, sent to another package, being
pulled by one, or taken. -/
inductive MsgState where
  | flight | refused | unexpected | matched (rid : Nat) | away | pulling | taken
  deriving DecidableEq, Repr

/-- A message (R273) from its send until both ends are done with it. `unread` counts the source lines not yet
read; `cut` says that an abandoned fault ended it short (R274); `order` is its place in the order of arrivals; `slot` is its place
among the sends in flight of its die (R274); `bad` holds the lines that came with an uncorrectable error, and `badSrc` says
that its source had one (R283, R336); `node` is its launch's node (R311). -/
structure Msg where
  mid : Nat
  job : Word
  ctx : Nat
  src : Nat
  dst : Nat
  tag : Word
  len : Nat
  data : List WireLine
  unread : Nat
  va : DWord
  tile : Option (Nat × Nat)
  bid : Option Nat
  lid : Option Nat
  ctr : Option CtrRef
  num : DWord
  entry : Option Nat
  order : Nat
  st : MsgState
  tries : Nat
  retryAt : Nat
  sent : Bool
  stalled : Bool
  cut : Bool
  slot : Nat := 0
  bad : List Nat := []
  badSrc : Bool := false
  node : Nat := 0
  deriving DecidableEq, Repr

/-- Where a posted receive stands (R278 to R286): `recordOut` while its record is on its way to another package (R283). -/
inductive RecvState where
  | posted | landing | recordHeld | recordOut
  deriving DecidableEq, Repr

/-- A posted receive (R277, R278), with its launch's node (R311). -/
structure Recv where
  rid : Nat
  ctx : Nat
  die : Nat
  bid : Nat
  src : Word
  tag : Word
  mask : Word
  tile : Option Nat
  lay : Option Layout
  origin : List Nat
  max : Nat
  status : DWord
  ctr : CtrRef
  num : DWord
  st : RecvState
  mid : Option Nat
  from_ : Nat
  mtag : Word
  mlen : Nat
  landed : Nat
  flags : Word
  node : Nat := 0
  deriving DecidableEq, Repr

/-- Where a work entry stands (R270 to R272). -/
inductive EntryState where
  | armed | running | stalled
  deriving DecidableEq, Repr

/-- A work entry (R270, R271), with the block, the thread and the launch's node that posted it, or the graph's node. -/
structure WorkEnt where
  eid : Nat
  die : Nat
  ctx : Nat
  bid : Option Nat
  ti : Option Nat
  node : Option (Nat × Nat × Nat)
  kind : Nat
  slot : DWord
  key : DWord
  trigger : Nat
  threshold : DWord
  remote : Nat
  src : DWord
  dst : DWord
  len : Nat
  rctr : Nat
  amount : Nat
  ctr : CtrRef
  num : DWord
  st : EntryState
  abandoned : Bool
  lnode : Nat := 0
  deriving DecidableEq, Repr

/-- A counter advance in flight (R219, R272, R292), with the die that sent it and the node or the work entry that it belongs
to, if any: the entry's block, counter and number. `away` says that it left as a packet under the number `slot`. -/
structure Advance where
  aid : Nat
  job : Word
  ctx : Nat
  die : Nat
  node : Option Nat
  ep : Nat
  ctr : Nat
  amount : Nat
  bid : Option Nat := none
  lctr : Option CtrRef := none
  num : DWord := 0
  owner : Option (Nat × Nat × Nat) := none
  away : Bool := false
  slot : Nat := 0
  deriving DecidableEq, Repr

/-- A reducing write on its way to its final hop (R264 to R268), with its issuing context and die, or with the endpoint
of another package that sent it, and its launch's node. `fp32` tells the target's format; `group` joins the final hops of one round of a window;
`away` says that it was sent to a home in another package, and `slot` is its place among those of its source. -/
structure Reduction where
  rid : Nat
  ctx : Nat
  die : Nat
  job : Word
  from_ : Option Nat
  pa : Nat
  fp32 : Bool
  codes : List Byte
  scale : Byte
  once : Option DWord
  group : Option Nat
  bid : Option Nat
  lid : Option Nat
  ctr : Option CtrRef
  num : DWord
  entry : Option Nat
  held : Bool
  away : Bool := false
  slot : Nat := 0
  node : Nat := 0
  deriving DecidableEq, Repr

/-- A contribution to a window round, or the result of a hop over several (R264, R265). `hop` is 0 for a
contribution, 1 for a leaf's result; `node` is the launch's node (R311), and `slot` the place of one of another package
among those of its source. -/
structure Contrib where
  gid : Nat
  win : Nat
  off : Nat
  round : Nat
  ep : Nat
  hop : Nat
  codes : List Byte
  scale : Byte
  ctx : Nat
  bid : Option Nat
  lid : Option Nat
  ctr : Option CtrRef
  num : DWord
  entry : Option Nat
  node : Nat := 0
  slot : Nat := 0
  deriving DecidableEq, Repr

/-- The state of one Flogal port (R255 to R258): the sequence numbers, the replay buffer, the accepted body
bytes, the failed replays of each lane and whether each lane works; the flit bodies that wait for room in the replay buffer,
and the flits put on the lanes, in order. -/
structure Port where
  rxExpect : Nat
  txNext : Nat
  replay : List (List Byte)
  rxBytes : List Byte
  discarding : Bool
  fails : List Nat
  lanes : List Bool
  resend : Option Nat
  queue : List (List Byte) := []
  wire : List (List Byte) := []
  deriving DecidableEq, Repr

/-- A packet held until the earlier packets of its stream arrive (R260), with what each stream expects next. -/
structure Stream where
  src : Nat
  dst : Nat
  job : Word
  next : Nat
  early : List Packet
  deriving DecidableEq, Repr

/-! ### The front end -/

/-- Node states (R293). -/
inductive NodeState where
  | waiting | ready | running | done
  deriving DecidableEq, Repr

/-- A resident node (R292, R293): its record, the remaining count, the decrements that reached it while it was READY,
the entries of a chain not yet posted, its times and status, the branch a conditional took (`second`), the completion record that
could not be written (R373), and while its record is on its way to another package what it ends with: its status and its list
(R295). -/
structure Node where
  idx : Nat
  raw : List Byte
  remaining : Int
  early : Nat
  chain : List WorkEnt
  st : NodeState
  readySeq : Nat
  ready : Nat
  start : Nat
  finish : Option Nat
  status : Nat
  worst : Nat
  second : Bool
  held : Bool
  workDone : Bool
  lid : Option Nat
  out : Option (Nat × List Nat) := none
  deriving DecidableEq, Repr

/-- The graph a queue runs (R290 to R294); `out` while its record is on its way to another package. -/
structure Graph where
  nodesVa : DWord
  count : Nat
  doneVa : DWord
  resident : Bool
  ready : Nat
  start : Option Nat
  finish : Option Nat
  nodes : List Node
  status : Nat
  ended : Bool
  held : Bool
  out : Bool := false
  deriving DecidableEq, Repr

/-- A hardware queue (R289, R290, R327): its descriptor bytes, its indices and its graph; `disabling` is the write that
clears enable, while it waits for the running graph to end. -/
structure Queue where
  die : Nat
  q : Nat
  desc : List Byte
  enabled : Bool
  disabling : Option (List Byte)
  head : Word
  tail : Word
  graph : Option Graph
  deriving DecidableEq, Repr

/-- The launch record (R296), decoded. -/
structure LaunchRec where
  entry : DWord
  crew : Nat
  crews : Nat
  blocks : Nat
  regs : Nat
  dies : Nat
  clusters : Nat
  tiles : Nat
  stack : Nat
  pool : Nat
  seed : DWord
  params : DWord
  queue : Nat
  prio : Nat
  done : DWord
  slots : List DWord
  bindings : List DWord
  deriving DecidableEq, Repr

/-- A continuation record in a spawn pool (R88, R301), with the clock at which it entered. -/
structure SpawnRec where
  entry : DWord
  args : List Word
  stamp : Nat
  deriving DecidableEq, Repr

/-- A launch in progress (R295, R301, R302): the next cluster, the pool of each die, the spawned crews formed
and not yet admitted, the clusters ended and the blocks halted; `out` while its record is on its way to another package. -/
structure Launch where
  lid : Nat
  ctx : Nat
  die : Nat
  q : Nat
  node : Nat
  rc : LaunchRec
  prio : Nat
  next : Nat
  pools : List (Nat × List SpawnRec)
  formed : List (Nat × List SpawnRec)
  ended : Nat
  halted : Nat
  status : Nat
  recordHeld : Bool
  out : Bool := false
  deriving DecidableEq, Repr

/-! ### Contexts and reports -/

/-- What a report is about, so that `$repact` can act on it (R312, R373). `none` asks for no action and is resolved when it
is written; `access` is a late failure of an access that returns nothing (R309), which an answer only resolves. -/
inductive RepTarget where
  | none
  | access
  | thread (bid ti : Nat)
  | copy (cid : Nat)
  | msg (mid : Nat)
  | recv (rid : Nat)
  | entry (eid : Nat)
  | reduction (rid : Nat)
  | round (win off k : Nat)
  | advance (aid : Nat)
  | block (bid : Nat)
  | watchdog (die : Nat)
  | nodeRec (die q node : Nat)
  | launchRec (lid : Nat)
  | graphRec (die q : Nat)
  deriving DecidableEq, Repr

/-- A report (R311) waiting to be written. -/
structure Report where
  kind : Nat
  code : TrapCode
  sub : Nat
  die : Nat
  token : Nat
  addr : DWord
  ctr : Nat
  num : DWord
  pc : DWord
  thread : Nat
  node : Nat
  target : RepTarget
  deriving DecidableEq, Repr

/-- One network counter that has been used: die, number, values (R219). -/
structure NetCtr where
  die : Nat
  num : Nat
  ctr : Counter
  deriving DecidableEq, Repr

/-- An applied once-tag pair (R267): the endpoint whose home slice applied it, tag, target block address. -/
structure OnceTag where
  ep : Nat
  tag : DWord
  pa : Nat
  deriving DecidableEq, Repr

/-- The counts behind items 6 to 8 of `fstat` (R287): refused sends, truncated receives, abandoned entries. -/
structure FabStat where
  die : Nat
  refused : Nat
  truncated : Nat
  abandoned : Nat
  deriving DecidableEq, Repr

/-- The watchdog of one context on one die (R322): clocks counted, and the clock at the last activity. -/
structure Watch where
  die : Nat
  since : Nat
  deriving DecidableEq, Repr

/-- A context (R289, R303, R304). -/
structure Context where
  num : Nat
  suspended : Bool
  destroying : Bool
  jobid : Word
  root : DWord
  handler : DWord
  route : Word
  stkbase : DWord
  stkmax : Word
  repbase : DWord
  repsize : Word
  rephead : Word
  reptail : Word
  repctr : List Word
  nctrs : List NetCtr
  once : List OnceTag
  stats : List FabStat
  held : List Report
  open_ : List (Nat × RepTarget)
  watch : List Watch
  deriving DecidableEq, Repr

/-! ### Platform -/

/-- The registers of one function page (R324), and the values that await a create (R304). -/
structure FnPage where
  fn : Nat
  intstat : DWord
  winva : DWord
  jobid : Word
  repbase : DWord
  repsize : Word
  deriving DecidableEq, Repr

/-- A carve record as accepted (R328); `Platform.carveRegs` holds the record registers as written. -/
structure Carve where
  die : Nat
  ubufBase : Nat
  ubufSize : Nat
  saveBase : Nat
  saveSize : Nat
  spawnBase : Nat
  spawnSize : Nat
  deriving DecidableEq, Repr

/-- An island's clock registers in MHz (R331), whether its junction limits it, and what it drew at the last sample
(R332). -/
structure Island where
  cur : Nat
  max : Nat
  min : Nat
  limited : Bool
  draw : Nat := 0
  deriving DecidableEq, Repr

/-- The boot ROM with its staging area (R333) and the attestation buffer (R334). -/
structure Boot where
  stage : List Host.Cell
  bootReg : Nat
  running : Bool
  imageDigest : List Byte
  version : Nat
  attest : Nat
  nonce : List Byte
  report : List Byte
  requests : Nat
  deriving DecidableEq, Repr

/-- The fuses (R333, R334, R337) with the identity certificate, the domain the package is cabled into, and the leaf number
of each endpoint of it (R250). -/
structure Fuses where
  vendorDigest : List Byte
  minVersion : Nat
  cert : List Byte
  pkg : Nat
  domain : List Nat
  leaves : List (Nat × Nat)
  deriving DecidableEq, Repr

/-- Corrected errors of a core since the day began to count them (R338): die, core, count, `$time` of the first. -/
structure CoreErrs where
  die : Nat
  core : Nat
  n : Nat
  since : Nat
  deriving DecidableEq, Repr

/-- Errors of one HBM row since it was last remapped (R338): corrected ones, and whether one was uncorrectable. -/
structure RowErrs where
  stack : Nat
  bank : Nat
  row : Nat
  n : Nat
  bad : Bool
  deriving DecidableEq, Repr

/-- Cores drained, spares in use and cores lost (R13, R14, R338), and the errors that engage them. -/
structure Spares where
  draining : List (Nat × Nat)
  lost : List (Nat × Nat)
  used : List (Nat × Nat)
  rowsUsed : List (Nat × Nat)
  channelsUsed : List Nat
  coreErrs : List CoreErrs := []
  rowErrs : List RowErrs := []
  deriving DecidableEq, Repr

/-- The filter that one home slice of a die keeps for one of the die's bays (R210): the lines its threads watch, entered
since the home clock at which it was last cleared. -/
structure WatchFilter where
  die : Nat
  slice : Nat
  bay : Nat
  lines : List Nat
  cleared : Nat
  deriving DecidableEq, Repr

/-- The package's platform state (R323 to R339). -/
structure Platform where
  rdymap : DWord
  svcreq : DWord
  pages : List FnPage
  carveRegs : List (List Byte)
  carves : List Carve
  islands : List Island
  clocks : List Nat
  time : Nat
  slewLeft : Int
  slewRoom : Nat
  throttled : Bool
  powerLimit : Bool
  stopped : Bool
  boot : Boot
  fuses : Fuses
  spares : Spares
  ports : List Port
  replayed : Nat
  corrected : Nat
  irqs : List (Nat × Nat)
  hostRead : List Byte
  dead : List Nat
  filters : List WatchFilter
  winbase : DWord
  deriving DecidableEq, Repr

/-! ### Memory -/

/-- A line marked by an uncorrectable error (R335): whether a run has rewritten its whole payload since, the
blocks that `st.block` has rewritten since, and how many blocks the line has in the format of those. -/
structure Mark where
  line : Nat
  pay : Bool
  blks : List Nat
  need : Nat := 0
  deriving DecidableEq, Repr

/-- Physical memory: the bytes, the sidecar bytes (keyed by line × 8 + byte), the lines marked by an
uncorrectable error, and the channels lost for good (R338), each as a stack's number in the domain and the channel. The
byte lists are strictly rising, and no byte listed is 0, which an unlisted byte reads as. -/
structure Mem where
  cells : List Host.Cell
  sides : List Host.Cell
  marks : List Mark
  lost : List (Nat × Nat)
  deriving DecidableEq, Repr

/-- How many contributions an endpoint has made to one block of a window (R264). -/
structure Round where
  win : Nat
  off : Nat
  ep : Nat
  n : Nat
  deriving DecidableEq, Repr

/-- Whose write to memory of another package it is: a thread's, a copy's, that of the record of a receive, a node, a graph or a
launch, or another engine's. -/
inductive PeerOwner where
  | thread (bid ti : Nat)
  | copy (cid : Nat)
  | recv (rid : Nat)
  | node (die q idx : Nat)
  | graph (die q : Nat)
  | launch (lid : Nat)
  | engine
  deriving DecidableEq, Repr

/-- A write that a die has sent to a line's home in another package, which has not acknowledged it (R252); `sc` says that its
thread is parked until it is performed (R218). -/
structure PeerWrite where
  die : Nat
  line : Nat
  owner : PeerOwner
  sc : Bool := false
  deriving DecidableEq, Repr

/-- A thread that takes part in a far atomic (R254): its operand's place in the packet, its outstanding result, if it keeps one,
whether it takes the old value and to which destination, and the late failure of a marked line. -/
structure PeerWaiter where
  ix : Nat
  bid : Nat
  ti : Nat
  rid : Option Nat
  ret : Bool
  d : Nat
  late : Trap
  deriving DecidableEq, Repr

/-- The far atomics of one instruction on one location, sent by a die to the line's home in another package (R204, R254). -/
structure PeerAtom where
  die : Nat
  pa : Nat
  b64 : Bool
  waiters : List PeerWaiter
  deriving DecidableEq, Repr

/-- What the dies have of memory of other packages (R252): the lines that a die holds a copy of, by die and line; those that it
has asked for, in order, with whether the answer may still be used; the writes not yet acknowledged; and the far atomics not yet
answered. -/
structure Peer where
  here : List (Nat × Nat)
  asked : List (Nat × Nat × Bool)
  writes : List PeerWrite
  atoms : List PeerAtom
  deriving DecidableEq, Repr

/-- The fabric's state: messages, receives, entries, reductions, streams, packets to other packages and what is held of their
memory. -/
structure Fabric where
  msgs : List Msg
  recvs : List Recv
  entries : List WorkEnt
  advances : List Advance
  reds : List Reduction
  contribs : List Contrib
  rounds : List Round
  streams : List Stream
  outbox : List Packet
  orders : List (Nat × Nat × Word × Nat)
  peer : Peer
  deriving DecidableEq, Repr

/-- Which lane issues next, or which engine or host step happens next: how the agents interleave. -/
inductive Turn where
  | issue (die core part lane : Nat)
  | event (i : Instr)
  deriving DecidableEq, Repr

/-- The state of the package. `agenda` holds the interleaving still to come (notes/assumptions/1.md): while it
is empty, the model chooses one allowed next step itself. `cur` is the run that issues. `nextId` names new
blocks, copies, messages and the like. -/
structure State where
  mem : Mem
  blocks : List Block
  clusters : List Cluster
  launches : List Launch
  queues : List Queue
  ctxs : List Context
  scheds : List Sched
  mats : List MatUnit
  copies : List Copy
  churn : List Churn
  tlb : List TlbEntry
  dir : List DirEntry
  fab : Fabric
  plat : Platform
  saveQ : List (Nat × Nat)
  cur : Option Run
  agenda : List Turn
  nextId : Nat
  tick : Nat
  deriving DecidableEq, Repr

/-- Why the machine stops. -/
inductive Fault where
  /-- Raised by `step` when a junction above 115 °C has stopped the package and nothing but a reset or a
  read-back read could happen (R332). Safe: the manual says that the whole package stops. -/
  | packageStopped
  deriving DecidableEq, Repr

/-- Why the model gives no next state. -/
inductive Refusal where
  /-- Raised by an arm of `exec` whose instruction has no meaning yet. Safe: nothing follows. -/
  | notModelled (mnemonic : String)
  deriving DecidableEq, Repr

/-! ### Reset -/

/-- A port just trained: sequence numbers at 0 (R256), both lanes working. -/
def Port.reset : Port :=
  { rxExpect := 0, txNext := 0, replay := [], rxBytes := [], discarding := false, fails := [0, 0],
    lanes := [true, true], resend := none }

/-- The function page of function `fn` at reset (R324). -/
def FnPage.reset (fn : Nat) : FnPage :=
  { fn := fn, intstat := 0, winva := 0, jobid := 0, repbase := 0, repsize := 0 }

/-- An island at reset: 850 MHz now and at most, 600 MHz at least (R331). -/
def Island.reset : Island := { cur := 850, max := 850, min := 600, limited := false }

/-- An island of a fixed clock (R331): the manual does not state it (notes/assumptions/43.md). -/
def Island.fixed : Island := { cur := 850, max := 850, min := 850, limited := false }

/-- The fuses of the model's package: R333 and R334 state none of them (notes/assumptions/39.md). -/
def Fuses.reset : Fuses := { vendorDigest := List.replicate 64 0, minVersion := 0, cert := [], pkg := 0, domain := [], leaves := [] }

/-- The platform right after reset (R339): nothing is ready yet but the boot ROM and the read-back window. -/
def Platform.reset : Platform :=
  { rdymap := 1, svcreq := 0, pages := (List.range 64).map FnPage.reset, carveRegs := List.replicate 8 (List.replicate 64 0), carves := [],
    islands := List.replicate 16 Island.reset ++ List.replicate 8 Island.fixed, clocks := List.replicate 16 0, time := 0, slewLeft := 0, slewRoom := 0,
    throttled := false, powerLimit := false, stopped := false,
    boot := { stage := [], bootReg := 0, running := false, imageDigest := [], version := 0, attest := 0, nonce := [],
              report := [], requests := 0 },
    fuses := Fuses.reset,
    spares := { draining := [], lost := [], used := [], rowsUsed := [], channelsUsed := [] },
    ports := List.replicate 128 Port.reset, replayed := 0, corrected := 0, irqs := [], hostRead := [], dead := [],
    filters := [], winbase := 0 }

/-- The machine right after reset (R339): no context, no block, no queue, empty memory. -/
def State.reset : State :=
  { mem := { cells := [], sides := [], marks := [], lost := [] }, blocks := [], clusters := [], launches := [], queues := [],
    ctxs := [], scheds := [], mats := [], copies := [], churn := [], tlb := [], dir := [],
    fab := { msgs := [], recvs := [], entries := [], advances := [], reds := [], contribs := [], rounds := [], streams := [],
             outbox := [], orders := [], peer := { here := [], asked := [], writes := [], atoms := [] } },
    plat := Platform.reset, saveQ := [], cur := none, agenda := [], nextId := 1, tick := 0 }

end Sys2Proof.Machine
end

