-- ==== Sys2Proof/Machine/Operands.lean ====
section
/-! DEFINITION. Reading and writing operands: register specifiers (R41), predicates (R37, R79), k bytes (R41), the
fragment registers of `mma` (R235) and the quads of block data (R52, R53). -/

namespace Sys2Proof.Machine

open Sys2Proof

/-- What an instruction may read of its thread: registers by specifier, and predicates. -/
structure Rd where
  r : Nat → Word
  p : Nat → Bool

/-- The value of a register specifier for a thread of a warp: 0xFF reads as zero (R41). -/
def readSpec (w : List Word) (t : Thread) (s : Nat) : Word :=
  if s < 0x80 then t.v.getD s 0
  else if s < 0xC0 then w.getD (s - 0x80) 0
  else if s < 0xD0 then t.k.getD (s - 0xC0) 0
  else 0

/-- A predicate's value; p7 reads true (R42, R74). -/
def readPred (t : Thread) (n : Nat) : Bool := n == 7 || t.p.toNat.testBit n

/-- What a thread's instruction reads. -/
def Thread.rd (t : Thread) (w : List Word) : Rd := { r := readSpec w t, p := readPred t }

/-- A pair, low word in the even register (R101); 0xFF reads as zero. -/
def Rd.pair (x : Rd) (s : Nat) : DWord := if s = 0xFF then 0 else Machine.pair (x.r s) (x.r (s + 1))

/-- One byte of a register, as for a k byte (R41). -/
def byteOf (w : Word) (b : Nat) : Nat := bitsAt w.toNat (8 * b) 8

/-- The place a destination specifier names; none for 0xFF (R41). -/
def destOf (s : Nat) : Option Dest :=
  if s < 0x80 then some (.v s)
  else if s < 0xC0 then some (.w (s - 0x80))
  else if s < 0xD0 then some (.k (s - 0xC0))
  else none

/-- The write of one register. -/
def wr (s : Nat) (x : Word) : List RegWrite :=
  match destOf s with
  | some d => [{ dest := d, val := x }]
  | none => []

/-- The writes of consecutive registers; none for 0xFF. -/
def wrs (s : Nat) : List Word → List RegWrite
  | [] => []
  | x :: xs => if s = 0xFF then [] else wr s x ++ wrs (s + 1) xs

/-- The write of a pair. -/
def wrPair (s : Nat) (x : DWord) : List RegWrite := wrs s [loWord x, hiWord x]

/-- The write of a predicate; p7 discards it (R79). -/
def wrPred (n : Nat) (b : Bool) : List RegWrite :=
  if n = 7 then [] else [{ dest := .p n, val := if b then 1 else 0 }]

/-- The write of one byte of a k register. -/
def wrKByte (n b x : Nat) : List RegWrite := [{ dest := .kb n b, val := BitVec.ofNat 32 x }]

/-- The register that the pending set names for a destination (R50); w registers are never pending. -/
def Dest.name : Dest → Option RegName
  | .v n => some (.v n)
  | .k n => some (.k n)
  | .kb n _ => some (.k n)
  | .p n => some (.p n)
  | .w _ => none

/-- Write one predicate bit. -/
def setPred (p : BitVec 8) (n : Nat) (b : Bool) : BitVec 8 := BitVec.ofNat 8 (putBits p.toNat n 1 (if b then 1 else 0))

/-- One register write to a thread; a write to a marked register clears its mark (R336). -/
def Thread.write1 (t : Thread) (x : RegWrite) : Thread :=
  match x.dest with
  | .v n => { t with v := setAt t.v n x.val, badRegs := t.badRegs.filter (· != n) }
  | .k n => { t with k := setAt t.k n x.val, badRegs := t.badRegs.filter (· != 0xC0 + n) }
  | .kb n b => { t with k := modAt t.k n (fun w => BitVec.ofNat 32 (putBits w.toNat (8 * b) 8 x.val.toNat)) }
  | .p n => if n = 7 then t
            else { t with p := setPred t.p n (x.val != 0), badRegs := t.badRegs.filter (· != 0xE0 + n) }
  | .w _ => t

/-- Register writes to a thread, in order. -/
def Thread.writes (t : Thread) (xs : List RegWrite) : Thread := xs.foldl Thread.write1 t

/-- The writes of w registers among register writes, made to a warp (R114). -/
def Warp.writes (w : Warp) (xs : List RegWrite) : Warp :=
  xs.foldl (fun w x => match x.dest with
    | .w n => { w with w := setAt w.w n x.val, badW := w.badW.filter (· != n) }
    | _ => w) w

/-- The register names of an operand for the hazard rules. -/
def Opd.names (o : Opd) : List RegName :=
  if specIsV o.spec then (List.range o.n).map (fun i => .v (o.spec + i))
  else if specIsK o.spec then (List.range o.n).map (fun i => .k (o.spec - 0xC0 + i))
  else []

/-! ### The fragments of `mma` -/

/-- The shape of a joined operation (R232, R233, R235): sizes, K, the registers of one share of A and of B, and
the k registers of their scales; `block` is false for BF16 and FP16. -/
structure MmaShape where
  m : Nat
  n : Nat
  k : Nat
  wa : Nat
  wb : Nat
  ka : Nat
  kb : Nat
  block : Bool
  fa : Nat
  fb : Nat
  deriving DecidableEq, Repr

/-- The format slot an instruction names (R128). -/
def slotOf (slots : List DWord) (n : Nat) : DWord := slots.getD n 0

/-- Registers of one share at an element width (R235). -/
def shareRegs (width : Nat) : Nat := if width = 4 then 1 else if width = 16 then 4 else 2

/-- Whether the formats of A and B pair (R233). -/
def mmaPair (fa fb : Nat) : Bool := (fmtBlock fa && fmtBlock fb) || (fa == fb && (fa == 0x01 || fa == 0x02))

/-- The shape that an `mma` and its block's slots give (R232, R233, R235). -/
def mmaShape (x : FormX) (slots : List DWord) : MmaShape :=
  let fa := slotFmt (slotOf slots (x.fld 55 53))
  let fb := slotFmt (slotOf slots (x.fld 52 50))
  let a := fmtWidth fa
  let b := fmtWidth fb
  let k := if a = 16 then 32 else if a = 4 ∧ b = 4 then 128 else 64
  { m := 64 * 2 ^ x.fld 59 58, n := 64 * 2 ^ x.fld 57 56, k := k, wa := shareRegs a, wb := shareRegs b,
    ka := k / 32, kb := k / 32, block := a != 16, fa := fa, fb := fb }

/-- The v registers that an `mma` reads of the member with an index, and the k registers (R235). -/
def mmaReads (x : FormX) (sh : MmaShape) (i : Nat) : List Opd :=
  let g := 4 * (sh.k / 32)
  let va : List Opd := if i < sh.m then [{ spec := x.a.toNat, n := g * sh.wa, rd := true }] else []
  let vb : List Opd := if i < sh.n then [{ spec := x.b.toNat, n := g * sh.wb, rd := true }] else []
  let kq (lim at_ n : Nat) : List Opd :=
    if sh.block && i % 4 == 0 && i < lim then [{ spec := at_, k := true, n := n, rd := true }] else []
  va ++ vb ++ kq sh.m x.c.toNat sh.ka ++ kq sh.n (x.c.toNat + sh.ka) sh.kb

/-- The lent registers of a thread: those that joined operations not yet in the queue read from it (R230). -/
def lentRegs (b : Block) (ti : Nat) : List RegName :=
  b.conv.flatMap (fun j =>
    match j.word with
    | some x => if j.joined.contains ti then (mmaReads x (mmaShape x b.slots) (j.members.idxOf ti)).flatMap Opd.names
                else []
    | none => [])

end Sys2Proof.Machine
end

