-- ==== Sys2Proof/Machine/Ops.lean ====
section
/-! DEFINITION. Named operations on the state: finding and changing blocks, threads, warps and contexts, switch
markers and the pending set (R50), taking a trap and returning from one (R306 to R309, R314), and the prologue
that every issuing instruction runs through (R41, R42, R47, R51, R230). -/

namespace Sys2Proof.Machine

open Sys2Proof

/-! ### Reports -/

/-- A report about an operation that names no counter, block or node (R311). -/
def Report.plain (kind : Nat) (code : TrapCode) (sub die : Nat) (addr : DWord) (target : RepTarget) : Report :=
  { kind := kind, code := code, sub := sub, die := die, token := 0xFFFF, addr := addr, ctr := 0xFFFF, num := 0,
    pc := 0, thread := 0, node := 0, target := target }

/-- The counter field of a report (R311). -/
def ctrField (r : Option CtrRef) : Nat :=
  match r with
  | some r => (if r.net then 2 ^ 15 else 0) + r.num
  | none => 0xFFFF

/-! ### Finding and changing parts of the state -/

def State.block? (s : State) (bid : Nat) : Option Block := s.blocks.find? (·.bid == bid)
def State.ctx? (s : State) (n : Nat) : Option Context := s.ctxs.find? (·.num == n)
def State.launch? (s : State) (lid : Nat) : Option Launch := s.launches.find? (·.lid == lid)

/-- The launch node of a launch (R311). -/
def State.nodeOf (s : State) (lid : Nat) : Nat := ((s.launch? lid).map (·.node)).getD 0
def State.copy? (s : State) (cid : Nat) : Option Copy := s.copies.find? (·.cid == cid)

/-- Change the blocks with an identity. -/
def State.modBlock (s : State) (bid : Nat) (f : Block → Block) : State :=
  { s with blocks := s.blocks.map (fun b => if b.bid = bid then f b else b) }

/-- Change the contexts with a number. -/
def State.modCtx (s : State) (n : Nat) (f : Context → Context) : State :=
  { s with ctxs := s.ctxs.map (fun c => if c.num = n then f c else c) }

def State.modLaunch (s : State) (lid : Nat) (f : Launch → Launch) : State :=
  { s with launches := s.launches.map (fun l => if l.lid = lid then f l else l) }

def State.modCopy (s : State) (cid : Nat) (f : Copy → Copy) : State :=
  { s with copies := s.copies.map (fun c => if c.cid = cid then f c else c) }

def State.modPlat (s : State) (f : Platform → Platform) : State := { s with plat := f s.plat }

def State.modFab (s : State) (f : Fabric → Fabric) : State := { s with fab := f s.fab }

/-- Change one thread of a block, by its index in the block (R60). -/
def Block.modThread (b : Block) (ti : Nat) (f : Thread → Thread) : Block :=
  { b with threads := modAt b.threads ti f }

def State.modThread (s : State) (bid ti : Nat) (f : Thread → Thread) : State :=
  s.modBlock bid (·.modThread ti f)

def State.thread? (s : State) (bid ti : Nat) : Option Thread := (s.block? bid).bind (·.threads[ti]?)

/-- The index of a thread within its block (R60). -/
def Block.tindex (b : Block) (t : Thread) : Nat := t.crew * b.nthr + t.tid

/-- The core's number in its die (R13). -/
def Block.core (b : Block) : Nat := 8 * b.bay + b.pos

/-- The site of a block's core, of a die's engines and of a bay, as the translation caches name them (R191). -/
def Block.site (b : Block) : Nat := b.die * 48 + b.core
def engineSite (die : Nat) : Nat := 384 + die
def baySite (site : Nat) : Option Nat := if site < 384 then some (392 + site / 8) else none

/-- Whether a thread lies in a warp (R62). -/
def Warp.has (w : Warp) (t : Thread) : Bool :=
  t.crew == w.crew && t.lane == w.lane && w.first ≤ t.slot && t.slot < w.first + w.size

def Block.warpOf? (b : Block) (t : Thread) : Option Warp := b.warps.find? (·.has t)

/-- The w registers that a thread reads. -/
def Block.wOf (b : Block) (t : Thread) : List Word := ((b.warpOf? t).map (·.w)).getD []

/-- Change the warp that holds a thread. -/
def Block.modWarpOf (b : Block) (t : Thread) (f : Warp → Warp) : Block :=
  { b with warps := modFirst (·.has t) f b.warps }

/-- A thread's position in its warp (R62). -/
def Warp.posOf (w : Warp) (t : Thread) : Nat := t.slot - w.first

/-- A report waits to be written to its context's ring (R311). -/
def State.report (s : State) (ctx : Nat) (r : Report) : State := s.modCtx ctx (fun c => { c with held := c.held ++ [r] })

/-- Whether a port routes (R258). -/
def Port.routes (p : Port) : Bool := p.lanes.any id

/-- A fresh identity. -/
def State.fresh (s : State) : Nat × State := (s.nextId, { s with nextId := s.nextId + 1 })

/-- The island of a core's half-die (R25). -/
def islandOf (die bay : Nat) : Nat := 2 * die + bay / 3

/-- The home slice of a line within its die (R28). -/
def homeSlice (line : Nat) : Nat := Nat.xor (bitsAt line 0 4) (bitsAt line 10 4)

/-- The home clock of a slice of a die: the clock of its half-die's island (R12, R25). -/
def State.sliceClock (s : State) (die slice : Nat) : Nat := s.plat.clocks.getD (2 * die + slice / 8) 0

/-- The watch filter of a home slice for a bay; one never used is empty (R210). -/
def Platform.filter? (p : Platform) (die slice bay : Nat) : WatchFilter :=
  (p.filters.find? (fun f => f.die == die && f.slice == slice && f.bay == bay)).getD
    { die := die, slice := slice, bay := bay, lines := [], cleared := 0 }

/-- Replace a watch filter. -/
def Platform.putFilter (p : Platform) (f : WatchFilter) : Platform :=
  { p with filters := f :: p.filters.filter (fun g => !(g.die == f.die && g.slice == f.slice && g.bay == f.bay)) }

/-- A thread of a bay registers a watch on a line (R210), at the local home slice that the line's offset selects (R28,
R252). -/
def State.watch (s : State) (b : Block) (line : Nat) : State :=
  let f := s.plat.filter? b.die (homeSlice line) b.bay
  if f.lines.contains line then s else s.modPlat (·.putFilter { f with lines := line :: f.lines })

/-- The clock of a block's core (R25). -/
def State.clockOf (s : State) (b : Block) : Nat := s.plat.clocks.getD (islandOf b.die b.bay) 0

/-! ### Runs -/

/-- Whether a thread belongs to the issuing run (R63). -/
def Run.has (r : Run) (t : Thread) : Bool :=
  t.crew == r.crew && t.lane == r.lane && r.first ≤ t.slot && r.pos.contains (t.slot - r.first)

/-- What an issuing instruction acts on: its run, block, warp and context. -/
structure Iss where
  run : Run
  blk : Block
  warp : Warp
  ctx : Context
  deriving DecidableEq, Repr

/-- The issuing run with its block, warp and context, when all exist. -/
def State.iss? (s : State) : Option Iss :=
  match s.cur with
  | none => none
  | some r =>
    match s.block? r.bid with
    | none => none
    | some b =>
      match b.warps.find? (fun w => w.crew == r.crew && w.lane == r.lane && w.first == r.first), s.ctx? b.ctx with
      | some w, some c => some { run := r, blk := b, warp := w, ctx := c }
      | _, _ => none

/-- Apply an issue's effect; with no run issuing, nothing happens. -/
def State.withIss (s : State) (f : Iss → State) : State :=
  match s.iss? with
  | some x => f x
  | none => s

/-! ### Switch markers and results -/

/-- Obey a switch marker (R50, R309): park while a result or a late failure is outstanding, else empty the
pending set. -/
def Thread.marker (t : Thread) : Thread :=
  if t.results = [] ∧ t.lates = [] then { t with pend := [], park := .ready, mark := false }
  else { t with park := .marker, mark := false }

/-- Go to an address after an instruction, obeying its marker. -/
def Thread.goto (t : Thread) (sw : Bool) (pc : DWord) : Thread :=
  let t := { t with pc := pc }
  if sw then t.marker else t

/-- Go past an instruction. -/
def Thread.advance (t : Thread) (sw : Bool) (len : Nat) : Thread := t.goto sw (t.pc + BitVec.ofNat 64 len)

/-- Release a thread from the wait of an instruction that it has already passed: obey the marker left over. -/
def Thread.release (t : Thread) : Thread :=
  let t := { t with park := .ready }
  if t.mark then t.marker else t

/-- Release a thread parked at an 8-byte instruction that has now been performed: it goes past it. -/
def Thread.performed (t : Thread) : Thread := ({ t with park := .ready } : Thread).advance t.mark 8

/-- Park a thread at the next address; `mark` keeps the instruction's marker for the release. -/
def Thread.parkPast (t : Thread) (sw : Bool) (len : Nat) (p : Park) : Thread :=
  { t with pc := t.pc + BitVec.ofNat 64 len, park := p, mark := sw, back := len }

/-- A number for a thread's next outstanding result, above those of its results and late failures: numbers follow program
order. -/
def Thread.nextRid (t : Thread) : Nat :=
  (t.results.map (·.rid) ++ t.lates.map (·.1)).foldl (fun n r => max n (r + 1)) 0

/-- A late failure waits for its delivery among the others, earliest in program order first (R309). -/
def Thread.addLate (t : Thread) (rid : Nat) (tr : Trap) : Thread :=
  { t with lates := t.lates.filter (·.1 ≤ rid) ++ (rid, tr) :: t.lates.filter (fun x => !(x.1 ≤ rid)) }

/-- A result is outstanding (R50): its destinations become pending. -/
def Thread.keepResult (t : Thread) (kind : ResultKind) (dests : List Dest) (xs : List RegWrite) (late : Option Trap) : Thread :=
  { t with pend := t.pend ++ (dests.filterMap Dest.name).filter (fun n => !t.pend.contains n),
           results := t.results ++ [{ rid := t.nextRid, kind := kind, writes := xs, late := late }] }

/-- Issue a V-class result (R50). A result that writes nothing and will not fail is not kept. -/
def Thread.addResult (t : Thread) (kind : ResultKind) (dests : List Dest) (xs : List RegWrite)
    (late : Option Trap := none) : Thread :=
  if dests.filterMap Dest.name = [] ∧ late = none then t else t.keepResult kind dests xs late

/-! ### Traps -/

/-- The code of a trap (R306). -/
def trapNum : TrapCode → Nat
  | .illop => 0x01 | .priv => 0x02 | .hazard => 0x03 | .badtarget => 0x04 | .stack => 0x05 | .misalign => 0x06
  | .page => 0x07 | .prot => 0x08 | .tilestate => 0x09 | .tilebound => 0x0A | .token => 0x0B | .join => 0x0C
  | .format => 0x0D | .tilespace => 0x0E | .layout => 0x0F | .mcmask => 0x10 | .fabric => 0x11 | .dataerr => 0x12
  | .watchdog => 0x13 | .swtrap => 0x14 | .brk => 0x15 | .recv => 0x16 | .maxreg => 0x17

/-- The value of `$tcause` for a trap (R303). -/
def Trap.cause (tr : Trap) : Word :=
  BitVec.ofNat 32 (trapNum tr.code + (if tr.late then 256 else 0) + tr.sub % 65536 * 65536)

/-- The registers that a trap writes (R307). -/
def Thread.setTrap (t : Thread) (tr : Trap) : Thread :=
  { t with tcause := tr.cause, tpc := tr.tpc, epc := tr.epc, taddr := tr.addr, tinfo := tr.info }

/-- Handler entry once the thread's results are written (R307). -/
def Thread.enterHandler (t : Thread) (c : Context) (tr : Trap) : Thread :=
  { t.setTrap tr with priv := true, pc := c.handler, pend := [], park := .ready, mark := false }

/-- Whether a trap of a thread goes to the host (R308). -/
def trapToHost (c : Context) (t : Thread) (code : TrapCode) : Bool :=
  c.route.toNat.testBit (trapNum code) || c.handler == 0 || t.priv

/-- A thread takes a trap (R306 to R308): to the host, where it awaits delivery; or into the handler, which it
enters at once when no result is outstanding, and else after waiting as a switch marker does. -/
def Thread.trap (t : Thread) (c : Context) (tr : Trap) : Thread :=
  if trapToHost c t tr.code then { t with park := .host tr none, mark := false }
  else if t.results = [] ∧ t.lates = [] then t.enterHandler c tr
  else { t with park := .handler tr, mark := false }

/-- A precise trap at the thread's instruction, resuming there (R306). -/
def Thread.fault (t : Thread) (c : Context) (code : TrapCode) (sub : Nat) (addr : DWord := 0) (info : Word := 0) :
    Thread :=
  t.trap c { code := code, sub := sub, addr := addr, info := info, late := false, tpc := t.pc, epc := t.pc }

/-- The return from a handler (R314), once the thread's results are written. -/
def Thread.eret (t : Thread) : Thread := { t with priv := false, pc := t.epc, pend := [], park := .ready }

/-! ### The prologue of an instruction -/

/-- What a thread of the run does with the instruction before its own effect. -/
inductive Fate where
  | trap (code : TrapCode) (sub : Nat) (info : Word)
  | skip
  | lent (regs : List RegName)
  | go
  deriving DecidableEq, Repr

/-- The specifier among the offending ones that `$tinfo` names; with several, the manual does not say which. -/
def pickSpec (tick : Nat) (xs : List Nat) : Option Nat :=
  match xs.eraseDups with
  | [] => none
  | [x] => some x
  | ys => some (ys.getD (Config.offender tick % ys.length) 0)

/-- Whether an operand names a v register at or beyond the thread's count (R41). -/
def Opd.beyond (o : Opd) (t : Thread) : Bool := specIsV o.spec && 0 < o.n && t.v.length < o.spec + o.n

/-- Whether an operand names a pending register (R51). -/
def Opd.pending (o : Opd) (t : Thread) : Bool := o.names.any t.pend.contains

/-- Whether an operand names a marked register (R336): v or k of the thread, or w of its warp. -/
def Opd.marked (o : Opd) (badW : List Nat) (t : Thread) : Bool :=
  (List.range o.n).any (fun i =>
    if specIsW o.spec then badW.contains (o.spec + i - 0x80)
    else (specIsV o.spec || specIsK o.spec) && t.badRegs.contains (o.spec + i))

/-- The marked w registers of a thread's warp. -/
def Block.badWOf (b : Block) (t : Thread) : List Nat := ((b.warpOf? t).map (·.badW)).getD []

/-- The specifiers of the operands that meet a test. -/
def Sig.offenders (x : Sig) (f : Opd → Bool) : List Nat := (x.ops.filter f).map (·.spec)

/-- The checks made per thread, in the order of R47, after decode: the guard (R42), MAXREG, HAZARD, a marked
source (R336), the format codes (R129) and a lent destination (R230). -/
def threadFate (x : Sig) (tick : Nat) (lent : List RegName) (badW : List Nat) (t : Thread) : Fate :=
  if x.g ≠ 7 ∧ t.pend.contains (.p x.g) then .trap .hazard 1 (BitVec.ofNat 32 x.g)
  else if x.g ≠ 7 ∧ t.badRegs.contains (0xE0 + x.g) then .trap .dataerr 0 (BitVec.ofNat 32 x.g)
  else if readPred t x.g = x.ng then .skip
  else match pickSpec tick (x.offenders (·.beyond t)) with
  | some i => .trap .maxreg 0 (BitVec.ofNat 32 i)
  | none =>
    match pickSpec tick (x.offenders (fun o => o.rd && o.pending t) ++
        x.predR.filter (fun n => t.pend.contains (.p n))) with
    | some i => .trap .hazard 1 (BitVec.ofNat 32 i)
    | none =>
      match pickSpec tick (x.offenders (fun o => o.wr && o.pending t) ++
          x.predW.filter (fun n => t.pend.contains (.p n))) with
      | some i => .trap .hazard 2 (BitVec.ofNat 32 i)
      | none =>
        match pickSpec tick (x.offenders (fun o => o.rd && o.marked badW t) ++
            x.predR.filter (fun n => t.badRegs.contains (0xE0 + n))) with
        | some i => .trap .dataerr 0 (BitVec.ofNat 32 i)
        | none =>
        match x.fmt with
        | some n => .trap .format n 0
        | none =>
          let held := (x.ops.filter (·.wr)).flatMap (fun o => o.names.filter lent.contains)
          if held = [] then .go else .lent held

/-- The decode fate of a run's thread (R47): an inner major that no wide form carries (R44), PRIV for a system
instruction, then the other ILLOP checks. -/
def decodeFate (x : Sig) (t : Thread) : Option (TrapCode × Nat) :=
  if !x.majorOk then some (.illop, 1)
  else if x.sys ∧ t.priv = false then some (.priv, 1)
  else match x.fate with
  | some n => some (.illop, n)
  | none => none

/-- What a thread of the run does with the instruction: decode traps, then the checks per thread. -/
def fateOf (x : Sig) (tick : Nat) (b : Block) (t : Thread) : Fate :=
  match decodeFate x t with
  | some (c, n) => .trap c n 0
  | none => threadFate x tick (lentRegs b (b.tindex t)) (b.badWOf t) t

/-- A thread of the run that does not perform the instruction: it traps, passes it by, or waits at it. -/
def Thread.settle (t : Thread) (x : Sig) (c : Context) (f : Fate) : Thread :=
  match f with
  | .trap code sub info => t.fault c code sub 0 info
  | .skip => t.advance x.sw x.len
  | .lent regs => { t with park := .retry (.notLent regs) }
  | .go => t

/-- Whether a thread of the block performs the issuing instruction. -/
def goes (x : Sig) (tick : Nat) (i : Iss) (t : Thread) : Bool :=
  i.run.has t && fateOf x tick i.blk t == .go

/-- The threads that perform the instruction, in ascending position (R80's participants, the slots that take part of
R53). A thread whose guard holds and that traps MAXREG, HAZARD or DATAERR, or waits for a lent register, is not among
them: R53 and R80 do not say so (DEDUCED, notes/assumptions/56.md). -/
def parts (x : Sig) (tick : Nat) (i : Iss) : List Thread := i.blk.threads.filter (goes x tick i)

/-- An instruction whose effect on each thread depends on the issue alone: every thread of the run either settles
its fate, or becomes what `f` makes of it. -/
def State.runLocal (s : State) (x : Sig) (f : Iss → Thread → Thread) : State :=
  s.withIss fun i => s.modBlock i.blk.bid fun b =>
    { b with threads := b.threads.map (fun t =>
        if i.run.has t then
          (if fateOf x s.tick i.blk t = .go then f i t else t.settle x i.ctx (fateOf x s.tick i.blk t))
        else t) }

/-- The threads of the run that do not perform the instruction settle their fates. -/
def State.settleRun (s : State) (x : Sig) (i : Iss) : State :=
  s.modBlock i.blk.bid fun b =>
    { b with threads := b.threads.map (fun t =>
        if i.run.has t then t.settle x i.ctx (fateOf x s.tick i.blk t) else t) }

/-- An instruction that acts on more than its threads: the threads that do not perform it settle, and then each
that performs it acts in ascending position. -/
def State.runFold (s : State) (x : Sig) (f : Iss → Nat → State → State) : State :=
  s.withIss fun i => ((parts x s.tick i).map i.blk.tindex).foldl (fun s ti => f i ti s) (s.settleRun x i)

/-- Advance one thread past the instruction. -/
def State.pass (s : State) (x : Sig) (bid ti : Nat) : State := s.modThread bid ti (·.advance x.sw x.len)

/-- One thread takes a precise trap. -/
def State.faultThread (s : State) (i : Iss) (ti : Nat) (code : TrapCode) (sub : Nat) (addr : DWord := 0)
    (info : Word := 0) : State :=
  s.modThread i.blk.bid ti (·.fault i.ctx code sub addr info)

/-- What the hazard rules say of a register group whose size only execution tells (R174, R195): the trap with its
`$tinfo`, of a source group also that of a marked register (R336), or the lent registers to wait for. -/
def groupFate (b : Block) (t : Thread) (spec n : Nat) (wr : Bool) : Fate :=
  let o : Opd := { spec := spec, n := n }
  if o.beyond t then .trap .maxreg 0 (BitVec.ofNat 32 spec)
  else if o.pending t then .trap .hazard (if wr then 2 else 1) (BitVec.ofNat 32 spec)
  else if wr = false ∧ o.marked (b.badWOf t) t then .trap .dataerr 0 (BitVec.ofNat 32 spec)
  else
    let held := if wr then o.names.filter (lentRegs b (b.tindex t)).contains else []
    if held = [] then .go else .lent held

/-- Continue where a group passes its checks; else the thread takes its fate. -/
def State.withGroup (s : State) (i : Iss) (ti spec n : Nat) (wr : Bool) (f : State) : State :=
  match (s.block? i.blk.bid).bind (fun b => (b.threads[ti]?).map (fun t => groupFate b t spec n wr)) with
  | some (.trap c k w) => s.faultThread i ti c k 0 w
  | some (.lent regs) => s.modThread i.blk.bid ti (fun t => { t with park := .retry (.notLent regs) })
  | _ => f

/-- One thread waits at its instruction and reissues it when the condition holds. -/
def State.waitThread (s : State) (bid ti : Nat) (c : Cond) : State :=
  s.modThread bid ti (fun t => { t with park := .retry c })

/-- What a thread does once its `red`s to windows are performed (R214, R266): it waits at the instruction for them, which no
rule states (DEDUCED, notes/assumptions/66.md). -/
def State.afterReds (s : State) (bid ti : Nat) (f : State) : State :=
  match s.thread? bid ti with
  | some t => if t.reds = [] then f else s.waitThread bid ti .redsDone
  | none => f

/-- The format slots of the issuing block (R128). -/
def State.slots (s : State) : List DWord := (s.iss?.map (·.blk.slots)).getD []

/-! ### Register-to-register instructions -/

/-- The register effect of an instruction on a thread: written at once, or as a V-class result (R49, R50). -/
def Thread.effect (t : Thread) (x : Sig) (xs : List RegWrite) : Thread :=
  (if x.vclass then t.addResult .ready (xs.map (·.dest)) xs else t.writes xs).advance x.sw x.len

/-- An instruction that computes registers from registers. `f` gives its writes from what one thread reads and
the participants; a w destination is written once, from the first participant (R43, R63, R114). -/
def State.runAlu (s : State) (x : Sig) (f : Iss → List Thread → Thread → List RegWrite) : State :=
  s.withIss fun i =>
    let ps := parts x s.tick i
    let s1 := s.runLocal x fun i t => t.effect x (f i ps t)
    match ps with
    | t :: _ => s1.modBlock i.blk.bid fun b =>
        { b with warps := b.warps.map (fun w =>
            if w.crew = i.warp.crew ∧ w.lane = i.warp.lane ∧ w.first = i.warp.first
            then w.writes (f i ps t) else w) }
    | [] => s1

/-- The common case: each thread's writes depend on its own registers only. -/
def State.runOwn (s : State) (x : Sig) (f : Rd → List RegWrite) : State :=
  s.runAlu x fun i _ t => f (t.rd i.warp.w)

end Sys2Proof.Machine
end

