-- ==== Sys2Proof/Machine/Alu.lean ====
section
/-! DEFINITION. Integer arithmetic, immediates, bit fields, division and the wide integer operations (R93 to R101),
`movx` (R40) and the integer part of C16 (R35). -/

namespace Sys2Proof.Machine

open Sys2Proof

/-! ### Values -/

/-- The least and greatest signed words. -/
def loI32 : Int := -(2 ^ 31)
def hiI32 : Int := 2 ^ 31 - 1
def hiN32 : Int := 2 ^ 32 - 1

/-- `iadd` (R94). -/
def iaddVal (m : Nat) (a b : Word) : Word :=
  match m with
  | 0 => a + b
  | 1 => a - b
  | 2 => word (clamp loI32 hiI32 (a.toInt + b.toInt))
  | 3 => word (clamp loI32 hiI32 (a.toInt - b.toInt))
  | 4 => word (clamp 0 hiN32 ((a.toNat : Int) + b.toNat))
  | _ => word (clamp 0 hiN32 ((a.toNat : Int) - b.toNat))

/-- `imul` (R94). -/
def imulVal (m : Nat) (a b : Word) : Word :=
  match m with
  | 0 => a * b
  | 1 => word (a.toInt * b.toInt / 2 ^ 32)
  | 2 => word ((a.toNat : Int) * b.toNat / 2 ^ 32)
  | _ => word (a.toInt * b.toNat / 2 ^ 32)

/-- `iminmax` (R94). -/
def iminmaxVal (m : Nat) (a b : Word) : Word :=
  match m with
  | 0 => if a.toInt ≤ b.toInt then a else b
  | 1 => if a.toNat ≤ b.toNat then a else b
  | 2 => if a.toInt ≤ b.toInt then b else a
  | _ => if a.toNat ≤ b.toNat then b else a

/-- `logic` (R94). -/
def logicVal (m : Nat) (a b : Word) : Word :=
  match m with
  | 0 => a &&& b
  | 1 => a ||| b
  | 2 => a ^^^ b
  | 3 => a &&& ~~~b
  | 4 => a ||| ~~~b
  | _ => ~~~(a ^^^ b)

/-- The five shift kinds by an amount from 0 to 63 (R94, R97). -/
def shiftVal (kind : Nat) (a : Word) (sh : Nat) : Word :=
  match kind with
  | 0 => a <<< sh
  | 1 => a >>> sh
  | 2 => a.sshiftRight sh
  | 3 => a.rotateLeft (sh % 32)
  | _ => a.rotateRight (sh % 32)

/-- `iunary` (R95). -/
def iunaryVal (m : Nat) (a : Word) : Word :=
  match m with
  | 0 => BitVec.ofNat 32 (popcount 32 a.toNat)
  | 1 => BitVec.ofNat 32 (if a = 0 then 32 else 31 - a.toNat.log2)
  | 2 => BitVec.ofNat 32 (reverseBits 32 a.toNat)
  | 3 => if a.toInt < 0 then 0 - a else a
  | 4 => 0 - a
  | 5 => ~~~a
  | 6 => word (sext 8 a.toNat)
  | 7 => word (sext 16 a.toNat)
  | 8 => BitVec.ofNat 32 (bitsAt a.toNat 0 8)
  | _ => BitVec.ofNat 32 (bitsAt a.toNat 0 16)

/-- The usable length of a bit field (R98). -/
def bfLen (b : Word) : Nat := min (bitsAt b.toNat 8 5) (32 - bitsAt b.toNat 0 5)

/-- `bfx` (R98). -/
def bfxVal (m : Nat) (a b : Word) : Word :=
  let pos := bitsAt b.toNat 0 5
  let l := bfLen b
  if l = 0 then 0
  else if m = 0 then BitVec.ofNat 32 (bitsAt a.toNat pos l) else word (sext l (bitsAt a.toNat pos l))

/-- `bfi` (R98). -/
def bfiVal (d a b : Word) : Word :=
  BitVec.ofNat 32 (putBits d.toNat (bitsAt b.toNat 0 5) (bfLen b) a.toNat)

/-- `idiv` (R99): a zero divisor gives the quotient 0xFFFF_FFFF and the remainder a. -/
def idivVal (m : Nat) (a b : Word) : Word :=
  match m with
  | 0 => if b = 0 then 0xFFFFFFFF else word (a.toInt.tdiv b.toInt)
  | 1 => if b = 0 then 0xFFFFFFFF else BitVec.ofNat 32 (a.toNat / b.toNat)
  | 2 => if b = 0 then a else word (a.toInt.tmod b.toInt)
  | _ => if b = 0 then a else BitVec.ofNat 32 (a.toNat % b.toNat)

/-! ### Narrow and wide forms -/

def genIadd (x : Gen) (s : State) : State := s.runOwn x.theSig fun r => wr x.d (iaddVal x.minor (r.r x.a) (r.r x.b))
def genImul (x : Gen) (s : State) : State := s.runOwn x.theSig fun r => wr x.d (imulVal x.minor (r.r x.a) (r.r x.b))
def genIminmax (x : Gen) (s : State) : State :=
  s.runOwn x.theSig fun r => wr x.d (iminmaxVal x.minor (r.r x.a) (r.r x.b))
def genLogic (x : Gen) (s : State) : State :=
  s.runOwn x.theSig fun r => wr x.d (logicVal x.minor (r.r x.a) (r.r x.b))
def genShift (x : Gen) (s : State) : State :=
  s.runOwn x.theSig fun r => wr x.d (shiftVal x.minor (r.r x.a) (bitsAt (r.r x.b).toNat 0 6))
def genIunary (x : Gen) (s : State) : State := s.runOwn x.theSig fun r => wr x.d (iunaryVal x.minor (r.r x.a))
def genIset (x : Gen) (s : State) : State :=
  s.runOwn x.theSig fun r => wrPred x.d (icond x.minor (r.r x.a) (r.r x.b))
def genIaddi (x : Gen) (s : State) : State := s.runOwn x.theSig fun r => wr x.d (r.r x.a + word x.simm)
def genAndi (x : Gen) (s : State) : State := s.runOwn x.theSig fun r => wr x.d (r.r x.a &&& word x.simm)
def genOri (x : Gen) (s : State) : State := s.runOwn x.theSig fun r => wr x.d (r.r x.a ||| word x.simm)
def genXori (x : Gen) (s : State) : State := s.runOwn x.theSig fun r => wr x.d (r.r x.a ^^^ word x.simm)
def genShifti (x : Gen) (s : State) : State :=
  s.runOwn x.theSig fun r => wr x.d (shiftVal (bitsAt x.imm 5 3) (r.r x.a) (bitsAt x.imm 0 5))
def genLea (x : Gen) (s : State) : State := s.runOwn x.theSig fun r => wr x.d (r.r x.a + (r.r x.b) <<< x.minor)
def genBfx (x : Gen) (s : State) : State := s.runOwn x.theSig fun r => wr x.d (bfxVal x.minor (r.r x.a) (r.r x.b))
def genBfi (x : Gen) (s : State) : State := s.runOwn x.theSig fun r => wr x.d (bfiVal (r.r x.d) (r.r x.a) (r.r x.b))
def genIdiv (x : Gen) (s : State) : State := s.runOwn x.theSig fun r => wr x.d (idivVal x.minor (r.r x.a) (r.r x.b))

/-! ### C-form moves -/

/-- `movi` names only its destination (R97). -/
def moviSig (len : Nat) (sw : Bool) (d : Nat) : Sig := { ops := [dst d], len := len, sw := sw }
/-- `movhi` also reads its destination (R97). -/
def movhiSig (f : FormC) : Sig := { ops := [srcDst f.d.toNat], sw := f.sw }

def opMovi (len : Nat) (sw : Bool) (d : Nat) (imm : Word) (s : State) : State :=
  s.runOwn (moviSig len sw d) fun _ => wr d imm

/-- `movhi` (R97). -/
def opMovhi (f : FormC) (s : State) : State :=
  s.runOwn (movhiSig f) fun r => wr f.d.toNat (f.imm.setWidth 32 <<< 16 ||| (r.r f.d.toNat &&& 0xFFFF))

/-! ### X64 integer operations -/

def imadSig (x : FormX) : Sig :=
  let wide := x.fld 47 46 != 0
  x.sig (x.fld 63 48 == 0 && x.fld 47 46 != 3)
    [src x.a.toNat, src x.b.toNat, src x.c.toNat (if wide then 2 else 1), dst x.d.toNat (if wide then 2 else 1)]

/-- `imad` (R101). -/
def opImad (x : FormX) (s : State) : State :=
  s.runOwn (imadSig x) fun r =>
    let a := r.r x.a.toNat
    let b := r.r x.b.toNat
    match x.fld 47 46 with
    | 0 => wr x.d.toNat (a * b + r.r x.c.toNat)
    | 1 => wrPair x.d.toNat (a.signExtend 64 * b.signExtend 64 + r.pair x.c.toNat)
    | _ => wrPair x.d.toNat (a.setWidth 64 * b.setWidth 64 + r.pair x.c.toNat)

def selSig (x : FormX) : Sig :=
  let n := if x.fld 50 50 = 1 then 2 else 1
  { x.sig (x.fld 63 51 == 0) [src x.a.toNat n, src x.b.toNat n, noneAt x.c.toNat, dst x.d.toNat n] with
    predR := [x.fld 48 46] }

/-- `sel` (R101). -/
def opSel (x : FormX) (s : State) : State :=
  s.runOwn (selSig x) fun r =>
    let from_ := if r.p (x.fld 48 46) != (x.fld 49 49 == 1) then x.a.toNat else x.b.toNat
    if x.fld 50 50 = 1 then wrPair x.d.toNat (r.pair from_) else wr x.d.toNat (r.r from_)

def idp4Sig (x : FormX) : Sig :=
  x.sig (x.fld 63 49 == 0) [src x.a.toNat, src x.b.toNat, src x.c.toNat, dst x.d.toNat]

/-- A byte of a word as signed or unsigned. -/
def byteInt (signed : Bool) (w : Word) (i : Nat) : Int := if signed then sext 8 (byteOf w i) else byteOf w i

/-- The exact dot product of `idp4` (R101). -/
def dot4 (sa sb : Bool) (a b : Word) : Int :=
  ((List.range 4).map (fun i => byteInt sa a i * byteInt sb b i)).sum

/-- `idp4` (R101). -/
def opIdp4 (x : FormX) (s : State) : State :=
  s.runOwn (idp4Sig x) fun r =>
    let p := dot4 (x.fld 46 46 == 1) (x.fld 47 47 == 1) (r.r x.a.toNat) (r.r x.b.toNat)
    let c := r.r x.c.toNat
    wr x.d.toNat (if x.fld 48 48 = 1 then word (clamp loI32 hiI32 (c.toInt + p)) else c + word p)

/-- The second operand of `iadd64` and `lea64`: a pair or an extended register (R101). -/
def bExt (r : Rd) (kind b : Nat) : DWord :=
  match kind with
  | 0 => r.pair b
  | 1 => (r.r b).signExtend 64
  | _ => (r.r b).setWidth 64

def iadd64Sig (x : FormX) : Sig :=
  x.sig (x.fld 63 49 == 0 && x.fld 48 47 != 3)
    [src x.a.toNat 2, src x.b.toNat (if x.fld 48 47 = 0 then 2 else 1), noneAt x.c.toNat, dst x.d.toNat 2]

/-- `iadd64` (R101). -/
def opIadd64 (x : FormX) (s : State) : State :=
  s.runOwn (iadd64Sig x) fun r =>
    let a := r.pair x.a.toNat
    let b := bExt r (x.fld 48 47) x.b.toNat
    wrPair x.d.toNat (if x.fld 46 46 = 1 then a - b else a + b)

def lea64Sig (x : FormX) : Sig :=
  x.sig (x.fld 63 52 == 0 && x.fld 51 50 != 3)
    [src x.a.toNat 2, src x.b.toNat (if x.fld 51 50 = 0 then 2 else 1), noneAt x.c.toNat, dst x.d.toNat 2]

/-- `lea64` (R101). -/
def opLea64 (x : FormX) (s : State) : State :=
  s.runOwn (lea64Sig x) fun r =>
    wrPair x.d.toNat (r.pair x.a.toNat + (bExt r (x.fld 51 50) x.b.toNat) <<< x.fld 49 46)

def iset64Sig (x : FormX) : Sig :=
  { x.sig (x.fld 63 50 == 0 && x.fld 49 46 ≤ 9) [src x.a.toNat 2, src x.b.toNat 2, noneAt x.c.toNat] with
    specOk := x.d.toNat < 8, predW := [x.d.toNat].filter (· != 7) }

/-- `iset64` (R101). -/
def opIset64 (x : FormX) (s : State) : State :=
  s.runOwn (iset64Sig x) fun r =>
    wrPred x.d.toNat (icond (x.fld 49 46) (r.pair x.a.toNat) (r.pair x.b.toNat))

/-- A register position of `movx`, which permits every class (R40, R101). -/
def anySrc (s : Nat) : Opd := { spec := s, k := true, rd := true }
def anyDst (s : Nat) : Opd := { spec := s, k := true, wr := true }

/-- `movx` (R40): in the immediate kinds a must be 0xFF; in the register form bits [37:30] and c must be 0xFF and
[63:46] zero, which the decoder's `imm` field holds as [63:32] with [31:30] the kind. A register form that breaks this
takes the fate of a reserved field, ILLOP 3: R40 names no subcode for it, and R101 names the specifier's for a c that is
not used (DEDUCED, notes/assumptions/57.md). -/
def movxSig (x : FormI) : Sig :=
  let imm := x.imm.toNat
  let base : Sig := { g := x.g.toNat, ng := x.ng, len := 8, sw := x.sw }
  match x.kind.toNat with
  | 0 => { base with resOk := x.a.toNat == 0xFF, ops := [{ anyDst x.d.toNat with k := false }] }
  | 1 => { base with resOk := x.a.toNat == 0xFF, ops := [dst x.d.toNat 2] }
  | 2 => { base with resOk := x.a.toNat == 0xFF,
                     ops := [{ spec := x.d.toNat, n := 2, al := 2, wr := true }] }
  | _ => { base with resOk := bitsAt imm 14 18 == 0 && bitsAt imm 0 14 == 0x3FFF,
                     ops := [anySrc x.a.toNat, anyDst x.d.toNat] }

def opMovx (x : FormI) (s : State) : State :=
  s.runOwn (movxSig x) fun r =>
    match x.kind.toNat with
    | 0 => wr x.d.toNat x.imm
    | 1 => wrPair x.d.toNat (x.imm.signExtend 64)
    | 2 => if x.d.toNat = 0xFF then [] else wr (x.d.toNat + 1) x.imm
    | _ => wr x.d.toNat (r.r x.a.toNat)

end Sys2Proof.Machine
end

