-- ==== Sys2Proof/Machine/Fp.lean ====
section
/-! DEFINITION. FP32 and packed-half arithmetic (R102 to R109). Each result is the exact value rounded once. The
transcendental functions are computed in fixed point far below any rounding boundary, with a last bit that stands
for the part cut off, and then rounded (R106). -/

namespace Sys2Proof.Machine

open Sys2Proof

/-- The rounding modes by their codes (R104, R105, R109). -/
def modeOf (n : Nat) : RMode :=
  match n with
  | 0 => .rne
  | 1 => .rz
  | 2 => .ru
  | _ => .rd

/-- Round into a 16-bit format (R102). -/
def round16 (f : FpFmt) (mode : RMode) (v : Val) : Nat := f.round mode false v

/-! ### Arithmetic -/

/-- `fadd` (R104). -/
def faddVal (m : Nat) (a b : Word) : Word :=
  match m with
  | 0 => rne32 ((f32 a).add (f32 b))
  | 1 => rne32 ((f32 a).add (f32 b).negate)
  | 2 => BitVec.ofNat 32 (minMax fp32 false a.toNat b.toNat)
  | _ => BitVec.ofNat 32 (minMax fp32 true a.toNat b.toNat)

/-- `fmul` (R104). -/
def fmulVal (m : Nat) (a b : Word) : Word := round32 (modeOf m) ((f32 a).mul (f32 b))

/-- One fused multiply-add of exact values, with the signs of the product and of c chosen (R105, R109). -/
def fmaVal (mode : RMode) (np nc : Bool) (a b c : Val) : Val :=
  let p := a.mul b
  (if np then p.negate else p).add (if nc then c.negate else c) (mode == .rd)

/-- The halves of a packed register (R108). -/
def half (w : Word) (i : Nat) : Nat := bitsAt w.toNat (16 * i) 16

/-- A packed register from its halves. -/
def halves (f : Nat → Nat) : Word := BitVec.ofNat 32 (f 0 + f 1 * 65536)

/-- One half of `hop` (R108). -/
def hopHalf (m a b : Nat) : Nat :=
  let f := if m < 4 then bf16 else fp16
  match m % 4 with
  | 0 => round16 f .rne ((decodeFp f a).add (decodeFp f b))
  | 1 => round16 f .rne ((decodeFp f a).mul (decodeFp f b))
  | 2 => minMax f true a b
  | _ => minMax f false a b

/-- `cvtfi` (R107): round first, clamp after. -/
def cvtfiVal (m : Nat) (a : Word) : Word :=
  let mode : RMode := if m % 2 = 0 then .rne else .rz
  if m < 2 then word (roundInt mode (-(2 ^ 31)) (2 ^ 31 - 1) (f32 a)) else word (roundInt mode 0 (2 ^ 32 - 1) (f32 a))

/-- `cvtif` (R107). -/
def cvtifVal (m : Nat) (a : Word) : Word := rne32 (ofInt (if m = 0 then a.toInt else a.toNat))

/-! ### Functions -/

/-- The integer square root by bits, for roots below 2^n. -/
def isqrt (x : Nat) : Nat → Nat → Nat
  | 0, r => r
  | n + 1, r => if (r + 2 ^ n) * (r + 2 ^ n) ≤ x then isqrt x n (r + 2 ^ n) else isqrt x n r

/-- A positive value as m × 2^e with e even. -/
def evenExp (m : Nat) (e : Int) : Nat × Int := if e % 2 = 0 then (m, e) else (2 * m, e - 1)

/-- √(m × 2^e) cut to many bits, with a last bit for the rest. -/
def sqrtVal (m : Nat) (e : Int) : Val :=
  let (m, e) := evenExp m e
  let x := m <<< 128
  let q := isqrt x 80 0
  .fin false (2 * q + (if q * q = x then 0 else 1)) (e / 2 - 65)

/-- 1 / √(m × 2^e), likewise. -/
def rsqVal (m : Nat) (e : Int) : Val :=
  let (m, e) := evenExp m e
  let q := isqrt (2 ^ 200 / m) 101 0
  .fin false (2 * q + (if q * q * m = 2 ^ 200 then 0 else 1)) (-(e / 2) - 101)

/-- Σ x^k / k! over `n` terms from the one after `term`, in units of 2^−p. -/
def expTerms (p x : Nat) : Nat → Nat → Nat → Nat → Nat
  | 0, _, _, acc => acc
  | n + 1, k, term, acc => let t := (term * x) >>> p / k; expTerms p x n (k + 1) t (acc + t)

/-- e^x − 1 for 0 ≤ x < 1, in units of 2^−p. -/
def expm1Fix (p x : Nat) : Nat := expTerms p x 110 1 (2 ^ p) 0

/-- ln 2 in units of 2^−320. -/
def ln2Fix : Nat := 0xb17217f7d1cf79abc9e3b39803f2f6af40f343267298b62d8a0d175b8baafa2be7b876206debac98

/-- π / 2 in units of 2^−480. -/
def halfPiFix : Nat :=
  0x1921fb54442d18469898cc51701b839a252049c1114cf98e804177d4c76273644a29410f31c6809bbdf2a33679a748636605614dbe4be286e9fc26ada

/-- 2^a for a finite a (R106): exact at the integers. -/
def exp2Val (neg : Bool) (m : Nat) (e : Int) : Val :=
  let v : Val := .fin neg m e
  if !v.lt (.fin false 128 0) then .inf false
  else if v.lt (.fin true 151 0) then .fin false 1 (-200)
  else
    let k := (-e).toNat
    let x : Int := if neg then -(m <<< e.toNat : Int) else m <<< e.toNat
    let i : Int := x / 2 ^ k
    let r : Nat := (x % 2 ^ k).toNat
    if r = 0 then .fin false 1 i
    else
      let y := 2 ^ 320 + expm1Fix 320 ((r * ln2Fix) >>> k)
      .fin false (2 * y + 1) (i - 321)

/-- 2 × Σ z^(2j+1) / (2j+1) for a power z^(2j+1) and z², in units of 2^−320. -/
def atanhTerms (z2 : Nat) : Nat → Nat → Nat → Nat → Nat
  | 0, _, _, acc => 2 * acc
  | n + 1, k, zp, acc => atanhTerms z2 n (k + 2) ((zp * z2) >>> 320) (acc + zp / k)

/-- log2 of m × 2^e for m > 0 (R106): exact at the powers of two. -/
def log2Val (m : Nat) (e : Int) : Val :=
  let l := m.log2
  let i : Int := l + e
  if m = 2 ^ l then ofInt i
  else
    let z := ((m - 2 ^ l) <<< 320) / (m + 2 ^ l)
    let ln := atanhTerms ((z * z) >>> 320) 110 1 z 0
    let frac := (ln <<< 320) / ln2Fix
    let v : Int := i * 2 ^ 320 + frac
    .fin (decide (v < 0)) (2 * v.natAbs + 1) (-321)

/-- The alternating series of sin or cos from a first term, in units of 2^−480. -/
def sinTerms (y2 : Nat) : Nat → Nat → Int → Int → Int
  | 0, _, _, acc => acc
  | n + 1, k, term, acc =>
    let t : Int := -((term * y2) / 2 ^ 480 / (k * (k + 1) : Nat))
    sinTerms y2 n (k + 2) t (acc + t)

/-- sin y and cos y for 0 ≤ y ≤ π/2, in units of 2^−480. -/
def sinFix (y : Nat) : Int := sinTerms ((y * y) >>> 480) 60 2 y y
def cosFix (y : Nat) : Int := sinTerms ((y * y) >>> 480) 60 1 (2 ^ 480) (2 ^ 480)

/-- sin or cos of a finite non-zero value, reduced exactly by π/2 (R106). -/
def sinCosVal (cos? neg : Bool) (m : Nat) (e : Int) : Val :=
  let x := if 0 ≤ e + 480 then m <<< (e + 480).toNat else m
  let q := x / halfPiFix
  let y := x % halfPiFix
  let quad := (q + (if cos? then 1 else 0)) % 4
  let v := if quad % 2 = 0 then sinFix y else cosFix y
  let flip := decide (2 ≤ quad) != (neg && !cos?)
  .fin flip (2 * v.natAbs + 1) (-481)

/-- e^(2u) − 1 from e^u − 1, applied n times. -/
def doubleExp : Nat → Nat → Nat
  | 0, x => x
  | n + 1, x => doubleExp n ((x * x) >>> 480 + 2 * x)

/-- tanh of a finite non-zero value (R106). -/
def tanhVal (neg : Bool) (m : Nat) (e : Int) : Val :=
  if !(Val.fin false m e).lt (.fin false 16 0) then .fin neg (2 ^ 100 - 1) (-100)
  else
    let u := m <<< (e + 480 - 5).toNat
    let x := doubleExp 6 (expm1Fix 480 u)
    .fin neg (2 * ((x <<< 480) / (x + 2 ^ 481)) + 1) (-481)

/-- `func` (R106). -/
def funcVal (m : Nat) (a : Word) : Word :=
  let one : Val := .fin false 1 0
  rne32 <| match m, f32 a with
  | _, .nan => .nan
  | 0, v => one.div v
  | 1, .inf neg => if neg then .nan else .fin false 0 0
  | 1, .fin neg 0 _ => .inf neg
  | 1, .fin neg m e => if neg then .nan else rsqVal m e
  | 2, .inf neg => if neg then .nan else .inf false
  | 2, .fin neg 0 _ => .fin neg 0 0
  | 2, .fin neg m e => if neg then .nan else sqrtVal m e
  | 3, .inf neg => if neg then .fin false 0 0 else .inf false
  | 3, .fin _ 0 _ => one
  | 3, .fin neg m e => exp2Val neg m e
  | 4, .inf neg => if neg then .nan else .inf false
  | 4, .fin _ 0 _ => .inf true
  | 4, .fin neg m e => if neg then .nan else log2Val m e
  | 5, .inf _ => .nan
  | 5, .fin neg 0 _ => .fin neg 0 0
  | 5, .fin neg m e => sinCosVal false neg m e
  | 6, .inf _ => .nan
  | 6, .fin _ 0 _ => one
  | 6, .fin neg m e => sinCosVal true neg m e
  | _, .inf neg => .fin neg 1 0
  | _, .fin neg 0 _ => .fin neg 0 0
  | _, .fin neg m e => tanhVal neg m e

/-! ### Instructions -/

def genFadd (x : Gen) (s : State) : State := s.runOwn x.theSig fun r => wr x.d (faddVal x.minor (r.r x.a) (r.r x.b))
def genFmul (x : Gen) (s : State) : State := s.runOwn x.theSig fun r => wr x.d (fmulVal x.minor (r.r x.a) (r.r x.b))
def genFset (x : Gen) (s : State) : State :=
  s.runOwn x.theSig fun r => wrPred x.d (fcond x.minor (r.r x.a) (r.r x.b))
def genFunc (x : Gen) (s : State) : State := s.runOwn x.theSig fun r => wr x.d (funcVal x.minor (r.r x.a))
def genCvtfi (x : Gen) (s : State) : State := s.runOwn x.theSig fun r => wr x.d (cvtfiVal x.minor (r.r x.a))
def genCvtif (x : Gen) (s : State) : State := s.runOwn x.theSig fun r => wr x.d (cvtifVal x.minor (r.r x.a))
def genHop (x : Gen) (s : State) : State :=
  s.runOwn x.theSig fun r =>
    wr x.d (halves fun i => hopHalf x.minor (half (r.r x.a) i) (half (r.r x.b) i))

def ffmaSig (x : FormX) : Sig :=
  x.sig (x.fld 63 50 == 0) [src x.a.toNat, src x.b.toNat, src x.c.toNat, dst x.d.toNat]

/-- `ffma` (R105). -/
def opFfma (x : FormX) (s : State) : State :=
  s.runOwn (ffmaSig x) fun r =>
    let mode := modeOf (x.fld 47 46)
    wr x.d.toNat (round32 mode (fmaVal mode (x.fld 48 48 == 1) (x.fld 49 49 == 1)
      (f32 (r.r x.a.toNat)) (f32 (r.r x.b.toNat)) (f32 (r.r x.c.toNat))))

def hfmaSig (x : FormX) : Sig :=
  x.sig (x.fld 63 51 == 0) [src x.a.toNat, src x.b.toNat, src x.c.toNat, dst x.d.toNat]

/-- `hfma` (R109). -/
def opHfma (x : FormX) (s : State) : State :=
  s.runOwn (hfmaSig x) fun r =>
    let f := if x.fld 46 46 = 0 then bf16 else fp16
    let mode := modeOf (x.fld 48 47)
    wr x.d.toNat (halves fun i => round16 f mode (fmaVal mode (x.fld 49 49 == 1) (x.fld 50 50 == 1)
      (decodeFp f (half (r.r x.a.toNat) i)) (decodeFp f (half (r.r x.b.toNat) i))
      (decodeFp f (half (r.r x.c.toNat) i))))

end Sys2Proof.Machine
end

