-- ==== Sys2Proof/Machine/Compact.lean ====
section
/-! DEFINITION. The meanings of the C16 instructions (R34, R35). -/

namespace Sys2Proof.Machine

open Sys2Proof

/-- The register move of C16 (R35): the register form of `movx`, which permits every register it can name. -/
def mov16Sig (sw : Bool) (d r : BitVec 5) : Sig := { ops := [anySrc r.toNat, anyDst d.toNat], len := 2, sw := sw }

def opMov16 (sw : Bool) (d r : BitVec 5) (s : State) : State :=
  s.runOwn (mov16Sig sw d r) fun x => wr d.toNat (x.r r.toNat)

/-- C16 `addi` as its longer equivalent (R35): the signed imm5 as imm10. -/
def addi16 (sw : Bool) (d imm : BitVec 5) : Gen :=
  { len := 2, major := 0x27, imm := (imm.signExtend 10).toNat, d := d.toNat, a := d.toNat, sw := sw }

/-- C16_MOV (R35). -/
def execC16Mov (sw : Bool) (d r : BitVec 5) (s : State) : Host.Outcome State Fault Refusal := .next (opMov16 sw d r s)

/-- C16_ADD (R35). -/
def execC16Add (sw : Bool) (d r : BitVec 5) (s : State) : Host.Outcome State Fault Refusal :=
  .next (genIadd (Gen.ofC16 0x20 0 sw d r) s)

/-- C16_SUB (R35). -/
def execC16Sub (sw : Bool) (d r : BitVec 5) (s : State) : Host.Outcome State Fault Refusal :=
  .next (genIadd (Gen.ofC16 0x20 1 sw d r) s)

/-- C16_MUL (R35). -/
def execC16Mul (sw : Bool) (d r : BitVec 5) (s : State) : Host.Outcome State Fault Refusal :=
  .next (genImul (Gen.ofC16 0x21 0 sw d r) s)

/-- C16_AND (R35). -/
def execC16And (sw : Bool) (d r : BitVec 5) (s : State) : Host.Outcome State Fault Refusal :=
  .next (genLogic (Gen.ofC16 0x23 0 sw d r) s)

/-- C16_OR (R35). -/
def execC16Or (sw : Bool) (d r : BitVec 5) (s : State) : Host.Outcome State Fault Refusal :=
  .next (genLogic (Gen.ofC16 0x23 1 sw d r) s)

/-- C16_XOR (R35). -/
def execC16Xor (sw : Bool) (d r : BitVec 5) (s : State) : Host.Outcome State Fault Refusal :=
  .next (genLogic (Gen.ofC16 0x23 2 sw d r) s)

/-- C16_SHL (R35). -/
def execC16Shl (sw : Bool) (d r : BitVec 5) (s : State) : Host.Outcome State Fault Refusal :=
  .next (genShift (Gen.ofC16 0x24 0 sw d r) s)

/-- C16_SHR (R35). -/
def execC16Shr (sw : Bool) (d r : BitVec 5) (s : State) : Host.Outcome State Fault Refusal :=
  .next (genShift (Gen.ofC16 0x24 1 sw d r) s)

/-- C16_SAR (R35). -/
def execC16Sar (sw : Bool) (d r : BitVec 5) (s : State) : Host.Outcome State Fault Refusal :=
  .next (genShift (Gen.ofC16 0x24 2 sw d r) s)

/-- C16_ADDI (R35). -/
def execC16Addi (sw : Bool) (d imm : BitVec 5) (s : State) : Host.Outcome State Fault Refusal :=
  .next (genIaddi (addi16 sw d imm) s)

/-- C16_MOVI (R35). -/
def execC16Movi (sw : Bool) (d imm : BitVec 5) (s : State) : Host.Outcome State Fault Refusal :=
  .next (opMovi 2 sw d.toNat (imm.signExtend 32) s)

/-- C16_FADD (R35). -/
def execC16Fadd (sw : Bool) (d r : BitVec 5) (s : State) : Host.Outcome State Fault Refusal :=
  .next (genFadd (Gen.ofC16 0x38 0 sw d r) s)

/-- C16_FMUL (R35). -/
def execC16Fmul (sw : Bool) (d r : BitVec 5) (s : State) : Host.Outcome State Fault Refusal :=
  .next (genFmul (Gen.ofC16 0x39 0 sw d r) s)

/-- C16_FMAX (R35). -/
def execC16Fmax (sw : Bool) (d r : BitVec 5) (s : State) : Host.Outcome State Fault Refusal :=
  .next (genFadd (Gen.ofC16 0x38 3 sw d r) s)

/-- C16_FMIN (R35). -/
def execC16Fmin (sw : Bool) (d r : BitVec 5) (s : State) : Host.Outcome State Fault Refusal :=
  .next (genFadd (Gen.ofC16 0x38 2 sw d r) s)

end Sys2Proof.Machine
end

