-- ==== Sys2Proof/Machine/Cross.lean ====
section
/-! DEFINITION. Predicates, votes and exchange among threads (R79 to R83, R110 to R113), `movs` (R91) and `movf`
(R146). -/

namespace Sys2Proof.Machine

open Sys2Proof

/-- `plog` (R79). -/
def genPlog (x : Gen) (s : State) : State :=
  s.runOwn x.theSig fun r => wrPred x.d (plogVal x.minor (r.p x.a) (r.p x.b))

/-- The position mask of some threads of a warp. -/
def posMask (w : Warp) (ts : List Thread) : Nat := (ts.map (fun t => 2 ^ w.posOf t)).sum

/-- `vote` (R81). -/
def genVote (x : Gen) (s : State) : State :=
  s.runAlu x.theSig fun i ps _ =>
    let yes := ps.filter (readPred · x.a)
    let mask := posMask i.warp yes
    match x.minor with
    | 0 => wr x.d (BitVec.ofNat 32 mask)
    | 1 => wr x.d (BitVec.ofNat 32 (mask >>> 32))
    | 2 => wrPred x.d (!yes.isEmpty)
    | 3 => wrPred x.d (yes.length == ps.length)
    | _ => wr x.d (BitVec.ofNat 32 yes.length)

/-- `match` (R82). -/
def genMatch (x : Gen) (s : State) : State :=
  s.runAlu x.theSig fun i ps t =>
    let val (u : Thread) : DWord :=
      let r := u.rd i.warp.w
      if x.minor = 0 then (r.r x.a).setWidth 64 else r.pair x.a
    let peers := ps.filter (fun u => val u == val t)
    wrPair x.d (BitVec.ofNat 64 (posMask i.warp peers)) ++
      wrPred x.b (peers.all (fun u => t.slot ≤ u.slot))

/-- `elect` (R83). -/
def genElect (x : Gen) (s : State) : State :=
  s.runAlu x.theSig fun _ ps t => wrPred x.d (ps.all (fun u => t.slot ≤ u.slot))

/-! ### Shuffles -/

/-- The source position of a shuffle, when it is in range (R110). -/
def shflSrc (mode pos size k : Nat) : Option Nat :=
  match mode with
  | 0 => some (k % size)
  | 1 => if k ≤ pos then some (pos - k) else none
  | 2 => if pos + k < size then some (pos + k) else none
  | _ => if Nat.xor pos k < size then some (Nat.xor pos k) else none

/-- Warp-scope `shfl` (R110). -/
def shflWarp (x : Gen) (s : State) : State :=
  s.runAlu x.theSig fun i ps t =>
    let r := t.rd i.warp.w
    let own := r.r x.a
    wr x.d <| match shflSrc x.minor (i.warp.posOf t) i.warp.size (r.r x.b).toNat with
    | none => own
    | some p => match ps.find? (fun u => i.warp.posOf u == p) with
      | some u => (u.rd i.warp.w).r x.a
      | none => own

/-- Crew-scope `shfl` takes the thread's next round (R111): its own contribution, and a result that waits for the
source's round. -/
def shflCrewThread (x : Gen) (i : Iss) (t : Thread) : Thread :=
  let r := t.rd i.warp.w
  let own := r.r x.a
  let e := t.shares.length
  let kind : ResultKind := match destOf x.d, shflSrc (x.minor - 4) t.tid i.blk.nthr (r.r x.b).toNat with
    | some d, some p => .shfl p e own d
    | _, _ => .ready
  let xs := wr x.d own
  ({ t with shares := t.shares ++ [some own] }.addResult kind (xs.map RegWrite.dest) xs).advance x.sw x.len

/-- Crew-scope `shfl` (R111): a thread whose guard is false takes its round too, without contributing. -/
def shflCrew (x : Gen) (s : State) : State :=
  s.withIss fun i => s.modBlock i.blk.bid fun b =>
    { b with threads := b.threads.map (fun t =>
        if i.run.has t then
          (match fateOf x.theSig s.tick i.blk t with
           | .go => shflCrewThread x i t
           | .skip => { t with shares := t.shares ++ [none] }.settle x.theSig i.ctx .skip
           | f => t.settle x.theSig i.ctx f)
        else t) }

/-- `shfl` (R110, R111). -/
def genShfl (x : Gen) (s : State) : State := if x.minor < 4 then shflWarp x s else shflCrew x s

/-- What a waiting crew-scope shuffle receives, once it is known (R111): the source's contribution to the round, or
the thread's own when the source gave none or exited. -/
def shflAnswer (src : Option Thread) (round : Nat) (own : Word) : Option Word :=
  match src with
  | none => some own
  | some u =>
    match u.shares[round]? with
    | some (some v) => some v
    | some none => some own
    | none => if u.exited then some own else none

/-! ### Folds -/

/-- One step of `wred` (R112). -/
def wredStep (m : Nat) (a b : Word) : Word :=
  match m with
  | 0 => a + b
  | 1 => iminmaxVal 0 a b
  | 2 => iminmaxVal 2 a b
  | 3 => iminmaxVal 1 a b
  | 4 => iminmaxVal 3 a b
  | 5 => a &&& b
  | 6 => a ||| b
  | 7 => a ^^^ b
  | 8 => faddVal 0 a b
  | 9 => faddVal 2 a b
  | 10 => faddVal 3 a b
  | _ => rne32 (amax2 (f32 a) (f32 b))

/-- The first value of a fold: `amax.f32` starts from a magnitude. -/
def wredFirst (m : Nat) (a : Word) : Word := if m = 11 then rne32 (f32 a).abs else a

/-- The result of a floating fold: a NaN is canonical (R112). A NaN that the step of `min.f32` or `max.f32` drops beside
a number does not reach the result (DEDUCED, notes/assumptions/58.md). -/
def wredEnd (m : Nat) (a : Word) : Word := if 8 ≤ m && (f32 a).isNan then 0x7FC00000 else a

/-- The fold of R112 over the participants' values. -/
def wredVal (m : Nat) : List Word → Word
  | [] => 0
  | x :: xs => wredEnd m (xs.foldl (wredStep m) (wredFirst m x))

/-- `wred` (R112). -/
def genWred (x : Gen) (s : State) : State :=
  s.runAlu x.theSig fun i ps _ => wr x.d (wredVal x.minor (ps.map (fun u => (u.rd i.warp.w).r x.a)))

/-- `wscan` (R113). -/
def genWscan (x : Gen) (s : State) : State :=
  s.runAlu x.theSig fun i ps t =>
    let before := ps.filter (fun u => u.slot < t.slot || (x.minor % 2 == 0 && u.slot == t.slot))
    wr x.d (wredVal (if x.minor < 2 then 0 else 8) (before.map (fun u => (u.rd i.warp.w).r x.a)))

/-! ### Special registers and slots -/

/-- The special registers (R91). -/
def specialVal (s : State) (i : Iss) (t : Thread) (n : Nat) : Nat :=
  let b := i.blk
  match n with
  | 0 => t.tid
  | 1 => t.slot
  | 2 => t.lane
  | 3 => ((b.places[t.crew]?).map (·.part)).getD 0
  | 4 => 32 * t.lane + i.warp.first / 8
  | 5 => i.warp.size
  | 6 => t.crew
  | 7 => b.blk
  | 8 => b.clus.toNat
  | 9 => b.die
  | 10 => s.plat.fuses.pkg
  | 11 => b.nthr
  | 12 => b.ncrew
  | 13 => b.nblk
  | 14 => b.pos
  | 15 => b.bmask
  | 16 => s.clockOf b
  | 17 => s.plat.time
  | 18 => b.seed.toNat
  | _ => b.ctx

/-- `movs` (R91). -/
def genMovs (x : Gen) (s : State) : State :=
  s.runAlu x.theSig fun i _ t =>
    let v := specialVal s i t x.imm
    if special64 x.imm then wrPair x.d (BitVec.ofNat 64 v) else wr x.d (BitVec.ofNat 32 v)

/-- `movf` (R146). -/
def genMovf (x : Gen) (s : State) : State :=
  s.runAlu x.theSig fun i _ _ =>
    let v := slotOf i.blk.slots (bitsAt x.imm 0 3)
    wr x.d (if bitsAt x.imm 3 1 = 0 then loWord v else hiWord v)

end Sys2Proof.Machine
end

