-- ==== Sys2Proof/Machine/Convert.lean ====
section
/-! DEFINITION. The conversion instructions on registers (R134 to R145): `cvt`, `qnt`, `dqn`, `amax`, `scof`, `rscl`,
`rhad`, `rand`, `npack` and `nunpk`. -/

namespace Sys2Proof.Machine

open Sys2Proof

/-! ### Shapes and format checks -/

/-- Registers of a group of elements (R136); 1 for a format that gives no group. -/
def groupRegs (count width : Nat) : Nat := max 1 (ceilDiv (count * width) 32)

/-- A group of `n` registers as a source, and as a destination. -/
def gsrc (s n : Nat) (w : Bool) : Opd := { spec := s, w := w, n := n, al := n, rd := true }
def gdst (s n : Nat) (w : Bool) : Opd := { spec := s, w := w, n := n, al := n, wr := true }
/-- A k register that is read, or whose byte is written (R134). -/
def ksrc (s : Nat) : Opd := { spec := s, v := false, w := false, k := true, z := false, rd := true }
def kboth (s : Nat) : Opd := { spec := s, v := false, w := false, k := true, z := false, rd := true, wr := true }
/-- A counter or key pair, or 0xFF. -/
def psrc (s : Nat) (w : Bool) : Opd := { spec := s, w := w, n := 2, al := 2, rd := true }

/-- The FORMAT subcode of the first failing check (R116, R129): the slot's fields, reserved codes, classes. -/
def fmtFate (slot : Option DWord) (codes : List Nat) (classOk : Bool) : Option Nat :=
  if (slot.map slotOk).getD true = false then some 2
  else if (((slot.map (fun s => [slotFmt s])).getD [] ++ codes).all fmtAssigned) = false then some 1
  else if classOk = false then some 3
  else none

/-- Registers of 8 elements of a block format. A slot of another class names no group, so that its FORMAT 3 is found before
an alignment (R47, R136; DEDUCED, notes/assumptions/12.md); a source code in the word sizes its group by its width. -/
def blockRegs (fmt : Nat) : Nat := if fmtBlock fmt then groupRegs 8 (fmtWidth fmt) else 1

/-! ### Elements in registers -/

/-- The values of consecutive registers. -/
def Rd.regs (r : Rd) (s n : Nat) : List Word := (List.range n).map (fun i => r.r (s + i))

/-- Element codes packed in registers (R52, R123). -/
def unpackCodes (width count : Nat) (ws : List Word) : List Nat :=
  let x := fromWords ws
  (List.range count).map (fun i => bitsAt x (width * i) width)

/-- Pack codes into `n` registers; unused high bits are 0 (R136). -/
def packCodes (width n : Nat) (codes : List Nat) : List Word :=
  toWords n (codes.zipIdx.map (fun (c, i) => (c % 2 ^ width) <<< (width * i))).sum

/-- The eight source values of `qnt` and `amax` (R136): an FP32 octet or a BF16 quad. -/
def octetVals (r : Rd) (bf16? : Bool) (s : Nat) : List Val :=
  if bf16? then (unpackCodes 16 8 (r.regs s 4)).map (decodeFp bf16) else (r.regs s 8).map f32

/-- The participants of a thread's quad, in ascending position (R52, R134). -/
def quadOf (ps : List Thread) (t : Thread) : List Thread := ps.filter (fun u => u.slot / 4 == t.slot / 4)

/-- The largest magnitude of some values; NaN carries (R140). -/
def amaxOf (vs : List Val) : Val := vs.foldl amax2 (.fin false 0 0)

/-- The code of one element under a slot, with the random bits of its counter (R124 to R126, R131). -/
def slotCvt (slot seed : DWord) (ctr : DWord) (v : Val) : Nat :=
  match elemOf (slotFmt slot) 0 with
  | some k => roundElem k (slotMode slot seed ctr) (slotSat slot) v
  | none => 0

/-- The block codes of values whose counters start at `ctr` (R127, R138). Under the scale rule no element becomes
infinite or NaN (R127; DEDUCED, notes/assumptions/8.md). Under a given scale the scale stays, and a NaN or infinite source, or
an overflow without saturation, gives the element that R125 gives its format, although R122 says that the D9's own
quantisation never produces an infinite or NaN element (DEDUCED, notes/assumptions/61.md). -/
def slotQuant (slot seed : DWord) (s : Nat) (rule : Bool) (ctr : DWord) (vs : List Val) : List Nat :=
  vs.zipIdx.map (fun (v, i) =>
    quantise (slotFmt slot) s (slotMode slot seed (ctr + BitVec.ofNat 64 i)) (rule || slotSat slot) v)

/-! ### cvt -/

def cvtSig (slots : List DWord) (x : FormX) : Sig :=
  let slot := slotOf slots (x.fld 48 46)
  let from_ := x.fld 53 49
  let n := 2 ^ x.fld 55 54
  let regs (f : Nat) : Nat := if fmtPlain f then groupRegs n (fmtWidth f) else 1
  { x.sig (x.fld 63 56 == 0)
      [gsrc x.a.toNat (groupRegs n (fmtWidth from_)) true, psrc x.b.toNat true, noneAt x.c.toNat,
       gdst x.d.toNat (regs (slotFmt slot)) true] with
    fmt := fmtFate (some slot) [from_] (fmtPlain from_ && fmtPlain (slotFmt slot)) }

/-- What `cvt` writes (R137); equal codes copy the elements exactly. -/
def cvtWords (x : FormX) (i : Iss) (t : Thread) : List Word :=
  let r := t.rd i.warp.w
  let slot := slotOf i.blk.slots (x.fld 48 46)
  let from_ := x.fld 53 49
  let n := 2 ^ x.fld 55 54
  let codes := unpackCodes (fmtWidth from_) n (r.regs x.a.toNat (groupRegs n (fmtWidth from_)))
  let out := if from_ = slotFmt slot then codes else codes.zipIdx.map (fun (c, j) =>
    slotCvt slot i.blk.seed (r.pair x.b.toNat + BitVec.ofNat 64 j) (plainVal from_ c))
  let w := fmtWidth (slotFmt slot)
  packCodes w (groupRegs n w) out

/-- `cvt` (R137). -/
def opCvt (x : FormX) (s : State) : State :=
  s.runAlu (cvtSig s.slots x) fun i _ t => wrs x.d.toNat (cvtWords x i t)

/-! ### qnt and dqn -/

def qntSig (slots : List DWord) (x : FormX) : Sig :=
  let slot := slotOf slots (x.fld 48 46)
  { x.sig (x.fld 63 54 == 0 && x.fld 50 49 ≤ 1)
      [gsrc x.a.toNat (if x.fld 50 49 = 0 then 8 else 4) false, psrc x.b.toNat false, kboth x.c.toNat,
       gdst x.d.toNat (blockRegs (slotFmt slot)) false] with
    fmt := fmtFate (some slot) [] (fmtBlock (slotFmt slot)) }

/-- The scale byte that a quad's lowest participant holds (R53). -/
def quadScale (w : List Word) (q : List Thread) (kspec byte : Nat) : Nat :=
  match q with
  | u :: _ => byteOf ((u.rd w).r kspec) byte
  | [] => 0

/-- The source values of `qnt` in one thread (R136, R138). -/
def qntVals (x : FormX) (i : Iss) (t : Thread) : List Val :=
  octetVals (t.rd i.warp.w) (x.fld 50 49 == 1) x.a.toNat

/-- The scale byte of a thread's quad (R138): given, or by the scale rule over the quad's participants. -/
def qntScale (x : FormX) (i : Iss) (ps : List Thread) (t : Thread) : Nat :=
  let slot := slotOf i.blk.slots (x.fld 48 46)
  let q := quadOf ps t
  if x.fld 53 53 = 1 then quadScale i.warp.w q x.c.toNat (x.fld 52 51)
  else scaleRule (amaxOf (q.flatMap (qntVals x i))) (slotFmt slot) (slotAx4 slot)

/-- The codes that `qnt` writes (R138). -/
def qntWords (x : FormX) (i : Iss) (ps : List Thread) (t : Thread) : List Word :=
  let slot := slotOf i.blk.slots (x.fld 48 46)
  let fmt := slotFmt slot
  packCodes (fmtWidth fmt) (blockRegs fmt)
    (slotQuant slot i.blk.seed (qntScale x i ps t) (x.fld 53 53 != 1) ((t.rd i.warp.w).pair x.b.toNat) (qntVals x i t))

/-- `qnt` (R138). -/
def opQnt (x : FormX) (s : State) : State :=
  s.runAlu (qntSig s.slots x) fun i ps t =>
    wrKByte (x.c.toNat - 0xC0) (x.fld 52 51) (qntScale x i ps t) ++ wrs x.d.toNat (qntWords x i ps t)

def dqnSig (x : FormX) : Sig :=
  { x.sig (x.fld 63 56 == 0 && x.fld 47 46 == 0)
      [gsrc x.a.toNat (groupRegs 8 (fmtWidth (x.fld 52 48))) false, noneAt x.b.toNat, ksrc x.c.toNat,
       gdst x.d.toNat (if x.fld 55 55 = 0 then 8 else 4) false] with
    fmt := fmtFate none [x.fld 52 48] (fmtBlock (x.fld 52 48)) }

/-- Values written as an FP32 octet or a BF16 quad (R139). -/
def octetOut (bf16? : Bool) (vs : List Val) : List Word :=
  if bf16? then packCodes 16 4 (vs.map (round16 bf16 .rne)) else vs.map rne32

/-- `dqn` (R139). -/
def opDqn (x : FormX) (s : State) : State :=
  s.runAlu (dqnSig x) fun i ps t =>
    let fmt := x.fld 52 48
    let sc := quadScale i.warp.w (quadOf ps t) x.c.toNat (x.fld 54 53)
    let codes := unpackCodes (fmtWidth fmt) 8 ((t.rd i.warp.w).regs x.a.toNat (blockRegs fmt))
    wrs x.d.toNat (octetOut (x.fld 55 55 == 1) (codes.map (blockVal fmt sc)))

/-! ### amax and scof -/

def amaxSig (x : FormX) : Sig :=
  x.sig (x.fld 63 48 == 0)
    [gsrc x.a.toNat (if x.fld 46 46 = 0 then 8 else 4) false, noneAt x.b.toNat, noneAt x.c.toNat,
     gdst x.d.toNat 1 false]

/-- `amax` (R140). -/
def opAmax (x : FormX) (s : State) : State :=
  s.runAlu (amaxSig x) fun i ps t =>
    let vals (u : Thread) : List Val := octetVals (u.rd i.warp.w) (x.fld 46 46 == 1) x.a.toNat
    wr x.d.toNat (rne32 (amaxOf ((if x.fld 47 47 = 1 then [t] else quadOf ps t).flatMap vals)))

def scofSig (slots : List DWord) (x : FormX) : Sig :=
  let slot := slotOf slots (x.fld 48 46)
  { x.sig (x.fld 63 52 == 0) [src x.a.toNat, noneAt x.b.toNat, noneAt x.c.toNat, kboth x.d.toNat] with
    fmt := fmtFate (some slot) [] (fmtBlock (slotFmt slot)) }

/-- `scof` (R141). -/
def opScof (x : FormX) (s : State) : State :=
  s.runAlu (scofSig s.slots x) fun i _ t =>
    let slot := slotOf i.blk.slots (x.fld 48 46)
    let a := (f32 ((t.rd i.warp.w).r x.a.toNat)).abs
    let rule := if x.fld 51 51 = 1 then ceilRule else scaleRule
    wrKByte (x.d.toNat - 0xC0) (x.fld 50 49) (rule a (slotFmt slot) (slotAx4 slot))

/-! ### rscl -/

def rsclSig (slots : List DWord) (x : FormX) : Sig :=
  let slot := slotOf slots (x.fld 48 46)
  let from_ := x.fld 63 59
  { x.sig (x.fld 53 49 == 0)
      [gsrc x.a.toNat (groupRegs 8 (fmtWidth from_)) false, psrc x.b.toNat false, kboth x.c.toNat,
       gdst x.d.toNat (blockRegs (slotFmt slot)) false] with
    fmt := fmtFate (some slot) [from_] (fmtBlock from_ && fmtBlock (slotFmt slot)) }

/-- The source values of `rscl` in one thread under an old scale (R142). -/
def rsclVals (x : FormX) (i : Iss) (s0 : Nat) (t : Thread) : List Val :=
  (unpackCodes (fmtWidth (x.fld 63 59)) 8 ((t.rd i.warp.w).regs x.a.toNat (blockRegs (x.fld 63 59)))).map
    (blockVal (x.fld 63 59) s0)

/-- The old scale of a thread's quad (R142). -/
def rsclOld (x : FormX) (i : Iss) (ps : List Thread) (t : Thread) : Nat :=
  quadScale i.warp.w (quadOf ps t) x.c.toNat (x.fld 57 56)

/-- The new scale of a thread's quad (R142): by the rule or given; an old NaN scale gives the NaN scale. The largest
magnitude is exact also where it lies beyond FP32, although R127 calls it an FP32 magnitude (DEDUCED,
notes/assumptions/62.md). -/
def rsclScale (x : FormX) (i : Iss) (ps : List Thread) (t : Thread) : Nat :=
  let slot := slotOf i.blk.slots (x.fld 48 46)
  let fmt := slotFmt slot
  let q := quadOf ps t
  let given := quadScale i.warp.w q x.c.toNat (x.fld 55 54)
  let s0 := rsclOld x i ps t
  if nanScale (x.fld 63 59) s0 then nanScaleByte fmt (if x.fld 58 58 = 1 then slotAx4 slot else given / 64)
  else if x.fld 58 58 = 1 then scaleRule (amaxOf (q.flatMap (rsclVals x i s0))) fmt (slotAx4 slot)
  else given

/-- The codes that `rscl` writes (R142). -/
def rsclWords (x : FormX) (i : Iss) (ps : List Thread) (t : Thread) : List Word :=
  let slot := slotOf i.blk.slots (x.fld 48 46)
  let fmt := slotFmt slot
  packCodes (fmtWidth fmt) (blockRegs fmt)
    (slotQuant slot i.blk.seed (rsclScale x i ps t) (x.fld 58 58 == 1) ((t.rd i.warp.w).pair x.b.toNat)
      (rsclVals x i (rsclOld x i ps t) t))

/-- `rscl` (R142). -/
def opRscl (x : FormX) (s : State) : State :=
  s.runAlu (rsclSig s.slots x) fun i ps t =>
    wrKByte (x.c.toNat - 0xC0) (x.fld 55 54) (rsclScale x i ps t) ++ wrs x.d.toNat (rsclWords x i ps t)

/-! ### rhad -/

/-- `rhad` (R143). Its slot is checked under R129 also with `nosign`, which reads nothing of it (DEDUCED,
notes/assumptions/63.md). -/
def rhadSig (slots : List DWord) (x : FormX) : Sig :=
  { x.sig (x.fld 63 53 == 0 && x.fld 50 49 ≤ 2)
      [gsrc x.a.toNat 8 false, psrc x.b.toNat false, psrc x.c.toNat false, gdst x.d.toNat 8 false] with
    fmt := fmtFate (some (slotOf slots (x.fld 48 46))) [] true }

/-- One stage of the rotation at distance `h` (R143). -/
def rhadStage (h : Nat) (xs : List Val) : List Val :=
  xs.zipIdx.map (fun (v, e) =>
    if e / h % 2 = 0 then f32 (rne32 (v.add (xs.getD (e + h) .nan)))
    else f32 (rne32 ((xs.getD (e - h) .nan).add v.negate)))

/-- The stages h = 1, 2, 4, … (R143). -/
def rhadStages : Nat → Nat → List Val → List Val
  | 0, _, xs => xs
  | n + 1, h, xs => rhadStages n (2 * h) (rhadStage h xs)

/-- Negate a value, NaN included: FP32 negation of a NaN is still a NaN (R143). -/
def signIf (b : Bool) (v : Val) : Val := if b then v.negate else v

/-- The rotated octet that `rhad` writes (R143). -/
def rhadWords (x : FormX) (i : Iss) (ps : List Thread) (t : Thread) : List Word :=
  let slot := slotOf i.blk.slots (x.fld 48 46)
  let lg := 4 + 2 * x.fld 50 49
  let per := 2 ^ lg / 8
  let base := i.warp.posOf t / per * per
  let holder (e : Nat) : Option Thread := ps.find? (fun u => i.warp.posOf u == base + e / 8)
  let xs : List Val := (List.range (2 ^ lg)).map (fun e => match holder e with
    | some u => f32 ((u.rd i.warp.w).r (if x.a.toNat = 0xFF then 0xFF else x.a.toNat + e % 8))
    | none => .fin false 0 0)
  let signs (ys : List Val) : List Val :=
    if x.fld 52 52 = 1 then ys else ys.zipIdx.map (fun (v, e) => match holder e with
      | some u =>
        let r := u.rd i.warp.w
        signIf ((chg (r.pair x.c.toNat) (slotStream slot)
          (r.pair x.b.toNat + BitVec.ofNat 64 (e % 8))).msb) v
      | none => v)
  let inv := x.fld 51 51 == 1
  let ys := rhadStages lg 1 (if inv then xs else signs xs)
  let zs := (if inv then signs ys else ys).map (fun v => rne32 (v.scale (-(lg / 2 : Nat))))
  (zs.drop (8 * (i.warp.posOf t - base))).take 8

/-- `rhad` (R143). -/
def opRhad (x : FormX) (s : State) : State :=
  s.runAlu (rhadSig s.slots x) fun i ps t => wrs x.d.toNat (rhadWords x i ps t)

/-! ### rand -/

def randSig (slots : List DWord) (x : FormX) : Sig :=
  let sreg := x.fld 49 49 == 1
  { x.sig (x.fld 63 52 == 0 && x.fld 51 50 ≤ 1 && (!sreg || x.fld 48 46 == 0))
      [psrc x.a.toNat true, psrc x.b.toNat true, (if sreg then { src x.c.toNat with z := false } else noneAt x.c.toNat),
       dst x.d.toNat (if x.fld 51 50 = 0 then 2 else 1)] with
    fmt := if sreg then none else fmtFate (some (slotOf slots (x.fld 48 46))) [] true }

/-- `rand` (R144). -/
def opRand (x : FormX) (s : State) : State :=
  s.runAlu (randSig s.slots x) fun i _ t =>
    let r := t.rd i.warp.w
    let stream := if x.fld 49 49 = 1 then (r.r x.c.toNat).toNat else slotStream (slotOf i.blk.slots (x.fld 48 46))
    let c := chg (r.pair x.b.toNat) stream (r.pair x.a.toNat)
    wrs x.d.toNat (if x.fld 51 50 = 0 then [loWord c, hiWord c] else [rne32 (.fin false (bitsAt c.toNat 40 24) (-24))])

/-! ### npack and nunpk -/

/-- The element width of `npack` and `nunpk` (R135). -/
def packWidth (w : Nat) : Nat :=
  match w with
  | 0 => 4
  | 1 => 6
  | 2 => 8
  | _ => 16

def npackSig (x : FormX) : Sig :=
  let n := 2 ^ (x.fld 49 48 + 1)
  x.sig (x.fld 63 52 == 0 && x.fld 51 50 ≤ 2 && x.fld 49 48 ≤ 2)
    [gsrc x.a.toNat n true, noneAt x.b.toNat, noneAt x.c.toNat,
     gdst x.d.toNat (groupRegs n (packWidth (x.fld 47 46))) true]

/-- One element of `npack` (R145). -/
def packElem (clamp? w : Nat) (a : Word) : Nat :=
  match clamp? with
  | 0 => bitsAt a.toNat 0 w
  | 1 => (clamp (-(2 ^ (w - 1))) (2 ^ (w - 1) - 1) a.toInt % 2 ^ w).toNat
  | _ => min a.toNat (2 ^ w - 1)

/-- `npack` (R145). -/
def opNpack (x : FormX) (s : State) : State :=
  s.runOwn (npackSig x) fun r =>
    let n := 2 ^ (x.fld 49 48 + 1)
    let w := packWidth (x.fld 47 46)
    wrs x.d.toNat (packCodes w (groupRegs n w) ((r.regs x.a.toNat n).map (packElem (x.fld 51 50) w)))

def nunpkSig (x : FormX) : Sig :=
  let n := 2 ^ (x.fld 49 48 + 1)
  x.sig (x.fld 63 51 == 0 && x.fld 49 48 ≤ 2)
    [gsrc x.a.toNat (groupRegs n (packWidth (x.fld 47 46))) true, noneAt x.b.toNat, noneAt x.c.toNat,
     gdst x.d.toNat n true]

/-- `nunpk` (R145). -/
def opNunpk (x : FormX) (s : State) : State :=
  s.runOwn (nunpkSig x) fun r =>
    let n := 2 ^ (x.fld 49 48 + 1)
    let w := packWidth (x.fld 47 46)
    let codes := unpackCodes w n (r.regs x.a.toNat (groupRegs n w))
    wrs x.d.toNat (codes.map (fun c => if x.fld 50 50 = 1 then word (sext w c) else BitVec.ofNat 32 c))

end Sys2Proof.Machine
end

