-- ==== Sys2Proof/Machine/Packet.lean ====
section
/-! DEFINITION. Packets to other packages (R255 to R260): flits and their check, the replay buffer, the bytes of a packet, the
port by which it leaves, and the packets of accesses to memory of other packages (R11, R252). -/

namespace Sys2Proof.Machine

open Sys2Proof

/-! ### The check code -/

/-- One bit of the reflected CRC-32 (R256). -/
def crcBit (x : Nat) : Nat := if x % 2 = 1 then (x / 2) ^^^ 0xEDB88320 else x / 2

/-- One byte of the CRC. -/
def crcByte (x : Nat) (b : Byte) : Nat := crcBit (crcBit (crcBit (crcBit (crcBit (crcBit (crcBit (crcBit (x ^^^ b.toNat))))))))

/-- The check of a flit's first 252 bytes under a sequence number (R256). -/
def flitCheck (n : Nat) (bs : List Byte) : Nat :=
  (bs.foldl crcByte (0xFFFFFFFF ^^^ n)) ^^^ 0xFFFFFFFF

/-- Sequence numbers are modulo 2^24 (R256). -/
def seqMod : Nat := 2 ^ 24

/-- Whether a flit passes its check under the number that its receiver expects (R255, R257). -/
def flitOk (n : Nat) (flit : List Byte) : Bool :=
  flit.length == 256 && bitsAt (field flit 0 4) 28 4 < 4 && field flit 252 4 == flitCheck n (flit.take 252)

/-- A flit (R255). -/
def mkFlit (kind vc seq n : Nat) (body : List Byte) : List Byte :=
  let bs := toBytes 4 (kind <<< 28 + vc <<< 25 + seq % seqMod) ++ (body ++ List.replicate (248 - body.length) 0)
  bs ++ toBytes 4 (flitCheck n bs)

/-! ### Packets -/

/-- The codes of the packet kinds, in the order of R259. -/
def packetKindNum : PacketKind → Nat
  | .read => 0 | .readResponse => 1 | .write => 2 | .atomic => 3 | .atomicResponse => 4 | .invalidate => 5
  | .acknowledge => 6 | .writeBack => 7 | .reducingWrite => 8 | .messageHeader => 9 | .messagePull => 10
  | .counterAdvance => 11 | .refusal => 12

def packetKinds : List PacketKind :=
  [.read, .readResponse, .write, .atomic, .atomicResponse, .invalidate, .acknowledge, .writeBack, .reducingWrite,
   .messageHeader, .messagePull, .counterAdvance, .refusal]

/-- The byte stream of a packet (R259). -/
def packetBytes (p : Packet) : List Byte :=
  toBytes 2 (packetKindNum p.kind) ++ toBytes 2 p.flags.toNat ++ toBytes 4 p.src ++ toBytes 4 p.dst ++
    toBytes 4 p.job.toNat ++ toBytes 4 p.order ++ toBytes 4 p.lines.length ++ toBytes 8 p.field.toNat ++
    p.lines.flatMap (fun l => toBytes 128 l.data.toNat ++ toBytes 8 l.side.toNat)

/-- Flits that a packet with some lines takes (R259). -/
def packetFlits (lines : Nat) : Nat := ceilDiv (32 + 136 * lines) 248

/-- The lines of a packet's stream. -/
def parseLines : Nat → List Byte → List WireLine
  | 0, _ => []
  | n + 1, bs =>
    { data := BitVec.ofNat 1024 (field bs 0 128), side := BitVec.ofNat 64 (field bs 128 8) } :: parseLines n (bs.drop 136)

/-- Read a packet from a stream (R259); a kind that is not listed names none. -/
def parsePacket (bs : List Byte) : Option Packet :=
  (packetKinds[field bs 0 2]?).map fun k =>
    { kind := k, flags := BitVec.ofNat 16 (field bs 2 2), src := field bs 4 4, dst := field bs 8 4,
      job := BitVec.ofNat 32 (field bs 12 4), order := field bs 16 4, field := BitVec.ofNat 64 (field bs 24 8),
      lines := parseLines (field bs 20 4) (bs.drop 32) }

/-- Cut a stream into the bodies of flits; the first argument bounds their number. -/
def bodies : Nat → List Byte → List (List Byte)
  | 0, _ => []
  | n + 1, bs => bs.take 248 :: bodies n (bs.drop 248)

/-- Flits that a replay buffer holds (R257). -/
def replaySize : Nat := 1024

/-- The number that an acknowledging link word carries: the highest received in order (R255). -/
def Port.inOrder (p : Port) : Nat := (p.rxExpect + seqMod - 1) % seqMod

/-- Send the flit bodies that wait, while the replay buffer has room: each data flit takes the next number, goes onto the
lanes and stays in the buffer until it is acknowledged (R256, R257). -/
def Port.flush (p : Port) : Port :=
  let bs := p.queue.take (replaySize - p.replay.length)
  let fs := bs.zipIdx.map (fun (b, i) => mkFlit 1 0 p.inOrder ((p.txNext + i) % seqMod) b)
  { p with queue := p.queue.drop (replaySize - p.replay.length), replay := p.replay ++ fs, wire := p.wire ++ fs,
           txNext := (p.txNext + fs.length) % seqMod }

/-- A port sends a packet (R259): its flits follow those of the packet before. -/
def Port.send (p : Port) (k : Packet) : Port :=
  { p with queue := p.queue ++ bodies (packetFlits k.lines.length) (packetBytes k) }.flush

/-- A port sends a flit without a packet's bytes: its check uses the number of the next data flit (R256). -/
def Port.control (p : Port) (kind seq : Nat) : Port := { p with wire := p.wire ++ [mkFlit kind 0 seq p.txNext []] }

/-- The ports that can take a packet now (R257, R258): they route, and no earlier packet waits for room. -/
def freePorts (ps : List Port) : List Nat :=
  (List.range ps.length).filter (fun i => (ps[i]?).any (fun p => p.routes && p.queue.isEmpty))

/-- The port by which a packet leaves (R11, R260): the manual leaves the choice to adaptive routing. -/
def State.choosePort (s : State) : Option Nat :=
  let ps := freePorts s.plat.ports
  ps[Config.portChoice s.nextId % ps.length]?

/-- Send what waits in the outbox, in order, as ports have room; the first argument bounds the packets. -/
def State.pump : Nat → State → State
  | 0, s => s
  | n + 1, s =>
    match s.fab.outbox with
    | k :: ks => match s.choosePort with
      | some i => State.pump n
          ({ (s.modFab fun f => { f with outbox := ks }).modPlat fun p => { p with ports := modAt p.ports i (·.send k) } with
             nextId := s.nextId + 1 })
      | none => s
    | [] => s

/-- The next order number of a stream of this package (R260). -/
def Fabric.orderOf (f : Fabric) (src dst : Nat) (job : Word) : Nat :=
  ((f.orders.find? (fun o => o.1 == src && o.2.1 == dst && o.2.2.1 == job)).map (·.2.2.2)).getD 0

/-- Send a packet to another package: it takes its stream's next order number and leaves by a port with room. -/
def State.sendPacket (s : State) (k : Packet) : State :=
  let n := s.fab.orderOf k.src k.dst k.job
  let rest := s.fab.orders.filter (fun o => !(o.1 == k.src && o.2.1 == k.dst && o.2.2.1 == k.job))
  let o : Nat × Nat × Word × Nat := (k.src, k.dst, k.job, (n + 1) % 2 ^ 32)
  let s1 := s.modFab fun f => { f with outbox := f.outbox ++ [{ k with order := n }], orders := o :: rest }
  s1.pump s1.fab.outbox.length

/-! ### Endpoints -/

/-- The endpoint of a die of this package (R9, R250). -/
def State.endpoint (s : State) (die : Nat) : Nat := s.plat.fuses.pkg * 8 + die

/-- Whether an endpoint is a die of this package. -/
def State.isLocal (s : State) (ep : Nat) : Bool := ep / 8 == s.plat.fuses.pkg

/-- Whether a physical address lies in the memory of another package (R27). -/
def State.elsewhere (s : State) (pa : Nat) : Bool := bitsAt pa 52 2 == 0 && bitsAt pa 40 12 != s.plat.fuses.pkg

/-- Whether a package is cabled into the domain (R250, R254); the package's own always is. -/
def Platform.present (p : Platform) (pkg : Nat) : Bool := pkg == p.fuses.pkg || p.fuses.domain.contains pkg

/-- A packet of one line, or none. -/
def mkPacket (kind : PacketKind) (flags : Half) (src dst : Nat) (job : Word) (f : DWord) (ls : List WireLine) : Packet :=
  { kind := kind, flags := flags, src := src, dst := dst, job := job, order := 0, field := f, lines := ls }

/-! ### Accesses to other packages (R11, R252)

How a packet's flags and lines carry an access is the model's (notes/assumptions/13.md). -/

/-- Whether no port routes toward a package (R11, R254, R258); its own needs none. -/
def State.cutOff (s : State) (pkg : Nat) : Bool := pkg != s.plat.fuses.pkg && !(s.plat.ports.any Port.routes)

/-- A packet of peer memory traffic, which carries no job id (R251, R259), from a die toward the home of an address. -/
def State.sendPeer (s : State) (die : Nat) (kind : PacketKind) (flags : Half) (pa : Nat) (ls : List WireLine) : State :=
  if s.elsewhere pa then s.sendPacket (mkPacket kind flags (s.endpoint die) (pa >>> 37) 0 (BitVec.ofNat 64 pa) ls) else s

/-- Change what the dies have of memory of other packages. -/
def State.modPeer (s : State) (f : Peer → Peer) : State := s.modFab fun x => { x with peer := f x.peer }

/-- Whether a die would have to fetch a line before it reads an address: the line is homed in another package that is present and
that a route leads to, and the die holds no copy of it (R252). -/
def State.missing (s : State) (die pa : Nat) : Bool :=
  s.elsewhere pa && s.plat.present (bitsAt pa 40 12) && !(s.cutOff (bitsAt pa 40 12)) && !(s.fab.peer.here.contains (die, pa / 128))

/-- A miss asks the home of a line for a copy (R252), once. -/
def State.askLine (s : State) (die line : Nat) : State :=
  if s.missing die (128 * line) ∧ (die, line, true) ∉ s.fab.peer.asked then
    (s.modPeer fun x => { x with asked := x.asked ++ [(die, line, true)] }).sendPeer die .read 0 (128 * line) []
  else s

/-- A die gives up its copy of a line (R252, R253). -/
def Peer.leave (x : Peer) (die line : Nat) : Peer := { x with here := x.here.filter (· != (die, line)) }

/-- A write to a home is acknowledged (R252): the first that the die has open of the line. -/
def Peer.acked (x : Peer) (die line : Nat) : Peer :=
  { x with writes := dropFirst (fun w => w.die == die && w.line == line) x.writes }

/-- The dies give up their copies of a line, and an answer still on its way may not be used. -/
def Peer.drop (x : Peer) (line : Nat) : Peer :=
  { x with here := x.here.filter (·.2 != line), asked := x.asked.map (fun a => if a.2.1 = line then (a.1, line, false) else a) }

/-- A write goes to the home of its line in another package, and is open until the home acknowledges it (R252). -/
def State.peerWrite (s : State) (die : Nat) (owner : PeerOwner) (flags : Half) (pa : Nat) (ls : List WireLine) (sc : Bool := false) :
    State :=
  if s.elsewhere pa then
    (s.modPeer fun x => { x.drop (pa / 128) with
      writes := x.writes ++ [{ die := die, line := pa / 128, owner := owner, sc := sc }] }).sendPeer die .write flags pa ls
  else s

/-- The flag of a write whose second line masks the first. -/
def maskedFlag : Half := 2

/-- A write of a whole line of another package with its sidecar. -/
def State.peerLine (s : State) (die : Nat) (owner : PeerOwner) (line : Nat) (w : WireLine) : State :=
  s.peerWrite die owner 0 (line * 128) [w]

/-- Whether a write of an owner to another package is still open. -/
def State.writesOpen (s : State) (owner : PeerOwner) : Bool := s.fab.peer.writes.any (·.owner == owner)

/-- Whether a store of a thread that it is parked for is still on its way to a home in another package (R218). -/
def State.scOpen (s : State) (bid ti : Nat) : Bool := s.fab.peer.writes.any (fun w => w.sc && w.owner == .thread bid ti)

/-- Whether a far atomic of a thread is not yet answered by its home (R254). -/
def State.atomsOpen (s : State) (bid ti : Nat) : Bool :=
  s.fab.peer.atoms.any (fun a => a.waiters.any (fun w => w.bid == bid && w.ti == ti))

/-- Whether a write of a thread to another package is not yet acknowledged by its home (R252). -/
def State.peerOpen (s : State) (bid ti : Nat) : Bool := s.writesOpen (.thread bid ti) || s.atomsOpen bid ti

end Sys2Proof.Machine
end

