-- ==== Sys2Proof/Machine/Mem.lean ====
section
/-! DEFINITION. Physical memory, churn partials (R206), the page walk and permissions (R185 to R189), translation
caches (R191), multicast windows (R261 to R263), store queues (R213) and the fetch of instruction halfwords (R33). -/

namespace Sys2Proof.Machine

open Sys2Proof

/-! ### Bytes -/

/-- The byte listed at a key; 0 where nothing is listed (notes/assumptions/4.md). -/
def cellGet : List Host.Cell → Nat → Byte
  | [], _ => 0
  | (b, w) :: r, a => if a = b then w else if a < b then 0 else cellGet r a

/-- Put a byte at a key, keeping the list rising and free of zeros. -/
def cellSet : List Host.Cell → Nat → Byte → List Host.Cell
  | [], a, v => if v = 0 then [] else [(a, v)]
  | (b, w) :: r, a, v =>
    if a < b then (if v = 0 then (b, w) :: r else (a, v) :: (b, w) :: r)
    else if a = b then (if v = 0 then r else (a, v) :: r)
    else (b, w) :: cellSet r a v

/-- The canonical form of a byte list: keys strictly rising, no zero byte. -/
def cellsWf : List Host.Cell → Bool
  | [] => true
  | [(_, w)] => w != 0
  | (a, w) :: (b, x) :: r => w != 0 && decide (a < b) && cellsWf ((b, x) :: r)

/-- The canonical form of memory. -/
def Mem.wf (m : Mem) : Bool := cellsWf m.cells && cellsWf m.sides

/-- A byte of payload. -/
def Mem.byte (m : Mem) (pa : Nat) : Byte := cellGet m.cells pa

/-- Consecutive payload bytes. -/
def Mem.bytes (m : Mem) (pa n : Nat) : List Byte := (List.range n).map (fun i => m.byte (pa + i))

/-- A little-endian number of `n` bytes (R2). -/
def Mem.num (m : Mem) (pa n : Nat) : Nat := fromBytes (m.bytes pa n)

/-- Sidecar byte `b` of a line (R30). -/
def Mem.side (m : Mem) (line b : Nat) : Byte := cellGet m.sides (line * 8 + b)

def Mem.setByte (m : Mem) (pa : Nat) (v : Byte) : Mem := { m with cells := cellSet m.cells pa v }

def Mem.setSide (m : Mem) (key : Nat) (v : Byte) : Mem := { m with sides := cellSet m.sides key v }

/-- Store consecutive payload bytes. -/
def Mem.setBytes (m : Mem) : Nat → List Byte → Mem
  | _, [] => m
  | pa, b :: bs => (m.setByte pa b).setBytes (pa + 1) bs

/-- The line that holds an address (R28, R30). -/
def lineOf (pa : Nat) : Nat := pa / 128

/-- A line with its sidecar, as it travels. -/
def Mem.wire (m : Mem) (line : Nat) : WireLine :=
  { data := BitVec.ofNat 1024 (m.num (line * 128) 128),
    side := BitVec.ofNat 64 (fromBytes ((List.range 8).map (m.side line))) }

/-- The HBM stack of a line, numbered over the whole domain (R12): bit 3 of its home slice selects it (R28). -/
def stackAt (line : Nat) : Nat := 2 * (line >>> 30) + homeSlice line / 8

/-- Whether a line is marked (R335), or lies behind a channel lost for good (R338). -/
def Mem.marked (m : Mem) (line : Nat) : Bool :=
  m.marks.any (·.line == line) ||
    m.lost.any (fun c => bitsAt line 45 2 == 0 && c.1 == stackAt line && c.2 == Config.channelOf line)

/-- Mark a line: what has been rewritten of it before no longer counts (R335). -/
def Mem.mark (m : Mem) (line : Nat) : Mem :=
  { m with marks := { line := line, pay := false, blks := [] } :: m.marks.filter (·.line != line) }

/-- Clear a line's mark: it was replaced whole with its sidecar (R335). -/
def Mem.unmark (m : Mem) (line : Nat) : Mem := { m with marks := m.marks.filter (·.line != line) }

/-- Replace a whole line with its sidecar (R335). -/
def Mem.setWire (m : Mem) (line : Nat) (w : WireLine) : Mem :=
  let m := m.setBytes (line * 128) (toBytes 128 w.data.toNat)
  let m := (List.range 8).foldl (fun m b => m.setSide (line * 8 + b) (BitVec.ofNat 8 (bitsAt w.side.toNat (8 * b) 8))) m
  m.unmark line

/-! ### Atomic operations and churn -/

/-- The operations of R202 on 32-bit values. -/
def atomOp32 (op : Nat) (old x : Word) : Word :=
  match op with
  | 0 => old + x
  | 1 => if old.toInt ≤ x.toInt then old else x
  | 2 => if old.toInt ≤ x.toInt then x else old
  | 3 => if old.toNat ≤ x.toNat then old else x
  | 4 => if old.toNat ≤ x.toNat then x else old
  | 5 => old &&& x
  | 6 => old ||| x
  | 7 => old ^^^ x
  | 8 => x
  | 9 => rne32 ((f32 old).add (f32 x))
  | 10 => BitVec.ofNat 32 (minMax fp32 false old.toNat x.toNat)
  | _ => BitVec.ofNat 32 (minMax fp32 true old.toNat x.toNat)

/-- The operations of R202 on 64-bit values. -/
def atomOp64 (op : Nat) (old x : DWord) : DWord :=
  match op with
  | 0 => old + x
  | 1 => if old.toInt ≤ x.toInt then old else x
  | 2 => if old.toInt ≤ x.toInt then x else old
  | 3 => if old.toNat ≤ x.toNat then old else x
  | 4 => if old.toNat ≤ x.toNat then x else old
  | 5 => old &&& x
  | 6 => old ||| x
  | 7 => old ^^^ x
  | _ => x

/-- An operation of R202 at either width; a 32-bit value lies in the low half. -/
def atomOp (op : Nat) (b64 : Bool) (old x : DWord) : DWord :=
  if b64 then atomOp64 op old x else (atomOp32 op (loWord old) (loWord x)).setWidth 64

/-- Bytes of a location. -/
def widthOf (b64 : Bool) : Nat := if b64 then 8 else 4

/-- Merge one churn partial at home (R206): an `add.f32` partial holds the location's value itself. -/
def Mem.mergeChurn (m : Mem) (c : Churn) : Mem :=
  let n := widthOf c.b64
  let old := BitVec.ofNat 64 (m.num c.pa n)
  m.setBytes c.pa (toBytes n (if c.op = 9 then c.val else atomOp c.op c.b64 old c.val).toNat)

/-- Merge the churn partials that a test selects (R206). -/
def State.mergeChurn (s : State) (f : Churn → Bool) : State :=
  { s with mem := (s.churn.filter f).foldl Mem.mergeChurn s.mem, churn := s.churn.filter (fun c => !f c) }

/-- Before an access to a line, the home slice merges its partials (R206). -/
def State.touch (s : State) (line : Nat) : State := s.mergeChurn (fun c => lineOf c.pa == line)

/-- Before an access that may span lines. -/
def State.touchRange (s : State) (pa n : Nat) : State :=
  s.mergeChurn (fun c => lineOf pa ≤ lineOf c.pa && lineOf c.pa ≤ lineOf (pa + n - 1))

/-- Replace a whole line of memory, after its partials (R206, R335). -/
def State.putWire (s : State) (line : Nat) (w : WireLine) : State :=
  let s := s.touch line
  { s with mem := s.mem.setWire line w }

/-- Read a number from memory as an agent sees it. -/
def State.readMem (s : State) (pa n : Nat) : Nat := (s.touchRange pa n).mem.num pa n

/-- Write bytes to memory as an agent does: a partial write leaves a mark in place (R335). -/
def State.writeMem (s : State) (pa : Nat) (bs : List Byte) : State :=
  let s := s.touchRange pa bs.length
  { s with mem := s.mem.setBytes pa bs }

/-! ### The page walk -/

/-- What an access asks of a page (R189): permissions, and whether window and host pages permit its kind. -/
structure Acc where
  rd : Bool := false
  wr : Bool := false
  ex : Bool := false
  reduce : Bool := false
  window : Bool := false
  host : Bool := true
  deriving DecidableEq, Repr

def accFetch : Acc := { ex := true }
def accLoad : Acc := { rd := true }
def accStore : Acc := { wr := true, window := true }
def accPst : Acc := { wr := true }
def accZero : Acc := { wr := true }
def accAtom : Acc := { rd := true, wr := true, host := false }
def accRed : Acc := { rd := true, wr := true, window := true, host := false }
def accMerge : Acc := { rd := true, wr := true, reduce := true, window := true, host := false }
def accWaita : Acc := { rd := true, host := false }
/-- The source of a copy, a send or a work entry. R189 permits copies and fabric operations on a window page, and no rule gives a read
of a window a value; the model does not permit the kind, PROT 7 (DESIGN CHOICE, notes/assumptions/73.md). -/
def accCopyIn : Acc := { rd := true }
def accCopyOut : Acc := { wr := true, window := true }
def accRred : Acc := { wr := true, reduce := true, window := true }

/-- A leaf found by a walk: its level, the address of its entry and the entry. -/
structure Leaf where
  level : Nat
  at_ : Nat
  e : Nat
  deriving DecidableEq, Repr

/-- The fault of an access to memory. -/
structure MemFault where
  code : TrapCode
  sub : Nat
  deriving DecidableEq, Repr

/-- An access that is held, not a fault: the stack is not ready (R339), another package's copy of the line has first to be
returned, or the line has first to come from another package (R252). WATCHDOG is never the code of an access. -/
def MemFault.held (stack : Nat) : MemFault := ⟨.watchdog, stack⟩
def MemFault.recalled (line : Nat) (wr : Bool) : MemFault := ⟨.watchdog, 64 + 4 * line + (if wr then 1 else 0)⟩
def MemFault.fetching (line : Nat) : MemFault := ⟨.watchdog, 64 + 4 * line + 2⟩
def MemFault.isHold (f : MemFault) : Bool := f.code == .watchdog

/-- What a thread waits for whose access is held. -/
def MemFault.cond (f : MemFault) : Cond :=
  if f.sub < 64 then .stackReady f.sub
  else if (f.sub - 64) % 4 = 2 then .lineHere ((f.sub - 64) / 4)
  else .lineFree ((f.sub - 64) / 4) ((f.sub - 64) % 4 == 1)

/-- A line that an access of a die waits for is asked for (R252). -/
def State.askFor (s : State) (die : Nat) (f : MemFault) : State :=
  match f.isHold, f.cond with
  | true, .lineHere l => s.askLine die l
  | _, _ => s

/-- The HBM stack of a physical address of this package (R12, R28). -/
def stackOf (pa : Nat) : Nat := 2 * bitsAt pa 37 3 + homeSlice (pa / 128) / 8

/-- The die of a site (R191). -/
def siteDie (site : Nat) : Nat :=
  if site < 384 then site / 48 else if site < 392 then site - 384 else (site - 392) / 6

/-- Whether a stack is ready (R339). -/
def State.stackUp (s : State) (k : Nat) : Bool := s.plat.rdymap.toNat.testBit (11 + k)

/-- Whether an address lies on a peer die of this package, behind a stack that is not ready (R339). -/
def State.stackWaits (s : State) (site pa : Nat) : Bool :=
  bitsAt pa 52 2 == 0 && bitsAt pa 40 12 == s.plat.fuses.pkg && bitsAt pa 37 3 != siteDie site && !(s.stackUp (stackOf pa))

/-- Page offset bits of a leaf's level (R185). -/
def offBits (level : Nat) : Nat := 13 + 10 * level

/-- The leaf checks of R187, in their order. -/
def leafFate (level e : Nat) : Option MemFault :=
  let pa := bitsAt e 16 41 <<< 13
  let win := bitsAt pa 53 1
  let host := bitsAt pa 52 1
  if pa % 2 ^ offBits level ≠ 0 then some ⟨.page, 3⟩
  else if bitsAt e 6 1 ≠ win then some ⟨.page, 3⟩
  else if (host = 1 ∨ win = 1) ∧ (bitsAt e 8 4 ≠ 0 ∨ bitsAt e 5 1 = 1) then some ⟨.page, 3⟩
  else if 8 ≤ bitsAt e 8 4 then some ⟨.format, 4⟩
  else if host = 1 ∧ win = 1 then some ⟨.prot, 6⟩
  else none

/-- The walk from a table at a level down (R187), at a site, whose die's walker waits for a peer's stack that is not ready
(R339), and for a line of another package (R252); the first number is the level plus one. -/
def walkFrom (s : State) (site va : Nat) : Nat → Nat → MemFault ⊕ Leaf
  | 0, _ => .inl ⟨.page, 3⟩
  | level + 1, table =>
    let at_ := table + 8 * bitsAt va (13 + 10 * level) 10
    let e := s.readMem at_ 8
    if s.stackWaits site at_ then .inl (.held (stackOf at_))
    else if s.missing (siteDie site) at_ then .inl (.fetching (lineOf at_))
    else if s.mem.marked (lineOf at_) then .inl ⟨.dataerr, 0⟩
    else if bitsAt e 0 1 = 0 then .inl ⟨.page, 1⟩
    else if bitsAt e 57 7 ≠ 0 then .inl ⟨.page, 3⟩
    else if bitsAt e 1 1 = 0 then
      (let next := bitsAt e 16 41 <<< 13
       if level = 0 ∨ bitsAt e 2 14 ≠ 0 ∨ bitsAt next 53 1 = 1 ∨ bitsAt next 52 1 = 1 then .inl ⟨.page, 3⟩
       else walkFrom s site va level next)
    else if level = 3 then .inl ⟨.page, 3⟩
    else match leafFate level e with
    | some f => .inl f
    | none => .inr { level := level, at_ := at_, e := e }

/-- The walk of a context's page table; a root of 0 names none (R187, R304). R27 gives an address 54 bits and R305 bounds bits
[53:52] of `$root` and its alignment only: the model takes all 64 bits of `$root` as the table's address, bits [63:54] with them
(DESIGN CHOICE, notes/assumptions/79.md). -/
def walk (s : State) (c : Context) (site va : Nat) : MemFault ⊕ Leaf :=
  if c.root = 0 then .inl ⟨.page, 1⟩ else walkFrom s site va 4 c.root.toNat

/-- The permissions of R189: what is missing first, then what the page's space does not permit. R189 orders neither before the
other (DESIGN CHOICE, notes/assumptions/72.md). -/
def permFate (e : Nat) (a : Acc) (isRed : Bool) : Option MemFault :=
  let win := bitsAt e 6 1 = 1
  let host := bitsAt (bitsAt e 16 41 <<< 13) 52 1 = 1
  if a.ex ∧ bitsAt e 4 1 = 0 then some ⟨.prot, 4⟩
  else if a.rd ∧ bitsAt e 2 1 = 0 then some ⟨.prot, 2⟩
  else if a.wr ∧ bitsAt e 3 1 = 0 then some ⟨.prot, 3⟩
  else if (a.reduce ∨ (isRed ∧ win)) ∧ bitsAt e 7 1 = 0 then some ⟨.prot, 5⟩
  else if (win ∧ a.window = false) ∨ (host ∧ a.host = false) then some ⟨.prot, 7⟩
  else none

/-- A translated address with what its page says of it. -/
structure Pa where
  pa : Nat
  tag : Nat
  sc : Bool
  win : Bool
  host : Bool
  policy : Nat
  deriving DecidableEq, Repr

/-- The address that a leaf gives (R187). -/
def Leaf.pa (l : Leaf) (va : Nat) : Pa :=
  let base := bitsAt l.e 16 41 <<< 13
  { pa := base + va % 2 ^ offBits l.level, tag := bitsAt l.e 8 4, sc := bitsAt l.e 5 1 == 1,
    win := bitsAt base 53 1 == 1, host := bitsAt base 52 1 == 1, policy := bitsAt l.e 12 2 }

/-- A translation cache's entry for an address, when it serves the access without a walk (R191): permission given,
and dirty already set for a write. -/
def tlbAt (s : State) (c : Context) (site va : Nat) (a : Acc) (isRed : Bool) : Option Leaf :=
  (s.tlb.find? (fun t => t.ctx == c.num && t.site == site && t.vbase == va >>> offBits t.level)).bind fun t =>
    let e := t.entry.toNat
    if permFate e a isRed = none ∧ (a.wr = false ∨ bitsAt e 15 1 = 1) then
      some { level := t.level, at_ := 0, e := e }
    else none

/-- The cached translation that serves an access (R191): the site's own, or that of its bay's second-level TLB. R191 lets
a TLB hold or drop an entry, and an access before a `pginv` use the old or the new one; the model keeps every entry until
`pginv` removes it and uses it whenever it serves (DESIGN CHOICE, notes/assumptions/64.md). -/
def tlbHit (s : State) (c : Context) (site va : Nat) (a : Acc) (isRed : Bool) : Option Leaf :=
  (tlbAt s c site va a isRed).or ((baySite site).bind fun b => tlbAt s c b va a isRed)

/-- Set accessed, and dirty for a write, in a leaf's entry (R188). -/
def leafBits (l : Leaf) (a : Acc) : Nat :=
  let e := putBits l.e 14 1 1
  if a.wr then putBits e 15 1 1 else e

/-- The walker sets bits of an entry in another package by an atomic OR at its home slice (R188, R252). -/
def State.sendBits (s : State) (die pa bits : Nat) : State :=
  if s.elsewhere pa then
    (s.modPeer fun x => { x.drop (pa / 128) with atoms := x.atoms ++ [{ die := die, pa := pa, b64 := true, waiters := [] }] }).sendPeer
      die .atomic (BitVec.ofNat 16 (6 + 16)) pa [{ data := BitVec.ofNat 1024 bits, side := 0 }]
  else s

/-- Write the entry's accessed and dirty bits, and cache the translation at the site and in its bay's second-level TLB
(R188, R191). -/
def State.noteLeaf (s : State) (c : Context) (site va : Nat) (l : Leaf) (a : Acc) : State :=
  let e := leafBits l a
  let s := if e = l.e then s else (s.writeMem l.at_ (toBytes 8 e)).sendBits (siteDie site) l.at_ (e ^^^ l.e)
  let vb := va >>> offBits l.level
  let sites := site :: (baySite site).toList
  { s with tlb := sites.map (fun i => { ctx := c.num, site := i, vbase := vb, level := l.level, entry := BitVec.ofNat 64 e }) ++
      s.tlb.filter (fun t => !(t.ctx == c.num && sites.contains t.site && t.vbase == vb && t.level == l.level)) }

/-! ### Windows -/

/-- A window of the window table (R262). -/
structure Window where
  members : List (Nat × Nat)
  fmt : Nat
  spine : Nat
  base : Nat
  size : Nat
  deriving DecidableEq, Repr

/-- The window table's lines are read through their home slices, which merge their partials first (R206, R262). -/
def State.recordAt (s : State) (pa n : Nat) : List Byte := (s.touchRange pa n).mem.bytes pa n

/-- The entry of a window number, when it is valid (R262). -/
def window? (s : State) (w : Nat) : Option Window :=
  let base := s.plat.winbase.toNat
  if base = 0 then none
  else
    let r := s.recordAt (base + 64 * w) 64
    let count := field r 8 4
    let size := field r 24 8
    let b := field r 16 8
    if field r 13 1 ≠ 1 ∨ count = 0 ∨ 32768 < count ∨ 1 < field r 12 1 ∨ b % 8192 ≠ 0 ∨ size % 8192 ≠ 0 ∨
        2 ^ 33 < size ∨ zeroAt r 32 32 = false then none
    else
      let ms := s.recordAt (field r 0 8) (8 * count)
      some { members := (List.range count).map (fun i => (field ms (8 * i) 4, field ms (8 * i + 4) 2)),
             fmt := field r 12 1, spine := field r 14 2, base := b, size := size }

/-- The lines that name a window's members (R262): the line of its entry, then those of its member list. -/
def windowLines (s : State) (w : Nat) : List Nat :=
  let base := s.plat.winbase.toNat
  let at_ := field (s.recordAt (base + 64 * w) 64) 0 8
  if base = 0 then []
  else lineOf (base + 64 * w) :: ((window? s w).map (fun x =>
    (List.range (lineOf (at_ + 8 * x.members.length - 1) + 1 - lineOf at_)).map (lineOf at_ + ·))).getD []

/-- Whether a line that names a window's members is marked (R336). -/
def windowMarked (s : State) (w : Nat) : Bool := (windowLines s w).any s.mem.marked

/-- A line of the window table is read by a site as any memory is: it waits for a peer's stack that is not ready (R339), and for
a line of another package (R252). -/
def windowHold (s : State) (site w : Nat) : Option MemFault :=
  (windowLines s w).findSome? fun l =>
    if s.stackWaits site (128 * l) then some (.held (stackOf (128 * l)))
    else if s.missing (siteDie site) (128 * l) then some (.fetching l)
    else none

/-- The window of a multicast address, when the offset lies within it (R261, R262). -/
def windowAt? (s : State) (pa : Nat) : Option Window :=
  (window? s (bitsAt pa 33 19)).bind fun w => if bitsAt pa 0 33 < w.size then some w else none

/-- The address on one member of an offset in a window (R262). -/
def Window.member (w : Window) (ep off : Nat) : Nat := ep <<< 37 + w.base + off

/-- The addresses that a write to a physical address reaches (R263): itself, or every member of its window. -/
def targets (s : State) (pa : Nat) : List Nat :=
  if bitsAt pa 53 1 = 1 then
    match windowAt? s pa with
    | some w => w.members.map (fun m => w.member m.1 (bitsAt pa 0 33))
    | none => []
  else [pa]

/-- Whether memory is outside a die's own (R322). -/
def State.farPa (s : State) (die pa : Nat) : Bool :=
  bitsAt pa 52 2 != 0 || bitsAt pa 37 15 != s.plat.fuses.pkg * 8 + die

/-! ### Translation of an access -/

/-- The memory that a page of some bytes maps, as address and length: its own, or in a window that of each member, as far as the
window's offsets go (R262). -/
def mappedAt (s : State) (base len : Nat) : List (Nat × Nat) :=
  if bitsAt base 53 1 = 1 then
    ((window? s (bitsAt base 33 19)).map (fun w => w.members.map (fun m =>
      (w.member m.1 (bitsAt base 0 33), min len (w.size - bitsAt base 0 33))))).getD []
  else [(base, len)]

/-- R328: a page that maps carved memory of this package, by itself or through a window. The window's entry and members are read as
any memory is: the access waits for their lines (R252, R339), and of a marked one nothing is taken (R336). -/
def carvedFate (s : State) (site : Nat) (l : Leaf) : Option MemFault :=
  let base := bitsAt l.e 16 41 <<< 13
  let hits (die : Nat) (r m : Nat × Nat) : Bool :=
    let at_ := (s.plat.fuses.pkg * 8 + die) <<< 37 + r.1
    0 < r.2 && 0 < m.2 && at_ < m.1 + m.2 && m.1 < at_ + r.2
  let regions (c : Carve) : List (Nat × Nat) :=
    [(c.ubufBase, c.ubufSize), (c.saveBase, c.saveSize), (c.spawnBase, c.spawnSize)]
  let hit := s.plat.carves.any (fun c => (regions c).any (fun r => (mappedAt s base (2 ^ offBits l.level)).any (hits c.die r)))
  let win := bitsAt base 33 19
  if bitsAt base 53 1 = 1 then
    (windowHold s site win).or (if hit ∧ windowMarked s win = false then some ⟨.prot, 9⟩ else none)
  else if hit then some ⟨.prot, 9⟩ else none

/-- Translate an access (R183, R187 to R189, R191): the fault, or the address, with the state in which the walk has
set its bits. -/
def State.translate (s : State) (c : Context) (site : Nat) (ea : DWord) (a : Acc) (isRed : Bool := false) :
    State × (MemFault ⊕ Pa) :=
  let va := ea.toNat
  if 2 ^ 53 ≤ va then (s, .inl ⟨.page, 2⟩)
  else match tlbHit s c site va a isRed with
  | some l => match carvedFate s site l with
    | some f => (s, .inl f)
    | none => (s, .inr (l.pa va))
  | none =>
    match walk s c site va with
    | .inl f => (s, .inl f)
    | .inr l =>
      match (permFate l.e a isRed).or (carvedFate s site l) with
      | some f => (s, .inl f)
      | none => (s.noteLeaf c site va l a, .inr (l.pa va))

/-- R254: an address in an absent package. -/
def absentFate (s : State) (p : Pa) : Option MemFault :=
  if p.win ∨ p.host then none
  else if s.plat.present (bitsAt p.pa 40 12) then none
  else some ⟨.fabric, 1⟩

/-! ### Holders of a line, and reaching it -/

/-- R339: a peer access to a stack that is not yet ready is held, through a window at any of its members. -/
def holdFate (s : State) (site : Nat) (p : Pa) : Option MemFault :=
  if p.host then none else ((targets s p.pa).find? (s.stackWaits site)).map (fun a => .held (stackOf a))

/-- The directory entry of a line once an endpoint takes a copy of it (R253): exclusively, or among the sharers; a
fifth sharer switches it to group mode. -/
def DirEntry.take (d : DirEntry) (ep : Nat) (excl : Bool) : DirEntry :=
  if excl then { d with owner := some ep, sharers := [], groups := [] }
  else
    let held := d.sharers ++ d.owner.toList
    if d.groups ≠ [] then { d with groups := (d.groups ++ [ep / 256]).eraseDups }
    else if held.contains ep then d
    else if held.length < 4 then { d with owner := none, sharers := held ++ [ep] }
    else { d with owner := none, sharers := [], groups := ((held ++ [ep]).map (· / 256)).eraseDups }

/-- A die takes a copy of a peer line of this package (R252, R253); a write of its own line takes the line from the dies that
hold it. Host lines have no entry, and lines of another package have theirs there. -/
def State.noteDir (s : State) (site : Nat) (p : Pa) (excl : Bool) : State :=
  let ep := s.plat.fuses.pkg * 8 + siteDie site
  if p.win ∨ p.host ∨ s.elsewhere p.pa then s
  else if p.pa >>> 37 = ep then (if excl then { s with dir := s.dir.filter (·.line != lineOf p.pa) } else s)
  else
    let l := lineOf p.pa
    let d := (s.dir.find? (·.line == l)).getD { line := l, owner := none, sharers := [], groups := [] }
    { s with dir := d.take ep excl :: s.dir.filter (·.line != l) }

/-- The endpoints of other packages, other than `ep`, whose copies stand in the way of a write, or of a read, of a line: its
owner, and for a write its sharers, or in group mode every endpoint of the marked groups (R253); and those that have been
asked and have not answered. -/
def State.copyHolders (s : State) (d : DirEntry) (wr : Bool) (ep : Option Nat) : List Nat :=
  let marked := d.groups.flatMap (fun g => (List.range 256).map (256 * g + ·))
  ((d.owner.toList ++ d.asked ++ (if wr then d.sharers ++ marked else [])).filter (fun e =>
    !(s.isLocal e) && s.plat.present (e / 8) && some e != ep)).eraseDups

/-- The endpoints that hold a line in the way of an access (R252). -/
def State.lineHolders (s : State) (line : Nat) (wr : Bool) (ep : Option Nat) : List Nat :=
  ((s.dir.find? (·.line == line)).map (fun d => s.copyHolders d wr ep)).getD []

/-- An endpoint gives a line up (R253). -/
def DirEntry.gone (d : DirEntry) (ep : Nat) : DirEntry :=
  { d with owner := if d.owner = some ep then none else d.owner, sharers := d.sharers.filter (· != ep) }

/-- Endpoints are sent an invalidation (R253): their copies go, in group mode all that the entry marks, and they are waited for. What
one of them takes from now on is another copy. -/
def DirEntry.ask (d : DirEntry) (eps : List Nat) : DirEntry :=
  { eps.foldl DirEntry.gone d with groups := [], asked := d.asked ++ eps }

/-- An endpoint answers its invalidation. -/
def DirEntry.answered (d : DirEntry) (ep : Nat) : DirEntry := { d with asked := d.asked.filter (· != ep) }

/-- Change the directory entry of a line. -/
def State.modDir (s : State) (line : Nat) (f : DirEntry → DirEntry) : State :=
  { s with dir := s.dir.map (fun d => if d.line = line then f d else d) }

/-- Whether no route leads to a package that an address reaches (R254). -/
def State.noRoute (s : State) (p : Pa) : Bool :=
  !p.host && (if p.win then targets s p.pa else [p.pa]).any (fun a => s.cutOff (bitsAt a 40 12))

/-- The lines that an access reaches whose copies in other packages have first to be returned (R252). -/
def State.heldLines (s : State) (p : Pa) (wr : Bool) : List Nat :=
  ((targets s p.pa).map lineOf).filter (fun l => !(s.lineHolders l wr none).isEmpty)

/-- Why an access that its checks let pass has to wait at a site (R252, R339): a line of the window table, the stack of a peer, a
copy that another package has first to return, or for a read a line that has first to come from another package. -/
def waitFate (s : State) (site : Nat) (p : Pa) (a : Acc) : Option MemFault :=
  ((if p.win then windowHold s site (bitsAt p.pa 33 19) else none).or (holdFate s site p)).or
    (((s.heldLines p a.wr).head?.map (fun l => MemFault.recalled l a.wr)).or
      (if a.wr = false ∧ s.missing (siteDie site) p.pa then some (.fetching (lineOf p.pa)) else none))

/-- Translate for a site, and check that the package is present and a window valid (R254, R262), its entry not marked
(R336), and that nothing stands in the way (R252, R339). A PROT leaves the walk's bits unset (R188). -/
def State.reachPage (s : State) (c : Context) (site : Nat) (ea : DWord) (a : Acc) (isRed : Bool := false) :
    State × (MemFault ⊕ Pa) :=
  match s.translate c site ea a isRed with
  | (s1, .inl f) => (s1.askFor (siteDie site) f, .inl f)
  | (s1, .inr p) =>
    match absentFate s p with
    | some f => (s1, .inl f)
    | none => match waitFate s1 site p a with
      | some f => (s1.askFor (siteDie site) f, .inl f)
      | none =>
        if p.win ∧ windowMarked s (bitsAt p.pa 33 19) then (s1, .inl ⟨.dataerr, 0⟩)
        else if p.win ∧ windowAt? s p.pa = none then (s, .inl ⟨.prot, 8⟩)
        else (s1.noteDir site p a.wr, .inr p)

/-- Reach for an engine, which meets a missing route as a fault too (R254). -/
def State.reachAt (s : State) (c : Context) (site : Nat) (ea : DWord) (a : Acc) (isRed : Bool := false) :
    State × (MemFault ⊕ Pa) :=
  match s.reachPage c site ea a isRed with
  | (s1, .inl f) => (s1, .inl f)
  | (s1, .inr p) => if s.noRoute p then (s1, .inl ⟨.fabric, 4⟩) else (s1, .inr p)

/-- What an access to memory finds only at its line: an uncorrectable error, or no route to it (R254, R309, R336). -/
def State.lineFate (s : State) (p : Pa) : Option MemFault :=
  if s.mem.marked (lineOf p.pa) then some ⟨.dataerr, 0⟩ else if s.noRoute p then some ⟨.fabric, 4⟩ else none

/-! ### Store queues -/

/-- Write the bits of one masked byte. -/
def MaskByte.apply (b : MaskByte) (old : Byte) : Byte := (old &&& ~~~b.mask) ||| (b.val &&& b.mask)

/-- Note what a store has rewritten of marked lines, and clear the marks of lines rewritten whole (R335). -/
def Mem.noteStore (m : Mem) (e : StoreEnt) : Mem :=
  if m.marks = [] then m
  else
    let marks := m.marks.map (fun k =>
      let own := e.sides.filter (fun x => x.1 / 8 == k.line)
      { k with pay := k.pay || e.pay.contains k.line, blks := k.blks ++ own.map (fun x => x.1 % 8),
               need := if own = [] ∨ e.nblk = 0 then k.need else e.nblk })
    { m with marks := marks.filter (fun k =>
        !(e.lines.contains k.line) &&
        !(k.pay && k.need != 0 && (List.range k.need).all k.blks.contains)) }

/-- A store as its targets see it: the lines that it rewrites are those of every member of a window (R263, R335). -/
def StoreEnt.spread (s : State) (e : StoreEnt) : StoreEnt :=
  let reach (l : Nat) : List Nat := (targets s (128 * l)).map lineOf
  { e with lines := e.lines.flatMap reach, pay := e.pay.flatMap reach,
           sides := e.sides.flatMap (fun x => (reach (x.1 / 8)).map (fun l => (l * 8 + x.1 % 8, x.2))) }

/-- Perform one store (R213, R263): bytes, sidecar bytes and marks. -/
def State.performStore (s : State) (e : StoreEnt) : State :=
  let s := e.cells.foldl (fun s b => (targets s b.addr).foldl (fun s pa =>
    let s := s.touch (lineOf pa)
    { s with mem := s.mem.setByte pa (b.apply (s.mem.byte pa)) }) s) s
  let e := e.spread s
  { s with mem := (e.sides.foldl (fun m x => m.setSide x.1 x.2) s.mem).noteStore e }

/-- The line of bytes and the line of their mask that a store writes of one line; of several values for one bit the last, which is that
of the highest position (R197). -/
def StoreEnt.wires (e : StoreEnt) (line : Nat) : WireLine × WireLine :=
  let cells := e.cells.filter (fun c => lineOf c.addr == line)
  let sides := e.sides.filter (fun x => x.1 / 8 == line)
  let at_ (f : MaskByte → Byte → Byte) (j : Nat) : Byte := cells.foldl (fun v c => if c.addr % 128 = j then f c v else v) 0
  let sat (f : Byte → Byte) (j : Nat) : Byte := sides.foldl (fun v x => if x.1 % 8 = j then f x.2 else v) 0
  let wire (f : MaskByte → Byte → Byte) (g : Byte → Byte) : WireLine :=
    { data := BitVec.ofNat 1024 (fromBytes ((List.range 128).map (at_ f))),
      side := BitVec.ofNat 64 (fromBytes ((List.range 8).map (sat g))) }
  (wire MaskByte.apply id, wire (fun c v => v ||| c.mask) (fun _ => 0xFF))

/-- What a store sends to the homes of its lines in other packages (R252, R263). -/
def State.sendStore (s : State) (die : Nat) (o : PeerOwner) (e : StoreEnt) : State :=
  ((e.cells.map (fun (c : MaskByte) => lineOf c.addr) ++ e.sides.map (fun (x : Nat × Byte) => x.1 / 8)).eraseDups).foldl (fun s l =>
    ((targets s (128 * l)).filter s.elsewhere).foldl (fun s pa =>
      s.peerWrite die o maskedFlag pa [(e.wires l).1, (e.wires l).2] e.sc) s) s

/-- Bytes that an engine or the host writes: performed, and sent to the homes of their lines in other packages (R11, R252). -/
def State.engineStore (s : State) (die : Nat) (o : PeerOwner) (cells : List MaskByte) : State :=
  let e : StoreEnt := { ti := 0, cells := cells, sides := [], lines := [], pay := [], nblk := 0 }
  (s.performStore e).sendStore die o e

/-- A thread that is parked for a store goes on once the store is performed, in other packages by its homes (R218). -/
def State.scDone (s : State) (bid ti : Nat) : State :=
  if s.scOpen bid ti then s else s.modThread bid ti (fun t => if t.park = .sc none then t.release else t)

/-- A store leaves the queue of a block's warp (R213): it is performed, and a thread that is parked for it goes on (R218). -/
def State.leaveQueue (b : Block) (s : State) (e : StoreEnt) : State :=
  let s := (s.performStore e).sendStore b.die (.thread b.bid e.ti) e
  if e.sc then s.scDone b.bid e.ti else s

/-- The index of the warp that holds a thread. -/
def Block.warpIx (b : Block) (ti : Nat) : Nat :=
  match b.threads[ti]? with
  | some t => b.warps.findIdx (·.has t)
  | none => b.warps.length

/-- The entries that leave a store queue together, and the rest: the oldest store, with the other parts of its `st.block`
(R198). -/
def drainGroup : List StoreEnt → List StoreEnt × List StoreEnt
  | [] => ([], [])
  | e :: es => if e.more then (e :: (drainGroup es).1, (drainGroup es).2) else ([e], es)

/-- Perform the oldest store of a warp's queue (R213). -/
def State.drain1 (s : State) (bid wi : Nat) : State :=
  match s.block? bid with
  | some b => match b.warps[wi]? with
    | some w =>
      (drainGroup w.stores).1.foldl (State.leaveQueue b)
        (s.modBlock bid fun b => { b with warps := modAt b.warps wi (fun w => { w with stores := (drainGroup w.stores).2 }) })
    | none => s
  | none => s

/-- Perform every store of a warp's queue, oldest first. -/
def State.drainWarp (s : State) (bid wi : Nat) : State :=
  match s.block? bid with
  | some b => match b.warps[wi]? with
    | some w =>
      w.stores.foldl (State.leaveQueue b)
        (s.modBlock bid fun b => { b with warps := modAt b.warps wi (fun w => { w with stores := [] }) })
    | none => s
  | none => s

/-- Perform every buffered store of the warp that holds a thread. -/
def State.drainOf (s : State) (bid ti : Nat) : State :=
  match s.block? bid with
  | some b => s.drainWarp bid (b.warpIx ti)
  | none => s

/-- Perform every buffered store of a block. -/
def State.drainBlock (s : State) (bid : Nat) : State :=
  match s.block? bid with
  | some b => (List.range b.warps.length).foldl (fun s wi => s.drainWarp bid wi) s
  | none => s

/-- Buffer a store in the queue of the thread's warp (R213). -/
def State.buffer (s : State) (bid ti : Nat) (e : StoreEnt) : State :=
  match s.block? bid with
  | some b => s.modBlock bid fun b' =>
      { b' with warps := modAt b'.warps (b.warpIx ti) (fun w => { w with stores := w.stores ++ [e] }) }
  | none => s

/-- The stores that a thread sees before they are performed: its own, oldest first. -/
def Block.ownStores (b : Block) (ti : Nat) : List StoreEnt :=
  ((b.warps[b.warpIx ti]?).map (fun w => w.stores.filter (·.ti == ti))).getD []

/-- Whether a location is one that a `red` of a thread to a window, not yet performed, writes (R266, R269): what the thread does
next there waits for it. -/
def State.behindRed (s : State) (t : Thread) (p : Pa) : Bool :=
  t.reds.any (fun r => (targets s (2 ^ 53 + r.1 * 2 ^ 33 + r.2.1)).any (fun a => (targets s p.pa).any (fun b => lineOf a == lineOf b)))

/-- The same for a `red` to a window: those to the block that it names itself keep their order by their rounds (R264), and it follows the
others (R212). -/
def State.behindOther (s : State) (t : Thread) (p : Pa) : Bool :=
  s.behindRed { t with reds := t.reds.filter (fun r => r.1 != bitsAt p.pa 33 19) } p

/-- Before a thread reads a location (R190, R212, R218): on a page with the sc bit or in host space its stores are performed
first, and so they are where one of them goes to a window, whose members its address does not name, or rewrites the line while
it is marked (R335). -/
def State.beforeRead (s : State) (bid ti : Nat) (p : Pa) : State :=
  let es := ((s.block? bid).map (·.ownStores ti)).getD []
  let marked := s.mem.marked (lineOf p.pa)
  if p.sc || p.host || es.any (fun e => e.cells.any (fun c => bitsAt c.addr 53 1 == 1 || (marked && lineOf c.addr == lineOf p.pa)))
  then s.drainOf bid ti else s

/-- A byte as a thread reads it: memory under its own buffered stores (R213). -/
def ownByte (m : Mem) (es : List StoreEnt) (pa : Nat) : Byte :=
  es.foldl (fun v e => e.cells.foldl (fun v b => if b.addr = pa then b.apply v else v) v) (m.byte pa)

/-- A sidecar byte as a thread reads it. -/
def ownSide (m : Mem) (es : List StoreEnt) (key : Nat) : Byte :=
  es.foldl (fun v e => e.sides.foldl (fun v x => if x.1 = key then x.2 else v) v) (cellGet m.sides key)

/-- The number that a thread reads from `n` bytes. -/
def ownNum (m : Mem) (es : List StoreEnt) (pa n : Nat) : Nat :=
  fromBytes ((List.range n).map (fun i => ownByte m es (pa + i)))

/-- The unused bytes of a line of a block format, which are written 0 (R123): its payload bytes beyond the blocks, and the
keys of its sidecar bytes beyond them. -/
def padCells (fmt line : Nat) : List MaskByte :=
  let used := 128 / (4 * fmtWidth fmt) * (4 * fmtWidth fmt)
  (List.range (128 - used)).map (fun i => { addr := 128 * line + used + i, mask := 0xFF, val := 0 })
def padSides (fmt line : Nat) : List (Nat × Byte) :=
  let n := 128 / (4 * fmtWidth fmt)
  (List.range (8 - n)).map (fun i => (line * 8 + n + i, 0))

/-- Whether the bytes written cover a line. -/
def coversLine (cells : List MaskByte) (line : Nat) : Bool :=
  (List.range 128).all (fun j =>
    (cells.filter (·.addr == 128 * line + j)).foldl (fun m c => m ||| c.mask) (0 : Byte) == 0xFF)

/-- The masked bytes of a plain store. -/
def plainCells (pa : Nat) (bs : List Byte) : List MaskByte :=
  bs.zipIdx.map (fun (v, i) => { addr := pa + i, mask := 0xFF, val := v })

/-! ### Instruction fetch -/

/-- Translate one halfword of instruction fetch, without changing the state (R33). -/
def fetchPa (s : State) (c : Context) (site : Nat) (va : DWord) : MemFault ⊕ Nat :=
  match (s.translate c site va accFetch).2 with
  | .inl f => .inl f
  | .inr p => match ((absentFate s p).or (waitFate s site p accFetch)).or (s.lineFate p) with
    | some f => .inl f
    | none => .inr p.pa

/-- The state after a fetch has translated an address: accessed bits and the translation cache (R188, R191), and a line of
another package that it misses is asked for (R252). -/
def State.noteFetch (s : State) (c : Context) (site : Nat) (va : DWord) : State :=
  match s.translate c site va accFetch with
  | (s1, .inl f) => s1.askFor (siteDie site) f
  | (s1, .inr p) => s1.askLine (siteDie site) (lineOf p.pa)

/-- The `n` halfwords of an instruction at an address, each fetched under the rules of R33: the fault of the first
that cannot be fetched with that halfword's address (DEDUCED, notes/assumptions/47.md), or the word. -/
def fetchHalves (s : State) (c : Context) (site : Nat) (va : DWord) : Nat → (MemFault × DWord) ⊕ Nat
  | 0 => .inr 0
  | n + 1 =>
    match fetchHalves s c site va n with
    | .inl f => .inl f
    | .inr lo =>
      match fetchPa s c site (va + BitVec.ofNat 64 (2 * n)) with
      | .inl f => .inl (f, va + BitVec.ofNat 64 (2 * n))
      | .inr pa => .inr (lo + (s.readMem pa 2) <<< (16 * n))

end Sys2Proof.Machine
end

