-- ==== Sys2Proof/Machine/Counters.lean ====
section
/-! DEFINITION. Timeline and network counters (R219) and their instructions (R220). -/

namespace Sys2Proof.Machine

open Sys2Proof

def Counter.zero : Counter := { i := 0, c := 0, done := [] }

/-- Take the next number (R219). -/
def Counter.take (x : Counter) (n : DWord) : Counter := { x with i := x.i + n }

/-- Let the completed value pass the ranges done that follow it (R219); the first argument bounds the ranges. -/
def Counter.settle : Nat → Counter → Counter
  | 0, x => x
  | n + 1, x =>
    match x.done.find? (fun r => r.1 == x.c + 1) with
    | some r => Counter.settle n { x with c := x.c + r.2, done := dropFirst (· == r) x.done }
    | none => x

/-- `count` numbers from `first` on are done (R219). -/
def Counter.finish (x : Counter) (first count : DWord) : Counter :=
  if count = 0 then x else Counter.settle (x.done.length + 1) { x with done := x.done ++ [(first, count)] }

/-- Take `n` numbers that are done at once (R219, R220). -/
def Counter.advance (x : Counter) (n : DWord) : Counter := (x.take n).finish (x.i + 1) n

/-- The value of a network counter; one never used is zero (R219). -/
def Context.netCtr (c : Context) (die num : Nat) : Counter :=
  ((c.nctrs.find? (fun x => x.die == die && x.num == num)).map (·.ctr)).getD Counter.zero

/-- Change a network counter. -/
def Context.modNet (c : Context) (die num : Nat) (f : Counter → Counter) : Context :=
  { c with nctrs := { die := die, num := num, ctr := f (c.netCtr die num) } ::
      c.nctrs.filter (fun x => !(x.die == die && x.num == num)) }

/-- Change a counter: a block's q counter, or a network counter of a context on a die (R155, R219). -/
def State.modCtr (s : State) (ctx die : Nat) (bid : Option Nat) (r : CtrRef) (f : Counter → Counter) : State :=
  if r.net then s.modCtx ctx (fun c => c.modNet die r.num f)
  else match bid with
  | some b => s.modBlock b (fun b => { b with q := modAt b.q r.num f })
  | none => s

/-- The value of a counter. -/
def State.ctr (s : State) (ctx die : Nat) (bid : Option Nat) (r : CtrRef) : Counter :=
  if r.net then ((s.ctx? ctx).map (·.netCtr die r.num)).getD Counter.zero
  else (((bid.bind s.block?).bind (·.q[r.num]?))).getD Counter.zero

/-- Take one number: the number, and the state in which it is issued. -/
def State.takeNum (s : State) (ctx die : Nat) (bid : Option Nat) (r : CtrRef) : DWord × State :=
  ((s.ctr ctx die bid r).i + 1, s.modCtr ctx die bid r (·.take 1))

/-- A number is done. -/
def State.doneNum (s : State) (ctx die : Nat) (bid : Option Nat) (r : Option CtrRef) (n : DWord) : State :=
  match r with
  | some r => s.modCtr ctx die bid r (·.finish n 1)
  | none => s

/-- The counter that the copy modifier's class and counter fields name (R155). -/
def FormX.ctr (x : FormX) : CtrRef :=
  if x.fld 63 63 = 1 then { net := true, num := x.fld 62 51 } else { net := false, num := x.fld 54 51 }

/-- Whether the counter fields are permitted (R155). -/
def ctrOk (x : FormX) : Bool := x.fld 63 63 == 1 || x.fld 62 55 == 0

/-- A release at a scope: at die scope or wider the thread's bay merges its churn partials (R206, R214). -/
def State.release (s : State) (b : Block) (scope : Nat) : State :=
  if 1 ≤ scope then s.mergeChurn (fun c => c.die == b.die && c.bay == b.bay) else s

/-- A release at a scope, or none. -/
def State.releaseAt (s : State) (b : Block) (scope : Option Nat) : State :=
  match scope with
  | some k => s.release b k
  | none => s

/-- The scope at which a write of a thread releases (R214): its own, and that of the fences before it. -/
def Thread.relScope (t : Thread) (rel : Bool) (scope : Nat) : Option Nat :=
  if rel then some (max scope (t.fenced.getD 0)) else t.fenced

/-- Whether a release at a scope has to wait for the homes of other packages: at package scope and wider (R211, R214, R252). Within one
die what reads the location goes to its home behind the write (R260). -/
def awaitsHomes (scope : Option Nat) : Bool := scope.any (2 ≤ ·)

/-- Whether a release of a thread at such a scope has to wait for the homes of other packages: a write of the thread is not yet
acknowledged, or waits in its queue. -/
def State.ackOpen (s : State) (bid ti : Nat) : Bool :=
  s.peerOpen bid ti || ((s.block? bid).any (fun b => (b.ownStores ti).any (fun e => e.cells.any (fun c =>
    (targets s c.addr).any s.elsewhere))))

/-- What a thread does once its earlier accesses are performed for a scope, after its buffered stores where it has to wait for the
homes of other packages (R214, R252, R266). -/
def State.afterAll (s : State) (bid ti : Nat) (scope : Option Nat) (f : State) : State :=
  s.afterReds bid ti
    (if awaitsHomes scope ∧ s.ackOpen bid ti then (s.drainOf bid ti).waitThread bid ti (.acked [ti]) else f)

/-- Continue with a thread's part of what some threads of a run do together, once none of them waits any more for its `red`s to
windows (`reds`) or for the acknowledgements of its writes (`acks`): until then they all wait, so that none of them goes before
another (DEDUCED, notes/assumptions/66.md). -/
def State.together (s : State) (i : Iss) (reds acks : List Nat) (ti : Nat) (f : State) : State :=
  match reds, acks with
  | [], [] => f
  | [], ws => (ws.foldl (State.drainOf · i.blk.bid) s).waitThread i.blk.bid ti (.acked ws)
  | ws, _ => s.waitThread i.blk.bid ti (if ws = [ti] then .redsDone else .after ws)

/-- Of some threads those whose writes release, at the scopes that `rel` gives, and have to wait for `red`s to windows, and those
that have to wait for acknowledgements (R214, R252). -/
def relReds (i : Iss) (us : List Thread) (rel : Thread → Option Nat) : List Nat :=
  (us.filter (fun u => (rel u).isSome && u.reds != [])).map i.blk.tindex
def State.relAcks (s : State) (i : Iss) (us : List Thread) (rel : Thread → Option Nat) : List Nat :=
  (us.filter (fun u => awaitsHomes (rel u) && s.ackOpen i.blk.bid (i.blk.tindex u))).map i.blk.tindex

/-- A thread's write to a tile: after a fence that releases, its earlier accesses are performed for the fence's scope first (R214).
`us` are the threads that write with it, in state `s0`. -/
def State.afterFence (s s0 : State) (i : Iss) (us : List Thread) (ti : Nat) (f : State → State) : State :=
  s.together i (relReds i us (·.fenced)) (s0.relAcks i us (·.fenced)) ti
    (f (match (s.thread? i.blk.bid ti).bind (·.fenced) with
      | none => s
      | some k => (s.drainOf i.blk.bid ti).release i.blk k))

/-! ### Instructions -/

def qwaitSig (x : FormX) : Sig :=
  x.sig (ctrOk x && x.fld 50 50 == 0 && x.fld 47 46 == 0)
    [noneAt x.d.toNat, noneAt x.a.toNat, src x.b.toNat 2, noneAt x.c.toNat]

/-- `qwait` (R220): park until the completed value reaches the target. -/
def opQwait (x : FormX) (s : State) : State :=
  s.runFold (qwaitSig x) fun i ti s =>
    match s.thread? i.blk.bid ti with
    | none => s
    | some t =>
      let k := (t.rd i.warp.w).pair x.b.toNat
      let c := (s.ctr i.ctx.num i.blk.die (some i.blk.bid) (FormX.ctr x)).c
      if k.toNat ≤ c.toNat then s.pass (qwaitSig x) i.blk.bid ti
      else s.waitThread i.blk.bid ti (.counter (FormX.ctr x) k)

def qreadSig (x : FormX) : Sig :=
  { x.sig (ctrOk x && x.fld 50 47 == 0)
      [noneAt x.a.toNat, noneAt x.b.toNat, noneAt x.c.toNat, dst x.d.toNat 2] with vclass := true }

/-- `qread` (R220). -/
def opQread (x : FormX) (s : State) : State :=
  s.runAlu (qreadSig x) fun i _ _ =>
    let c := s.ctr i.ctx.num i.blk.die (some i.blk.bid) (FormX.ctr x)
    wrPair x.d.toNat (if x.fld 46 46 = 1 then c.i else c.c)

def qadvSig (x : FormX) : Sig :=
  x.sig (ctrOk x && x.fld 50 50 == 0 && x.fld 47 47 == 0)
    [noneAt x.d.toNat, noneAt x.a.toNat, src x.b.toNat, noneAt x.c.toNat]

/-- `qadv` (R220): the numbers are done at once; as a release, or after a fence that releases (R214), once the thread's earlier
accesses are performed. -/
def opQadv (x : FormX) (s : State) : State :=
  s.runFold (qadvSig x) fun i ti s =>
    match s.thread? i.blk.bid ti with
    | none => s
    | some t =>
      let n := ((t.rd i.warp.w).r x.b.toNat).setWidth 64
      let go (s : State) : State :=
        (s.modCtr i.ctx.num i.blk.die (some i.blk.bid) (FormX.ctr x) (·.advance n)).pass (qadvSig x) i.blk.bid ti
      match t.relScope (x.fld 46 46 == 1) (x.fld 49 48) with
      | some k => s.afterAll i.blk.bid ti (some k) (go ((s.drainOf i.blk.bid ti).release i.blk k))
      | none => go s

end Sys2Proof.Machine
end

