-- ==== Sys2Proof/Machine/Reduce.lean ====
section
/-! DEFINITION. Reducing writes (R264 to R269): narrowing a block, contributions to windows, and the arithmetic of
the hops. -/

namespace Sys2Proof.Machine

open Sys2Proof

/-- The block format of every value on the wire (R265). -/
def wireFmt : Nat := 0x10

/-- Narrow 32 values to an MXFP8-E4M3 block (R265, R268): the scale byte and the codes. `mode` gives the rounding
of each element, `sat` says whether an overflow saturates. -/
def narrow (mode : Nat → RMode) (sat : Bool) (vs : List Val) : Byte × List Byte :=
  let sc := scaleRule (amaxOf vs) wireFmt 0
  (BitVec.ofNat 8 sc, vs.zipIdx.map (fun (v, i) => BitVec.ofNat 8 (quantise wireFmt sc (mode i) sat v)))

/-- The values of a wire block. -/
def wireVals (scale : Byte) (codes : List Byte) : List Val :=
  codes.map (fun c => blockVal wireFmt scale.toNat c.toNat)

/-- One FP32 addition per element, the first list first (R265, R266). -/
def addVals (xs ys : List Val) : List Val := (xs.zip ys).map (fun (x, y) => f32 (rne32 (x.add y)))

/-- A hop over the inputs of one block, sorted by source number (R265): one input is forwarded unchanged. -/
def hopBlock : List (Byte × List Byte) → Byte × List Byte
  | [] => (0, [])
  | [x] => x
  | x :: xs =>
    let first := (wireVals x.1 x.2).map (fun v => f32 (rne32 v))
    narrow (fun _ => .rne) true (xs.foldl (fun y z => addVals y (wireVals z.1 z.2)) first)

/-- The final hop on a target (R266): FP32 words, or an MXFP8-E4M3 block with its sidecar byte; the sidecar bytes of the line
beyond its blocks are 0 (R123). -/
def State.finalApply (s : State) (pa : Nat) (fp32? : Bool) (scale : Byte) (codes : List Byte) : State :=
  let incoming := wireVals scale codes
  if fp32? then
    let s := s.touchRange pa 128
    let old := (List.range 32).map (fun e => decodeFp fp32 (s.mem.num (pa + 4 * e) 4))
    let new := (old.zip incoming).map (fun (x, y) => rne32 (x.add y))
    s.writeMem pa (new.flatMap (fun w => toBytes 4 w.toNat))
  else
    let s := s.touchRange pa 32
    let key := lineOf pa * 8 + pa % 128 / 32
    let sc := (cellGet s.mem.sides key).toNat
    let old := (s.mem.bytes pa 32).map (fun c => blockVal wireFmt sc c.toNat)
    let r := narrow (fun _ => .rne) true (addVals old incoming)
    let m := (s.mem.setBytes pa r.2).setSide key r.1
    let m := (padCells wireFmt (lineOf pa)).foldl (fun m c => m.setByte c.addr c.val) m
    { s with mem := (padSides wireFmt (lineOf pa)).foldl (fun m x => m.setSide x.1 x.2) m }

/-- The round of an endpoint's next contribution to a block of a window (R264). -/
def Fabric.roundOf (f : Fabric) (win off ep : Nat) : Nat :=
  ((f.rounds.find? (fun r => r.win == win && r.off == off && r.ep == ep)).map (·.n)).getD 0

/-- The line of a reducing write's packet (notes/assumptions/13.md): the block, its scale, and the once-tag, if any. -/
def redWire (codes : List Byte) (scale : Byte) (once : Option DWord) : WireLine :=
  { data := BitVec.ofNat 1024 (fromBytes codes + (once.getD 0).toNat * 2 ^ 256), side := scale.setWidth 64 }

/-- Whether a window has members in other packages. -/
def State.spans (s : State) (win : Nat) : Bool := (window? s win).any (fun w => w.members.any (fun m => !(s.isLocal m.1)))

/-- Make one contribution to a window's block (R264). That of an endpoint of this package to a window with members in others
leaves toward its leaf by a port as well (R11, R259); the leaf itself is the model's (notes/assumptions/13.md). -/
def State.contribute (s : State) (c : Contrib) : State :=
  let s := s.modFab fun f =>
    let k := f.roundOf c.win c.off c.ep
    { f with
      contribs := f.contribs ++ [{ c with round := k }],
      rounds := { win := c.win, off := c.off, ep := c.ep, n := k + 1 } ::
        f.rounds.filter (fun r => !(r.win == c.win && r.off == c.off && r.ep == c.ep)) }
  if s.isLocal c.ep ∧ s.spans c.win then
    s.sendPacket (mkPacket .reducingWrite 0 c.ep (2 ^ 31 + c.win) 0 (BitVec.ofNat 64 c.off) [redWire c.codes c.scale none])
  else s

end Sys2Proof.Machine
end

