-- ==== Sys2Proof/Machine/MemInstr.lean ====
section
/-! DEFINITION. Loads, stores, atomics, waits on memory, fences and cache maintenance (R192 to R222, R269). -/

namespace Sys2Proof.Machine

open Sys2Proof

/-- The effective address (R183). -/
def effAddr (r : Rd) (a b : Nat) (off : Int) : DWord := r.pair a + (r.r b).signExtend 64 + BitVec.ofInt 64 off

/-- The fault of a thread's access, at its effective address; a held access waits at the instruction. -/
def State.memFault (s : State) (i : Iss) (ti : Nat) (f : MemFault) (ea : DWord) : State :=
  if f.isHold then s.waitThread i.blk.bid ti f.cond else s.faultThread i ti f.code f.sub ea

/-- Translate, and check that the package is present and a window valid (R254, R262). What the line itself holds, or that
no route leads to it, a thread learns when the access is performed (R309). -/
def State.reach (s : State) (i : Iss) (ea : DWord) (a : Acc) (isRed : Bool := false) :
    State × (MemFault ⊕ Pa) :=
  s.reachPage i.ctx i.blk.site ea a isRed

/-- A late failure of a V-class access at a thread's instruction (R309, R336). -/
def lateTrap (t : Thread) (ea : DWord) (spec : Nat) (f : MemFault) : Trap :=
  { code := f.code, sub := f.sub, addr := ea, info := BitVec.ofNat 32 spec, late := true, tpc := t.pc, epc := t.pc }

/-- The late failure of an access that returns nothing is a report (R309); an answer resolves it and does no more
(DEDUCED, notes/assumptions/65.md). -/
def State.lateReport (s : State) (i : Iss) (f : MemFault) (ea : DWord) : State :=
  s.report i.ctx.num { Report.plain 1 f.code f.sub i.blk.die ea .access with
    token := i.blk.token, node := s.nodeOf i.blk.lid }

/-- Whether a store keeps its thread parked until it is performed (R218): on an SC page, where a route leads there. -/
def State.parksFor (s : State) (p : Pa) : Bool := p.sc && !s.noRoute p

/-- Give a store its way (R213, R254): without a route it fails late, else it waits in the warp's queue. -/
def State.storeOff (s : State) (i : Iss) (ti : Nat) (p : Pa) (ea : DWord) (e : StoreEnt) : State :=
  if s.noRoute p then s.lateReport i ⟨.fabric, 4⟩ ea else s.buffer i.blk.bid ti { e with sc := p.sc }

/-- Give a store its way, and the thread: it goes on, or on an SC page is parked until the store is performed (R218). -/
def State.storeGo (s : State) (x : Sig) (i : Iss) (ti : Nat) (p : Pa) (ea : DWord) (e : StoreEnt) : State :=
  if s.parksFor p then (s.storeOff i ti p ea e).modThread i.blk.bid ti (·.parkPast x.sw x.len (.sc none))
  else (s.storeOff i ti p ea e).pass x i.blk.bid ti

/-- A V-class memory result (R50, R218, R309): it is outstanding, and on an SC page the thread is parked until it is written,
also where it writes nothing. A marked line makes the result a late failure. `far`: the memory is not the die's own. -/
def Thread.memResult (t : Thread) (x : Sig) (far sc : Bool) (xs : List RegWrite) (late : Option Trap) : Thread :=
  if sc then (t.keepResult (.load far) (xs.map RegWrite.dest) xs late).parkPast x.sw x.len (.sc (some t.nextRid))
  else (t.addResult (.load far) (xs.map RegWrite.dest) xs late).advance x.sw x.len

/-! ### The order of an access among those of its thread and its run -/

/-- The participants whose checks pass, in ascending position, with the address that each reaches. -/
def State.mates (s : State) (x : Sig) (i : Iss) (f : State → Thread → State × DWord × (MemFault ⊕ Pa)) : List (Thread × Pa) :=
  (parts x s.tick i).filterMap fun u => match (f (s.settleRun x i) u).2.2 with
    | .inl _ => none
    | .inr p => some (u, p)

/-- Continue with a thread's access in its order, which state `s0` at the issue decides. It follows the `red`s of its thread to
windows at its location, and as a release all of them (R212, R214, R266); as a release at domain scope it follows the
acknowledgements of the thread's writes (R252). What the participants do at one line stands together (R197, R200, R204), so that
while one of them has to wait they all do (DEDUCED, notes/assumptions/66.md). -/
def State.inOrder (s s0 : State) (i : Iss) (us : List (Thread × Pa)) (behind : Thread → Pa → Bool) (rel : Thread → Option Nat)
    (ti : Nat) (p : Pa) (f : State) : State :=
  let group := us.filter (fun u => lineOf u.2.pa == lineOf p.pa)
  s.together i ((group.filter (fun u => behind u.1 u.2 || (rel u.1).isSome && u.1.reds != [])).map (fun u => i.blk.tindex u.1))
    (s0.relAcks i (group.map (·.1)) rel) ti f

/-! ### Shares of tagged pages -/

/-- The format of a page's tag (R186). -/
def tagFmt (tag : Nat) : Nat := 0x0F + tag
/-- Bytes of a share (R195) and of a block (R123), and blocks per line. -/
def shareBytes (fmt : Nat) : Nat := fmtWidth fmt
def blockBytes (fmt : Nat) : Nat := 4 * fmtWidth fmt
def blocksPerLine (fmt : Nat) : Nat := 128 / blockBytes fmt

/-- The alignment of a share (R195). -/
def shareAligned (fmt : Nat) (ea : Nat) : Bool :=
  if fmtWidth fmt = 6 then ea % 128 < 120 && ea % 128 % 6 == 0 else ea % shareBytes fmt == 0

/-- The sidecar key of the block that holds an address (R123). -/
def sideKey (fmt pa : Nat) : Nat := lineOf pa * 8 + pa % 128 / blockBytes fmt

/-! ### Loads and stores -/

/-- A load or store in either encoding (R194, R199). -/
structure MemOp where
  kind : Nat
  d : Nat
  a : Nat
  b : Nat
  c : Nat
  off : Int
  sx : Bool
  byte : Nat
  rel : Bool
  scope : Nat
  sig : Sig

/-- The offset unit of a kind (R195). -/
def kindUnit (k : Nat) : Nat := if k ≤ 4 then 2 ^ k else 2

/-- Registers of the d group of a kind, as decode judges it (R195). -/
def kindRegs (k : Nat) : Nat :=
  match k with
  | 3 => 2
  | 4 => 4
  | 5 => 8
  | 6 => 4
  | _ => 1

/-- The reserved-field conditions shared by `ld` and `st` (R194). -/
def ordOk (x : FormX) : Bool :=
  x.fld 51 50 ≤ 1 && (x.fld 51 50 == 1 || x.fld 49 48 == 0) && (x.fld 55 53 == 7 || x.fld 47 46 ≤ 2)

def kAt (k : Nat) (s : Nat) (wr : Bool) : Opd :=
  if k = 7 then { spec := s, v := false, w := false, k := true, z := false, rd := !wr, wr := wr } else noneAt s

def ldSig (x : FormX) : Sig :=
  let k := x.fld 55 53
  { x.sig (ordOk x && (k ≤ 1 || x.fld 52 52 == 0))
      [src x.a.toNat 2, src x.b.toNat, kAt k x.c.toNat true, dst x.d.toNat (kindRegs k)] with vclass := true }

def stSig (x : FormX) : Sig :=
  let k := x.fld 55 53
  x.sig (ordOk x && x.fld 52 52 == 0 && k != 5 && k != 6)
    [src x.a.toNat 2, src x.b.toNat, kAt k x.c.toNat false, src x.d.toNat (kindRegs k)]

/-- The operation of an X64 `ld` or `st`. -/
def memOpX (x : FormX) (sig : Sig) : MemOp :=
  let k := x.fld 55 53
  { kind := k, d := x.d.toNat, a := x.a.toNat, b := x.b.toNat, c := x.c.toNat,
    off := sext 8 (x.fld 63 56) * kindUnit k, sx := x.fld 52 52 == 1, byte := x.fld 47 46,
    rel := x.fld 51 50 == 1, scope := x.fld 49 48, sig := sig }

/-- The operation of a W32 load or store (R199). -/
def memOpW (x : Gen) : MemOp :=
  let k := if x.major % 2 = 0 then 2 else 4
  { kind := k, d := x.d, a := x.a, b := 0xFF, c := 0xFF, off := x.simm * kindUnit k, sx := false, byte := 0,
    rel := false, scope := 0, sig := x.theSig }

/-- The checks of step 5 of R192 for kinds 5 to 7, with the register group of kind 7 (R195). -/
def shareFate (o : MemOp) (p : Pa) (ea : Nat) : Option MemFault :=
  if o.kind < 5 then none
  else if p.tag = 0 then some ⟨.format, 6⟩
  else if !shareAligned (tagFmt p.tag) ea then some ⟨.misalign, 2⟩
  else if o.kind < 7 ∨ fmtWidth (tagFmt p.tag) = 4 ∨ o.d = 0xFF then none
  else if o.d % 2 = 1 then some ⟨.misalign, 1⟩
  else none

/-- The registers of the d group once the page's tag is known (R195). -/
def MemOp.regs (o : MemOp) (p : Pa) : Nat := if o.kind = 7 then blockRegs (tagFmt p.tag) else kindRegs o.kind

/-- All access checks of a load or store (R192): the effective address, and the fault or the
address. -/
def State.access (s : State) (i : Iss) (t : Thread) (o : MemOp) (acc : Acc) : State × DWord × (MemFault ⊕ Pa) :=
  let ea := effAddr (t.rd i.warp.w) o.a o.b o.off
  if o.kind ≤ 4 ∧ ea.toNat % 2 ^ o.kind ≠ 0 then (s, ea, .inl ⟨.misalign, 2⟩)
  else match s.reach i ea acc with
  | (s1, .inl f) => (s1, ea, .inl f)
  | (s1, .inr p) =>
    match shareFate o p ea.toNat with
    | some f => (s1, ea, .inl f)
    | none => (s1, ea, .inr p)

/-- The codes of the share at an address, as a thread reads it (R196). -/
def shareCodes (m : Mem) (es : List StoreEnt) (fmt pa : Nat) : List Nat :=
  let n := ownNum m es pa (shareBytes fmt)
  (List.range 8).map (fun j => bitsAt n (fmtWidth fmt * j) (fmtWidth fmt))

/-- The register writes of a load (R196). -/
def loadWrites (o : MemOp) (m : Mem) (es : List StoreEnt) (p : Pa) : List RegWrite :=
  let fmt := tagFmt p.tag
  let sc := (ownSide m es (sideKey fmt p.pa)).toNat
  if o.kind ≤ 1 then
    let n := ownNum m es p.pa (2 ^ o.kind)
    wr o.d (if o.sx then word (sext (8 * 2 ^ o.kind) n) else BitVec.ofNat 32 n)
  else if o.kind ≤ 4 then wrs o.d (toWords (2 ^ o.kind / 4) (ownNum m es p.pa (2 ^ o.kind)))
  else if o.kind ≤ 6 then
    wrs o.d (octetOut (o.kind == 6) ((shareCodes m es fmt p.pa).map (blockVal fmt sc)))
  else
    wrs o.d (packCodes (fmtWidth fmt) (blockRegs fmt) (shareCodes m es fmt p.pa)) ++ wrKByte (o.c - 0xC0) o.byte sc

/-- One thread's load. -/
def loadThread (o : MemOp) (i : Iss) (ti : Nat) (s : State) : State :=
  match s.thread? i.blk.bid ti with
  | none => s
  | some t =>
    match s.access i t o accLoad with
    | (s1, ea, .inl f) => s1.memFault i ti f ea
    | (s1, ea, .inr p) =>
      s1.withGroup i ti o.d (o.regs p) true <|
      s1.inOrder s1 i [(t, p)] s1.behindRed (fun _ => none) ti p <|
      let s2 := (s1.beforeRead i.blk.bid ti p).touch (lineOf p.pa)
      let es := ((s2.block? i.blk.bid).map (·.ownStores ti)).getD []
      let late := (s2.lineFate p).map (lateTrap t ea o.d)
      s2.modThread i.blk.bid ti fun t =>
        t.memResult o.sig (s2.farPa i.blk.die p.pa) p.sc (loadWrites o s2.mem es p) late

/-- A load (R196, R199). -/
def opLoad (o : MemOp) (s : State) : State := s.runFold o.sig (loadThread o)

/-- The bytes that a plain store writes (R197). -/
def storeBytes (o : MemOp) (r : Rd) : List Byte :=
  if o.kind ≤ 1 then toBytes (2 ^ o.kind) (r.r o.d).toNat
  else toBytes (2 ^ o.kind) (fromWords (r.regs o.d (2 ^ o.kind / 4)))

/-- The release that a store is (R197, R214). -/
def MemOp.relOf (o : MemOp) (t : Thread) : Option Nat := t.relScope o.rel o.scope

/-- The lines whose whole payload the run's `st.b32` rewrites (R335), given to the store of its last thread. -/
def fullLines (o : MemOp) (us : List (Thread × Pa)) (t : Thread) : List Nat :=
  if o.kind ≠ 2 then []
  else if us.all (fun u => u.1.slot ≤ t.slot) then
    ((us.map (fun u => lineOf u.2.pa)).eraseDups).filter (fun l =>
      (List.range 32).all (fun k => us.any (fun u => u.2.pa == 128 * l + 4 * k)))
  else []

/-- One thread's plain store (R197): buffered; on an SC page the thread is parked for it (R218). -/
def storeThread (o : MemOp) (us : List (Thread × Pa)) (s0 : State) (i : Iss) (ti : Nat) (s : State) : State :=
  match s.thread? i.blk.bid ti with
  | none => s
  | some t =>
    match s.access i t o accStore with
    | (s1, ea, .inl f) => s1.memFault i ti f ea
    | (s1, ea, .inr p) =>
      s1.inOrder s0 i us s0.behindRed o.relOf ti p <|
      let e : StoreEnt := { ti := ti, cells := plainCells p.pa (storeBytes o (t.rd i.warp.w)), sides := [],
                            lines := [], pay := fullLines o us t, nblk := 0 }
      (s1.releaseAt i.blk (o.relOf t)).storeGo o.sig i ti p ea e

/-- The threads of a `st.block` that pass its checks, in ascending position, with the address that each reaches (R197). -/
def blockWriters (i : Iss) (o : MemOp) (us : List (Thread × Pa)) : List (Thread × Pa) :=
  us.filter (fun u => groupFate i.blk u.1 o.d (o.regs u.2) false == .go)

/-- All that one `st.block` writes in the block of an address, whichever of its threads writes it (R197, R198): the
sidecar byte from the lowest, then the shares in ascending position, and the bytes of the line beyond its blocks (R123). -/
def blockEntry (i : Iss) (o : MemOp) (ws : List (Thread × Pa)) (ti : Nat) (p : Pa) (more : Bool) : StoreEnt :=
  let fmt := tagFmt p.tag
  let key := sideKey fmt p.pa
  let mine := ws.filter (fun u => sideKey (tagFmt u.2.tag) u.2.pa == key)
  let share (u : Thread × Pa) : List MaskByte :=
    plainCells u.2.pa (toBytes (shareBytes fmt) (fromWords ((u.1.rd i.warp.w).regs o.d (blockRegs fmt))))
  { ti := ti, cells := mine.flatMap share ++ padCells fmt (lineOf p.pa),
    sides := (mine.head?.map (fun u => (key, BitVec.ofNat 8 (byteOf ((u.1.rd i.warp.w).r o.c) o.byte)))).toList ++
      padSides fmt (lineOf p.pa),
    lines := [], pay := [], nblk := blocksPerLine fmt, more := more }

/-- One thread's part of `st.block` (R197): buffered with the other threads' parts, so that what the instruction writes of
a block is never seen in part (R198). -/
def storeBlockThread (o : MemOp) (ws : List (Thread × Pa)) (s0 : State) (i : Iss) (ti : Nat) (s : State) : State :=
  match s.thread? i.blk.bid ti with
  | none => s
  | some t =>
    match s.access i t o accStore with
    | (s1, ea, .inl f) => s1.memFault i ti f ea
    | (s1, ea, .inr p) =>
      s1.withGroup i ti o.d (o.regs p) false <|
      s1.inOrder s0 i ws s0.behindRed o.relOf ti p <|
      let e := blockEntry i o ws ti p (ws.any (fun u => t.slot < u.1.slot))
      (s1.releaseAt i.blk (o.relOf t)).storeGo o.sig i ti p ea e

/-- A store (R197, R199). -/
def opStore (o : MemOp) (s : State) : State :=
  s.withIss fun i0 =>
    let us := s.mates o.sig i0 (fun s u => s.access i0 u o accStore)
    s.runFold o.sig (if o.kind = 7 then storeBlockThread o (blockWriters i0 o us) s else storeThread o us s)

def genLd32 (x : Gen) (s : State) : State := opLoad (memOpW x) s
def genSt32 (x : Gen) (s : State) : State := opStore (memOpW x) s
def opLd (x : FormX) (s : State) : State := opLoad (memOpX x (ldSig x)) s
def opSt (x : FormX) (s : State) : State := opStore (memOpX x (stSig x)) s

/-! ### pst and pld -/

def pOk (x : FormX) : Bool := x.fld 55 52 == 0 && ordOk x

def pstSig (x : FormX) : Sig :=
  { x.sig (pOk x) [src x.a.toNat 2, src x.b.toNat, noneAt x.c.toNat] with
    specOk := x.d.toNat < 8, predR := [x.d.toNat] }

def pldSig (x : FormX) : Sig :=
  { x.sig (pOk x) [src x.a.toNat 2, src x.b.toNat, noneAt x.c.toNat] with
    specOk := x.d.toNat < 8, predW := [x.d.toNat].filter (· != 7), vclass := true }

/-- The effective address of `pst` and `pld` (R183, R200). -/
def pEa (x : FormX) (r : Rd) : DWord := r.pair x.a.toNat + BitVec.ofInt 64 (sext 8 (x.fld 63 56))

/-- The byte and bit that a predicate access names (R200). -/
def pAddr (x : FormX) (r : Rd) : DWord × Nat :=
  let i := (r.r x.b.toNat).toNat
  (pEa x r + BitVec.ofNat 64 (i / 8), i % 8)

/-- Reach the byte of a predicate access: the effective address must be a virtual address itself (R183), and so must the
byte's. The address of the fault, and the fault or the address. -/
def State.pReach (s : State) (i : Iss) (x : FormX) (r : Rd) (acc : Acc) : State × DWord × (MemFault ⊕ Pa) :=
  if 2 ^ 53 ≤ (pEa x r).toNat then (s, pEa x r, .inl ⟨.page, 2⟩)
  else ((s.reach i (pAddr x r).1 acc).1, (pAddr x r).1, (s.reach i (pAddr x r).1 acc).2)

/-- `pst` (R200): only its bit changes. -/
def opPst (x : FormX) (s0 : State) : State :=
  s0.runFold (pstSig x) fun i ti s =>
    match s.thread? i.blk.bid ti with
    | none => s
    | some t =>
      match s.pReach i x (t.rd i.warp.w) accPst with
      | (s1, ea, .inl f) => s1.memFault i ti f ea
      | (s1, ea, .inr p) =>
        let us := s0.mates (pstSig x) i (fun s u => s.pReach i x (u.rd i.warp.w) accPst)
        let rel (u : Thread) : Option Nat := u.relScope (x.fld 51 50 == 1) (x.fld 49 48)
        s1.inOrder s0 i us s0.behindRed rel ti p <|
        let m : Byte := BitVec.ofNat 8 (2 ^ (pAddr x (t.rd i.warp.w)).2)
        let e : StoreEnt := { ti := ti, cells := [{ addr := p.pa, mask := m, val := if readPred t x.d.toNat then m else 0 }],
                              sides := [], lines := [], pay := [], nblk := 0 }
        (s1.releaseAt i.blk (rel t)).storeGo (pstSig x) i ti p ea e

/-- `pld` (R200). -/
def opPld (x : FormX) (s : State) : State :=
  s.runFold (pldSig x) fun i ti s =>
    match s.thread? i.blk.bid ti with
    | none => s
    | some t =>
      match s.pReach i x (t.rd i.warp.w) accLoad with
      | (s1, ea, .inl f) => s1.memFault i ti f ea
      | (s1, ea, .inr p) =>
        s1.inOrder s1 i [(t, p)] s1.behindRed (fun _ => none) ti p <|
        let s2 := (s1.beforeRead i.blk.bid ti p).touch (lineOf p.pa)
        let es := ((s2.block? i.blk.bid).map (·.ownStores ti)).getD []
        let late := (s2.lineFate p).map (lateTrap t ea x.d.toNat)
        let xs := wrPred x.d.toNat ((ownByte s2.mem es p.pa).toNat.testBit (pAddr x (t.rd i.warp.w)).2)
        s2.modThread i.blk.bid ti fun t => t.memResult (pldSig x) (s2.farPa i.blk.die p.pa) p.sc xs late

/-! ### Atomics -/

/-- The reserved-field conditions of R208 shared by the memory atomics. -/
def atomOk (x : FormX) : Bool :=
  let op := x.fld 56 53
  op ≤ 11 && x.fld 47 46 != 3 && !(x.fld 48 48 == 1 && 9 ≤ op)

def atomRegs (x : FormX) : Nat := if x.fld 48 48 = 1 then 2 else 1

def atomSig (x : FormX) : Sig :=
  let n := atomRegs x
  { x.sig (atomOk x && x.fld 47 46 != 2)
      [src x.a.toNat 2, src x.b.toNat n, noneAt x.c.toNat, dst x.d.toNat n] with vclass := true }

def atomcasSig (x : FormX) : Sig :=
  let n := atomRegs x
  { x.sig (atomOk x && x.fld 47 46 != 2 && x.fld 56 53 == 0)
      [src x.a.toNat 2, src x.b.toNat n, src x.c.toNat n, dst x.d.toNat n] with vclass := true }

def redSig (x : FormX) : Sig :=
  x.sig (atomOk x && x.fld 52 51 != 1 && x.fld 52 51 != 3 &&
      !(x.fld 47 46 == 2 && (x.fld 56 53 == 8 || x.fld 52 51 != 0)))
    [noneAt x.d.toNat, src x.a.toNat 2, src x.b.toNat (atomRegs x), noneAt x.c.toNat]

/-- The effective address of an atomic (R201). -/
def atomEa (x : FormX) (r : Rd) : DWord := effAddr r x.a.toNat 0xFF (sext 7 (x.fld 63 57) * widthOf (x.fld 48 48 == 1))

/-- A value operand at the atomic's width. -/
def atomArg (x : FormX) (r : Rd) (s : Nat) : DWord :=
  if x.fld 48 48 = 1 then r.pair s else (r.r s).setWidth 64

/-- The access checks of an atomic (R192, R208). -/
def State.atomAccess (s : State) (i : Iss) (x : FormX) (t : Thread) (acc : Acc) (isRed : Bool) :
    State × DWord × (MemFault ⊕ Pa) :=
  let ea := atomEa x (t.rd i.warp.w)
  if ea.toNat % widthOf (x.fld 48 48 == 1) ≠ 0 then (s, ea, .inl ⟨.misalign, 2⟩)
  else match s.reach i ea acc isRed with
  | (s1, .inl f) => (s1, ea, .inl f)
  | (s1, .inr p) => if p.tag ≠ 0 then (s1, ea, .inl ⟨.format, 5⟩) else (s1, ea, .inr p)

/-- The release that an atomic is (R201, R214). -/
def atomRel (x : FormX) (t : Thread) : Option Nat := t.relScope (2 ≤ x.fld 52 51) (x.fld 50 49)

/-- Whether an atomic is an acquire (R201, R214). -/
def atomAcq (x : FormX) : Bool := x.fld 52 51 % 2 == 1

/-- Whether an atomic goes to a home in another package that a route leads to (R254). -/
def State.goesFar (s : State) (p : Pa) : Bool := s.elsewhere p.pa && !(s.noRoute p)

/-- A participant of a far atomic as its answer finds it: what has a result names it and the trap of a marked line. -/
def farWaiter (x : FormX) (i : Iss) (ret sc : Bool) (u : Thread × Nat) : PeerWaiter :=
  { ix := u.2, bid := i.blk.bid, ti := i.blk.tindex u.1, rid := if ret || sc then some u.1.nextRid else none, ret := ret, d := x.d.toNat,
    late := lateTrap u.1 (atomEa x (u.1.rd i.warp.w)) x.d.toNat ⟨.dataerr, 0⟩ }

/-- The far atomics of a run on one location of another package (R204, R252, R254): one packet with the operands of its participants
in ascending position, a line for each, sent with the first of them. -/
def State.sendAtom (s : State) (x : FormX) (cas ret : Bool) (i : Iss) (us : List (Thread × Pa)) (t : Thread) (p : Pa) : State :=
  let group := (us.filter (fun u => u.2.pa == p.pa)).map (·.1)
  let arg (u : Thread) (n : Nat) : Nat := (atomArg x (u.rd i.warp.w) n).toNat
  if group.any (fun u => u.slot < t.slot) then s
  else
    (s.modPeer fun y => { y.drop (lineOf p.pa) with atoms := y.atoms ++
      [{ die := i.blk.die, pa := p.pa, b64 := x.fld 48 48 == 1, waiters := group.zipIdx.map (farWaiter x i ret p.sc) }] }).sendPeer
      i.blk.die .atomic (BitVec.ofNat 16 (x.fld 56 53 + 16 * x.fld 48 48 + (if cas then 32 else 0))) p.pa
      (group.map (fun u =>
        { data := BitVec.ofNat 1024 (arg u x.b.toNat + (if cas then arg u x.c.toNat * 2 ^ 64 else 0)), side := 0 }))

/-- A thread that has to wait for what its home answers goes no further meanwhile; at a marker it waits already. -/
def Thread.awaitAnswer (t : Thread) (ti : Nat) : Thread := if t.park = .ready then { t with park := .retry (.answered [ti]) } else t

/-- A thread's part of a far atomic: with a result, or on an SC page, it is outstanding until the home answers (R50, R218, R254). As an
acquire no later access of the thread goes before it: the thread waits for the answer (R214; DEDUCED, notes/assumptions/80.md). -/
def Thread.awaitAtom (t : Thread) (x : Sig) (ti : Nat) (sc acq : Bool) (ds : Option (List Dest)) : Thread :=
  let xs := (ds.getD []).map (fun d => ({ dest := d, val := 0 } : RegWrite))
  let kept := t.keepResult .away (ds.getD []) xs none
  if sc then kept.parkPast x.sw x.len (.sc (some t.nextRid))
  else if ds.isNone then t.advance x.sw x.len
  else if acq then (kept.advance x.sw x.len).awaitAnswer ti
  else kept.advance x.sw x.len

/-- One thread's far atomic, after its buffered stores; a `red` has no destination. -/
def State.farAtom (s : State) (x : FormX) (sig : Sig) (cas : Bool) (i : Iss) (us : List (Thread × Pa)) (ti : Nat) (t : Thread)
    (p : Pa) (ds : Option (List Dest)) : State :=
  ((s.releaseAt i.blk (atomRel x t)).sendAtom x cas ds.isSome i us t p).modThread i.blk.bid ti
    (·.awaitAtom sig ti p.sc (atomAcq x) ds)

/-- One read-modify-write on memory, after the thread's buffered stores (R204, R213): the old value. Without a route nothing
is written (R254). -/
def State.rmw (s : State) (i : Iss) (x : FormX) (t : Thread) (p : Pa) (f : DWord → DWord) : DWord × State :=
  let n := widthOf (x.fld 48 48 == 1)
  let s := (s.releaseAt i.blk (atomRel x t)).touch (lineOf p.pa)
  let old := BitVec.ofNat 64 (s.mem.num p.pa n)
  (old, if s.noRoute p then s else s.writeMem p.pa (toBytes n (f old).toNat))

/-- A returning atomic (R204). -/
def opAtomWith (x : FormX) (sig : Sig) (cas : Bool) (f : Rd → DWord → DWord) (s0 : State) : State :=
  s0.runFold sig fun i ti s =>
    match s.thread? i.blk.bid ti with
    | none => s
    | some t =>
      match s.atomAccess i x t accAtom false with
      | (s1, ea, .inl e) => s1.memFault i ti e ea
      | (s1, ea, .inr p) =>
        let us := s0.mates sig i (fun s u => s.atomAccess i x u accAtom false)
        s1.inOrder s0 i us s0.behindRed (atomRel x) ti p <|
        let s2 := s1.drainOf i.blk.bid ti
        let regs (old : DWord) : List RegWrite := if x.fld 48 48 = 1 then wrPair x.d.toNat old else wr x.d.toNat (loWord old)
        if s2.goesFar p then s2.farAtom x sig cas i us ti t p (some ((regs 0).map RegWrite.dest))
        else
          let late := (s2.lineFate p).map (lateTrap t ea x.d.toNat)
          let (old, s3) := s2.rmw i x t p (f (t.rd i.warp.w))
          s3.modThread i.blk.bid ti fun t => t.memResult sig (s3.farPa i.blk.die p.pa) p.sc (regs old) late

/-- `atom` (R204). -/
def opAtom (x : FormX) (s : State) : State :=
  opAtomWith x (atomSig x) false (fun r old => atomOp (x.fld 56 53) (x.fld 48 48 == 1) old (atomArg x r x.b.toNat)) s

/-- `atomcas` (R204). -/
def opAtomcas (x : FormX) (s : State) : State :=
  opAtomWith x (atomcasSig x) true (fun r old =>
    if old = atomArg x r x.b.toNat then atomArg x r x.c.toNat else old) s

/-- One contribution of `red.merge` (R206): applied to the bay's partial, which it may start. Under `add.f32` one
bay at a time holds the line, from the home value; another bay's contribution merges it and is performed at home. -/
def State.redMerge (s : State) (b : Block) (op : Nat) (b64 : Bool) (pa : Nat) (x : DWord) : State :=
  let same (c : Churn) : Bool := c.pa == pa && c.op == op && c.b64 == b64
  let mine (c : Churn) : Bool := same c && c.die == b.die && c.bay == b.bay
  let apply (s : State) : State :=
    { s with churn := s.churn.map (fun c => if mine c then { c with val := atomOp op b64 c.val x } else c) }
  let start (s : State) (v : DWord) : State :=
    { s with churn := s.churn ++ [{ die := b.die, bay := b.bay, pa := pa, op := op, b64 := b64, val := v }] }
  let s := s.mergeChurn (fun c => lineOf c.pa == lineOf pa && !(c.op == op && c.b64 == b64))
  if op = 9 then
    if s.churn.any (fun c => lineOf c.pa == lineOf pa && !(c.die == b.die && c.bay == b.bay)) then
      let s := s.touch (lineOf pa)
      s.writeMem pa (toBytes 4 (atomOp op b64 (BitVec.ofNat 64 (s.mem.num pa 4)) x).toNat)
    else if s.churn.any mine then apply s
    else start s (atomOp op b64 (BitVec.ofNat 64 (s.mem.num pa 4)) x)
  else if s.churn.any mine then apply s
  else start s x

/-- The sums of one run's `red` on a block of a window (R269): participants of one word in ascending position. -/
def redWords (x : FormX) (i : Iss) (pas : List (Thread × Nat)) (blk : Nat) : List Val :=
  (List.range 32).map (fun k =>
    let xs := (pas.filter (fun u => u.2 == 128 * blk + 4 * k)).map (fun u => f32 ((u.1.rd i.warp.w).r x.b.toNat))
    match xs with
    | [] => .fin false 0 0
    | v :: vs => vs.foldl (fun y v => f32 (rne32 (y.add v))) v)

/-- Whether a `red` may go to a window (R269). -/
def redWindowOk (s : State) (x : FormX) (pa : Nat) : Bool :=
  x.fld 56 53 == 9 && x.fld 48 48 == 0 && ((windowAt? s pa).map (·.fmt)) == some 0

/-- The contribution of a run's `red` to one block of a window (R269). -/
def redContrib (x : FormX) (s : State) (i : Iss) (pas : List (Thread × Nat)) (pa : Nat) : Contrib :=
  let r := narrow (fun _ => .rne) true (redWords x i pas (pa / 128))
  { gid := 0, win := bitsAt pa 33 19, off := bitsAt pa 0 33 / 128 * 128, round := 0, ep := s.endpoint i.blk.die, hop := 0,
    codes := r.2, scale := r.1, ctx := i.ctx.num, bid := some i.blk.bid, lid := some i.blk.lid, ctr := none, num := 0,
    entry := none, node := s.nodeOf i.blk.lid }

/-- One thread's `red` to a window (R264, R269): a block's contribution is made by the first participant whose word lies in
it, and each participant keeps the round in mind until it is performed (R266). -/
def redWindow (x : FormX) (us : List (Thread × Pa)) (i : Iss) (ti : Nat) (t : Thread) (p : Pa) (s : State) : State :=
  let pas := us.map (fun u => (u.1, u.2.pa))
  let s1 := (s.drainOf i.blk.bid ti).releaseAt i.blk (atomRel x t)
  let c := redContrib x s i pas p.pa
  let s2 := if pas.any (fun u => u.1.slot < t.slot && u.2 / 128 == p.pa / 128) then s1 else s1.contribute c
  let round := s2.fab.roundOf c.win c.off c.ep - 1
  (s2.modThread i.blk.bid ti (fun t => { t with reds := t.reds ++ [(c.win, c.off, round)] })).pass (redSig x) i.blk.bid ti

/-- One thread's `red` (R204, R206, R208). On a marked line, and without a route, nothing is computed, and the late failure is
a report (R254, R309, R336). A `red.merge` on memory of another package is performed at its home like any other (R206). -/
def redThread (x : FormX) (us : List (Thread × Pa)) (s0 : State) (i : Iss) (ti : Nat) (s : State) : State :=
  let b64 := x.fld 48 48 == 1
  match s.thread? i.blk.bid ti with
  | none => s
  | some t =>
    match s.atomAccess i x t (if x.fld 47 46 = 2 then accMerge else accRed) true with
    | (s1, ea, .inl f) => s1.memFault i ti f ea
    | (s1, ea, .inr p) =>
      if p.win ∧ redWindowOk s1 x p.pa = false then s1.memFault i ti ⟨.fabric, 8⟩ ea
      else if p.win then
        (if s1.noRoute p then (s1.lateReport i ⟨.fabric, 4⟩ ea).pass (redSig x) i.blk.bid ti
         else s1.inOrder s0 i us s0.behindOther (atomRel x) ti p (redWindow x us i ti t p s1))
      else
        s1.inOrder s0 i us s0.behindRed (atomRel x) ti p <|
          let s2 := s1.drainOf i.blk.bid ti
          if s2.goesFar p then s2.farAtom x (redSig x) false i us ti t p none
          else match s2.lineFate p with
          | some f => (s2.lateReport i f ea).pass (redSig x) i.blk.bid ti
          | none =>
            let arg := atomArg x (t.rd i.warp.w) x.b.toNat
            let s3 := if x.fld 47 46 = 2 then s2.redMerge i.blk (x.fld 56 53) b64 p.pa arg
              else (s2.rmw i x t p (fun old => atomOp (x.fld 56 53) b64 old arg)).2
            s3.modThread i.blk.bid ti fun t => t.memResult (redSig x) (s3.farPa i.blk.die p.pa) p.sc [] none

/-- `red`. -/
def opRed (x : FormX) (s : State) : State :=
  s.withIss fun i => s.runFold (redSig x) (redThread x
    (s.mates (redSig x) i (fun s u => s.atomAccess i x u (if x.fld 47 46 = 2 then accMerge else accRed) true)) s)

/-! ### waita and fence -/

def waitaSig (x : FormX) : Sig :=
  { x.sig (x.fld 51 50 ≤ 1 && (x.fld 51 50 == 1 || x.fld 49 48 == 0) && x.fld 47 46 == 0)
      [src x.a.toNat 2, src x.b.toNat (if x.fld 52 52 = 1 then 2 else 1), src x.c.toNat 2] with
    specOk := x.d.toNat < 8, predW := [x.d.toNat].filter (· != 7) }

/-- The conditions of `waita` (R209). -/
def waitaCond (c : Nat) (b64 : Bool) (v x : DWord) : Bool :=
  let sv := if b64 then v.toInt else (loWord v).toInt
  let sx := if b64 then x.toInt else (loWord x).toInt
  match c with
  | 0 => v == x
  | 1 => v != x
  | 2 => sv < sx
  | 3 => sx ≤ sv
  | 4 => v.toNat < x.toNat
  | 5 => x.toNat ≤ v.toNat
  | 6 => v &&& x != 0
  | _ => v &&& x == 0

/-- Whether a wait's condition holds now, for the waiting thread (R209). -/
def waitaHolds (s : State) (bid ti : Nat) (w : WaitA) : Bool :=
  let es := ((s.block? bid).map (·.ownStores ti)).getD []
  waitaCond w.cond w.b64 (BitVec.ofNat 64 (ownNum (s.touch (lineOf w.pa)).mem es w.pa (widthOf w.b64))) w.x

/-- `waita` (R209): a marked line, or one without a route, faults precisely (notes/assumptions/7.md). -/
def opWaita (x : FormX) (s : State) : State :=
  s.runFold (waitaSig x) fun i ti s =>
    match s.thread? i.blk.bid ti with
    | none => s
    | some t =>
      let r := t.rd i.warp.w
      let b64 := x.fld 52 52 == 1
      let ea := effAddr r x.a.toNat 0xFF (sext 8 (x.fld 63 56) * widthOf b64)
      if ea.toNat % widthOf b64 ≠ 0 then s.memFault i ti ⟨.misalign, 2⟩ ea
      else match s.reach i ea accWaita with
      | (s1, .inl f) => s1.memFault i ti f ea
      | (s1, .inr p) =>
        s1.inOrder s1 i [(t, p)] s1.behindRed (fun _ => none) ti p <|
        let s2 := (s1.beforeRead i.blk.bid ti p).touch (lineOf p.pa)
        match s2.lineFate p with
        | some f => s2.memFault i ti f ea
        | none =>
          let w : WaitA :=
            { va := ea, pa := p.pa, cond := x.fld 55 53, x := atomArg' b64 r x.b.toNat, b64 := b64, pd := x.d.toNat,
              deadline := if x.c.toNat = 0xFF then none
                          else some (s.plat.time + (r.pair x.c.toNat).toNat) }
          if waitaHolds s2 i.blk.bid ti w then
            s2.modThread i.blk.bid ti fun t => (t.writes (wrPred w.pd true)).advance (waitaSig x).sw 8
          else if x.c.toNat ≠ 0xFF ∧ r.pair x.c.toNat = 0 then
            s2.modThread i.blk.bid ti fun t => (t.writes (wrPred w.pd false)).advance (waitaSig x).sw 8
          else (s2.watch i.blk (lineOf p.pa)).modThread i.blk.bid ti (·.parkPast (waitaSig x).sw 8 (.waita w))
where
  /-- The value operand at the wait's width. -/
  atomArg' (b64 : Bool) (r : Rd) (s : Nat) : DWord := if b64 then r.pair s else (r.r s).setWidth 64

def fenceSig (x : FormX) : Sig :=
  x.sig (x.fld 63 50 == 0) [noneAt x.d.toNat, noneAt x.a.toNat, noneAt x.b.toNat, noneAt x.c.toNat]

/-- `fence` (R213, R214, R216): kinds `rel` and wider perform the thread's earlier accesses for the scope, its `red`s to windows
among them, and make its later writes releases; `sc` also drains the warp's store queue. Kinds other than `rel` make its earlier reads
acquires: they wait for the answers of its far atomics (DEDUCED, notes/assumptions/80.md). -/
def opFence (x : FormX) (s : State) : State :=
  s.runFold (fenceSig x) fun i ti s =>
    if x.fld 47 46 ≠ 1 ∧ s.atomsOpen i.blk.bid ti then s.waitThread i.blk.bid ti (.answered [ti])
    else if x.fld 47 46 = 0 then s.pass (fenceSig x) i.blk.bid ti
    else s.afterAll i.blk.bid ti (some (x.fld 49 48))
      ((((s.drainOf i.blk.bid ti).release i.blk (x.fld 49 48)).modThread i.blk.bid ti
        (fun t => { t with fenced := t.relScope true (x.fld 49 48) })).pass (fenceSig x) i.blk.bid ti)

/-! ### Prefetch and cache maintenance -/

def prefSig (x : FormX) : Sig :=
  x.sig (x.fld 55 48 == 0 && x.fld 47 46 ≤ 1) [noneAt x.d.toNat, src x.a.toNat 2, noneAt x.b.toNat, noneAt x.c.toNat]

/-- The byte-offset address of `pref` and `cmaint` (R221). -/
def lineEa (x : FormX) (r : Rd) : DWord := effAddr r x.a.toNat 0xFF (sext 8 (x.fld 63 56))

/-- An access that never faults (R188, R221, R222): translated when it can be, and then `f` acts on its address. The table of R189
lists no permission for `pref` and for `cmaint` other than `.zero`; the model asks for read, and ignores the access without it
(DESIGN CHOICE, notes/assumptions/73.md). -/
def quietAccess (x : FormX) (sig : Sig) (f : Nat → State → State) (s : State) : State :=
  s.runFold sig fun i ti s =>
    match s.thread? i.blk.bid ti with
    | none => s
    | some t =>
      let s1 := match s.reach i (lineEa x (t.rd i.warp.w)) accLoad with
        | (_, .inl _) => s
        | (s1, .inr p) => f p.pa s1
      s1.pass sig i.blk.bid ti

/-- `pref` (R221): timing only. -/
def opPref (x : FormX) (s : State) : State := quietAccess x (prefSig x) (fun _ s => s) s

def cmaintSig (x : FormX) : Sig :=
  x.sig (x.fld 55 48 == 0) [noneAt x.d.toNat, src x.a.toNat 2, noneAt x.b.toNat, noneAt x.c.toNat]

/-- `cmaint.wb` and `cmaint.wbinv` (R222): timing only. -/
def opCmaintWb (x : FormX) (s : State) : State := quietAccess x (cmaintSig x) (fun _ s => s) s

/-- `cmaint.merge` (R206, R222). -/
def opCmaintMerge (x : FormX) (s : State) : State := quietAccess x (cmaintSig x) (fun pa s => s.touch (lineOf pa)) s

/-- The access checks of `cmaint.zero` (R222). -/
def State.zeroAccess (s : State) (i : Iss) (x : FormX) (t : Thread) : State × DWord × (MemFault ⊕ Pa) :=
  let ea := lineEa x (t.rd i.warp.w)
  if ea.toNat % 128 ≠ 0 then (s, ea, .inl ⟨.misalign, 2⟩) else ((s.reach i ea accZero).1, ea, (s.reach i ea accZero).2)

/-- `cmaint.zero` (R222). -/
def opCmaintZero (x : FormX) (s0 : State) : State :=
  s0.runFold (cmaintSig x) fun i ti s =>
    match s.thread? i.blk.bid ti with
    | none => s
    | some t =>
      match s.zeroAccess i x t with
      | (s1, ea, .inl f) => s1.memFault i ti f ea
      | (s1, ea, .inr p) =>
        let us := s0.mates (cmaintSig x) i (fun s u => s.zeroAccess i x u)
        let rel (u : Thread) : Option Nat := u.relScope false 0
        s1.inOrder s0 i us s0.behindRed rel ti p <|
        let l := lineOf p.pa
        let e : StoreEnt := { ti := ti, cells := plainCells p.pa (List.replicate 128 0),
                              sides := (List.range 8).map (fun b => (l * 8 + b, 0)), lines := [l], pay := [], nblk := 0 }
        (s1.releaseAt i.blk (rel t)).storeGo (cmaintSig x) i ti p ea e

end Sys2Proof.Machine
end

