-- ==== Sys2Proof/Machine/Tile.lean ====
section
/-! DEFINITION. The tile store and the thread instructions on tiles (R147 to R155, R170 to R177) and the tile atomics
(R207, R208). -/

namespace Sys2Proof.Machine

open Sys2Proof

/-! ### Shapes -/

/-- Elements per line of a format (R148). -/
def eplOf (fmt : Nat) : Nat := if fmtWidth fmt = 6 then 160 else 1024 / fmtWidth fmt

/-- Lines per row (R148). -/
def pitchOf (fmt cols : Nat) : Nat := ceilDiv cols (eplOf fmt)

/-- Lines of a tile (R148): its rows, and for a ridge tile the lines of m and l. -/
def tileLines (fmt rows cols kind : Nat) : Nat :=
  rows * pitchOf fmt cols + (if kind = 2 then ceilDiv (rows * 8) 128 else 0)

/-- Granules of a tile (R148). -/
def tileGranules (fmt rows cols kind : Nat) : Nat := ceilDiv (tileLines fmt rows cols kind) 32

def Line.zero : Line := { data := 0, side := 0, fill := false, marked := false }

/-- An entry that names nothing (R151). -/
def Tile.free : Tile :=
  { st := .free, kind := 0, level := false, fmt := 0, rows := 0, cols := 0, lines := [], fills := 0, drains := 0,
    landed := 0, drop := 0, aborted := false, truncated := false, emptyRow := false }

def Tile.pitch (t : Tile) : Nat := pitchOf t.fmt t.cols
def Tile.granules (t : Tile) : Nat := if t.st = .free then 0 else tileGranules t.fmt t.rows t.cols t.kind

/-- The line that holds an element, and the element's place in it (R148). -/
def Tile.lineIx (t : Tile) (r c : Nat) : Nat := r * t.pitch + c / eplOf t.fmt
def Tile.place (t : Tile) (c : Nat) : Nat := c % eplOf t.fmt

def Tile.line (t : Tile) (i : Nat) : Line := t.lines.getD i Line.zero
def Tile.modLine (t : Tile) (i : Nat) (f : Line → Line) : Tile := { t with lines := modAt t.lines i f }

/-- The code of an element (R148). -/
def Tile.code (t : Tile) (r c : Nat) : Nat :=
  bitsAt (t.line (t.lineIx r c)).data.toNat (fmtWidth t.fmt * t.place c) (fmtWidth t.fmt)

/-- The scale byte of an element's block (R123). -/
def Tile.scale (t : Tile) (r c : Nat) : Nat := bitsAt (t.line (t.lineIx r c)).side.toNat (8 * (t.place c / 32)) 8

/-- The value of an element (R122). -/
def Tile.val (t : Tile) (r c : Nat) : Val :=
  if fmtBlock t.fmt then blockVal t.fmt (t.scale r c) (t.code r c) else plainVal t.fmt (t.code r c)

def Tile.setCode (t : Tile) (r c x : Nat) : Tile :=
  t.modLine (t.lineIx r c) fun l =>
    { l with data := BitVec.ofNat 1024 (putBits l.data.toNat (fmtWidth t.fmt * t.place c) (fmtWidth t.fmt) x) }

def Tile.setScale (t : Tile) (r c x : Nat) : Tile :=
  t.modLine (t.lineIx r c) fun l =>
    { l with side := BitVec.ofNat 64 (putBits l.side.toNat (8 * (t.place c / 32)) 8 x) }

/-- Set the fill bit of the line of an element. -/
def Tile.setFill (t : Tile) (r c : Nat) : Tile := t.modLine (t.lineIx r c) fun l => { l with fill := true }

/-- The line of m and l of a row of a ridge tile, and the bit of m in it (R148). -/
def Tile.mlLine (t : Tile) (r : Nat) : Nat := t.rows * t.pitch + r / 16
def mlBit (r : Nat) : Nat := r % 16 * 64

/-- m and l of a row (R148). -/
def Tile.m (t : Tile) (r : Nat) : Word := BitVec.ofNat 32 (bitsAt (t.line (t.mlLine r)).data.toNat (mlBit r) 32)
def Tile.l (t : Tile) (r : Nat) : Word := BitVec.ofNat 32 (bitsAt (t.line (t.mlLine r)).data.toNat (mlBit r + 32) 32)

def Tile.setMl (t : Tile) (r : Nat) (m l : Word) : Tile :=
  t.modLine (t.mlLine r) fun x =>
    { x with data := BitVec.ofNat 1024 (putBits x.data.toNat (mlBit r) 64 (m.toNat + l.toNat <<< 32)) }

/-- The lines of the first `m` rows and `n` columns (R234), and those of m and l (R148). -/
def Tile.windowLines (t : Tile) (m n : Nat) : List Nat :=
  (List.range m).flatMap (fun i => (List.range (pitchOf t.fmt n)).map (fun k => i * t.pitch + k))
def Tile.mlLines (t : Tile) : List Nat := (List.range (ceilDiv (t.rows * 8) 128)).map (t.rows * t.pitch + ·)

/-- Set or clear every fill bit. -/
def Tile.fillAll (t : Tile) (b : Bool) : Tile := { t with lines := t.lines.map (fun l => { l with fill := b }) }

/-- The code of a tile state (R151). -/
def tileStateNum : TileState → Nat
  | .free => 0 | .empty => 1 | .filling => 2 | .ready => 3 | .draining => 4 | .engaged => 5

/-- The status word (R172). -/
def Tile.status (t : Tile) : DWord :=
  let b (x : Bool) (i : Nat) : Nat := if x then 2 ^ i else 0
  BitVec.ofNat 64 (t.landed % 2 ^ 32 * 2 ^ 32 + t.fills % 256 * 2 ^ 24 + t.drop.toNat * 2 ^ 16 + b t.aborted 13 +
    b t.truncated 12 + b t.emptyRow 11 + t.fmt % 32 * 2 ^ 6 + b t.level 5 + t.kind % 4 * 8 + tileStateNum t.st)

/-! ### Access to a block's tiles -/

def Block.tile (b : Block) (h : Nat) : Tile := b.tiles.getD h Tile.free
def Block.modTile (b : Block) (h : Nat) (f : Tile → Tile) : Block := { b with tiles := modAt b.tiles h f }
def State.modTile (s : State) (bid h : Nat) (f : Tile → Tile) : State := s.modBlock bid (·.modTile h f)
def State.tile (s : State) (bid h : Nat) : Tile := ((s.block? bid).map (·.tile h)).getD Tile.free

/-- What the state checks of a tile instruction give (R153). -/
inductive TileFate where
  | trap (code : TrapCode) (sub : Nat)
  | wait
  | go
  deriving DecidableEq, Repr

/-- Steps 1 to 3 of R153: `issue` are the states in which the instruction issues, `park` those in which it parks. -/
def tileFate (t : Tile) (issue park : List TileState) : TileFate :=
  if issue.contains t.st then .go
  else if park.contains t.st then .wait
  else if t.st = .free then .trap .tilestate 2
  else .trap .token 1

/-- A tile instruction's step for one thread: its state checks, then `f` where it issues (R153). -/
def State.tileStep (s : State) (i : Iss) (ti h : Nat) (issue park : List TileState) (f : Thread → Tile → State) :
    State :=
  match s.thread? i.blk.bid ti with
  | none => s
  | some t =>
    match tileFate (s.tile i.blk.bid h) issue park with
    | .trap c n => s.faultThread i ti c n
    | .wait => s.waitThread i.blk.bid ti (.tileNot h park)
    | .go => f t (s.tile i.blk.bid h)

/-- A specifier in a handle field (R155). -/
def handleOk (h : Nat) : Bool := h < 64

/-! ### talloc, tfree, tstat, twait -/

def tallocSig (x : FormX) : Sig :=
  { x.sig (x.fld 63 54 == 0 && x.fld 52 51 ≤ 2) [src x.a.toNat, noneAt x.b.toNat, noneAt x.c.toNat] with
    specOk := handleOk x.d.toNat }

/-- The block whose tiles a matrix unit operation names, and their handles (R237). -/
def MatOp.bid : MatOp → Nat
  | .mma b .. | .init b .. | .upd b .. | .merge b .. | .fin b .. => b
def MatOp.tiles : MatOp → List Nat
  | .mma _ _ x .. => [x.d.toNat]
  | .init _ d => [d]
  | .upd _ d a b mask _ _ w => [d, a, b] ++ (if mask = 2 then [w.toNat % 64] else [])
  | .merge _ d a | .fin _ d a _ => [d, a]

/-- Granules that a block's tiles hold (R149). -/
def Block.granulesUsed (b : Block) : Nat := (b.tiles.map Tile.granules).sum

/-- `talloc` (R170). -/
def opTalloc (x : FormX) (s : State) : State :=
  s.runFold (tallocSig x) fun i ti s =>
    match s.thread? i.blk.bid ti, s.block? i.blk.bid with
    | some t, some b =>
      let shape := ((t.rd i.warp.w).r x.a.toNat).toNat
      let rows := bitsAt shape 0 16
      let cols := bitsAt shape 16 16
      let fmt := x.fld 50 46
      let kind := x.fld 52 51
      let h := x.d.toNat
      if (b.tile h).st ≠ .free then s.faultThread i ti .tilestate 1
      else if fmtAssigned fmt = false then s.faultThread i ti .format 1
      else if kind ≠ 0 ∧ fmt ≠ 0 then s.faultThread i ti .format 3
      else if rows = 0 ∨ 8192 < rows ∨ cols = 0 ∨ 16384 < cols ∨ (fmtBlock fmt ∧ cols % 32 ≠ 0) then
        s.faultThread i ti .tilebound 1
      else if b.grans < b.granulesUsed + tileGranules fmt rows cols kind then s.faultThread i ti .tilespace 1
      else
        ((s.drainOf i.blk.bid ti).modTile i.blk.bid h fun _ =>
          { Tile.free with st := (if kind = 0 then .empty else .ready), kind := kind, level := x.fld 53 53 == 1,
                           fmt := fmt, rows := rows, cols := cols,
                           lines := List.replicate (tileLines fmt rows cols kind) Line.zero }).pass
          (tallocSig x) i.blk.bid ti
    | _, _ => s

def tfreeSig (x : FormX) : Sig :=
  { x.sig (x.m == 0) [noneAt x.a.toNat, noneAt x.b.toNat, noneAt x.c.toNat] with specOk := handleOk x.d.toNat }

/-- Whether a multicast issued from a handle is in flight (R166). -/
def State.mcastFrom (s : State) (bid h : Nat) : Bool := s.copies.any (fun c => c.bid == some bid && c.handle == some h)

/-- `tfree` (R171). -/
def opTfree (x : FormX) (s : State) : State :=
  s.runFold (tfreeSig x) fun i ti s =>
    s.tileStep i ti x.d.toNat [.empty, .ready] [.filling, .draining] fun _ _ =>
      if s.mcastFrom i.blk.bid x.d.toNat then s.waitThread i.blk.bid ti (.mcastDone x.d.toNat)
      else ((s.drainOf i.blk.bid ti).modTile i.blk.bid x.d.toNat fun _ => Tile.free).pass (tfreeSig x) i.blk.bid ti

def tstatSig (x : FormX) : Sig :=
  { x.sig (x.fld 63 47 == 0) [noneAt x.b.toNat, noneAt x.c.toNat, dst x.d.toNat 2] with
    specOk := handleOk x.a.toNat, vclass := true }

/-- `tstat` (R172): `.clr` clears the landed count's sticky bits [23:11] after the read. -/
def opTstat (x : FormX) (s : State) : State :=
  s.runFold (tstatSig x) fun i ti s =>
    let w := (s.tile i.blk.bid x.a.toNat).status
    let s1 := if x.fld 46 46 = 1 then s.modTile i.blk.bid x.a.toNat (fun t =>
      { t with drop := 0, aborted := false, truncated := false, emptyRow := false }) else s
    s1.modThread i.blk.bid ti (·.effect (tstatSig x) (wrPair x.d.toNat w))

def twaitSig (x : FormX) : Sig :=
  { x.sig (x.fld 63 48 == 0 && x.fld 47 46 ≤ 2) [noneAt x.d.toNat, noneAt x.b.toNat, noneAt x.c.toNat] with
    specOk := handleOk x.a.toNat }

/-- The states in which the condition of `twait` holds (R173). -/
def twaitStates (c : Nat) : List TileState :=
  match c with
  | 0 => [.ready]
  | 1 => [.ready, .draining, .engaged]
  | _ => [.empty, .ready, .engaged]

/-- `twait` (R173): an ENGAGED tile traps TOKEN under a condition that does not name ENGAGED (R153). -/
def opTwait (x : FormX) (s : State) : State :=
  s.runFold (twaitSig x) fun i ti s =>
    let yes := twaitStates (x.fld 47 46)
    s.tileStep i ti x.a.toNat yes
      ([TileState.empty, .filling, .ready, .draining].filter (fun st => !yes.contains st))
      fun _ _ => s.pass (twaitSig x) i.blk.bid ti

/-! ### tld and tst -/

/-- A k register operand, or 0xFF, of the tile instructions. -/
def kOpt (s : Nat) (rd wr : Bool) : Opd := { spec := s, v := false, w := false, k := true, rd := rd, wr := wr }

/-- The decode checks of `tld` (R174). For a plain tile R174 gives a k register named by c no fate: it is checked for hazards and left
alone, and so it is by `tst` (DESIGN CHOICE, notes/assumptions/73.md). -/
def tldSig (x : FormX) : Sig :=
  { x.sig (x.fld 63 53 == 0 && x.fld 48 46 ≤ 3)
      [src x.b.toNat, kOpt x.c.toNat false true, dst x.d.toNat] with
    specOk := handleOk x.a.toNat, vclass := true }

/-- The decode checks of `tst` (R175), with c as in `tldSig`. -/
def tstSig (x : FormX) : Sig :=
  { x.sig (x.fld 63 52 == 0 && x.fld 48 46 ≤ 3)
      [src x.b.toNat, kOpt x.c.toNat true false, src x.a.toNat] with
    specOk := handleOk x.d.toNat }

/-- The fields of `tld` and `tst` (R174, R175): the element count, the k byte, `.ml`, and of `tld` `.stream`. -/
def tileCount (x : FormX) : Nat := 2 ^ x.fld 48 46
def tileByte (x : FormX) : Nat := x.fld 50 49
def tileMl (x : FormX) : Bool := x.fld 51 51 == 1
def tileStream (x : FormX) : Bool := x.fld 52 52 == 1

/-- Registers of the group for a tile (R174). -/
def tileGroup (t : Tile) (ml : Bool) (n : Nat) : Nat := if ml then 2 else groupRegs n (fmtWidth t.fmt)

/-- The kind, bound and register-group checks of `tld` and `tst` (R153 step 4, R174), in order. That a missing scale register
traps before a bound, and under `.ml` a group before a row, no rule states (DESIGN CHOICE, notes/assumptions/71.md). -/
def tileAccessFate (t : Tile) (ml : Bool) (n row col spec c : Nat) : Option MemFault :=
  let g := tileGroup t ml n
  if ml ∧ t.kind ≠ 2 then some ⟨.tilestate, 3⟩
  else if ml = true ∧ (col ≠ 0 ∨ n ≠ 2) then some ⟨.tilebound, 3⟩
  else if ml = true ∧ t.rows ≤ row then some ⟨.tilebound, 2⟩
  else if ml = false ∧ fmtBlock t.fmt ∧ c = 0xFF then some ⟨.illop, 4⟩
  else if ml = false ∧ (t.rows ≤ row ∨ t.cols < col + (if fmtBlock t.fmt then 8 else n)) then some ⟨.tilebound, 2⟩
  else if ml = false ∧ fmtBlock t.fmt ∧ (n ≠ 8 ∨ col % 8 ≠ 0) then some ⟨.tilebound, 3⟩
  else if ml = false ∧ fmtBlock t.fmt = false ∧ fmtWidth t.fmt < 8 ∧ col % n ≠ 0 then some ⟨.tilebound, 3⟩
  else if spec ≠ 0xFF ∧ spec % g ≠ 0 then some ⟨.misalign, 1⟩
  else none

/-- The hazard rules for the register group of `tld` or `tst`, which an allocated tile's format sizes (R47, R174). -/
def State.tileRegs (s : State) (i : Iss) (ti h spec n : Nat) (ml wr : Bool) (f : State) : State :=
  if (s.tile i.blk.bid h).st = .free then f
  else s.withGroup i ti spec (tileGroup (s.tile i.blk.bid h) ml n) wr f

/-- The lines that a read of `n` elements or of m and l touches (R174). -/
def Tile.touched (t : Tile) (ml : Bool) (n row col : Nat) : List Nat :=
  if ml then [t.mlLine row] else ((List.range n).map (fun j => t.lineIx row (col + j))).eraseDups

/-- The register writes of a `tld` (R174). -/
def tldWrites (t : Tile) (ml : Bool) (n row col d c byte : Nat) : List RegWrite :=
  if ml then wrs d [t.m row, t.l row]
  else
    let w := fmtWidth t.fmt
    wrs d (packCodes w (groupRegs n w) ((List.range n).map (fun j => t.code row (col + j)))) ++
      (if fmtBlock t.fmt then wrKByte (c - 0xC0) byte (t.scale row col) else [])

/-- `tld` (R174): the stream form's result waits for each line whose fill bit is clear, in whichever state it issues
(DEDUCED, notes/assumptions/78.md). -/
def opTld (x : FormX) (s : State) : State :=
  s.runFold (tldSig x) fun i ti s =>
    let stream := tileStream x
    let ml := tileMl x
    let n := tileCount x
    let h := x.a.toNat
    s.tileRegs i ti h x.d.toNat n ml true <| s.tileStep i ti h (if stream then [.ready, .draining, .filling] else [.ready, .draining])
        (if stream then [.empty] else [.empty, .filling]) fun th t =>
      let rc := ((th.rd i.warp.w).r x.b.toNat).toNat
      let row := bitsAt rc 0 16
      let col := bitsAt rc 16 16
      match tileAccessFate t ml n row col x.d.toNat x.c.toNat with
      | some f => s.faultThread i ti f.code f.sub
      | none =>
        let ls := t.touched ml n row col
        if ls.any (fun l => (t.line l).marked) then s.faultThread i ti .dataerr 0 0 (BitVec.ofNat 32 h)
        else
          let xs := tldWrites t ml n row col x.d.toNat x.c.toNat (tileByte x)
          let dests := xs.map RegWrite.dest
          let late := stream && ls.any (fun l => !(t.line l).fill)
          s.modThread i.blk.bid ti fun th =>
            ((if late then th.addResult (.stream h row col n x.d.toNat
                  (if fmtBlock t.fmt && !ml then some (x.c.toNat - 0xC0) else none)
                  (if ml then none else some (tileByte x))) dests []
              else th.addResult .ready dests xs)).advance (tldSig x).sw 8

/-- Read the stream results of a block whose lines have all been filled (R174). A missing byte field marks `.ml`. -/
def Block.sampleStreams (b : Block) : Block :=
  { b with threads := b.threads.map (fun th =>
      { th with results := th.results.map (fun r => match r.kind with
          | .stream h row col n d kn kb =>
            let t := b.tile h
            let ml := kb == none
            if (t.touched ml n row col).all (fun l => (t.line l).fill) then
              { r with kind := .ready,
                       writes := tldWrites t ml n row col d (0xC0 + kn.getD 0) (kb.getD 0) }
            else r
          | _ => r) }) }

/-- The streams that wait in a block read what has been filled (R174). -/
def State.sampleStreams (s : State) (bid : Nat) : State := s.modBlock bid Block.sampleStreams

/-- The writes of one participant of `tst` (R175). -/
def tstTile (t : Tile) (r : Rd) (ml : Bool) (n row col a : Nat) (scale : Option Nat) : Tile :=
  if ml then (t.setMl row (r.r a) (r.r (if a = 0xFF then a else a + 1))).modLine (t.mlLine row) (fun l => { l with fill := true })
  else
    let w := fmtWidth t.fmt
    let codes := unpackCodes w n (r.regs a (groupRegs n w))
    let t1 := codes.zipIdx.foldl (fun t (c, j) => (t.setCode row (col + j) c).setFill row (col + j)) t
    match scale with
    | some sc => t1.setScale row col sc
    | none => t1

/-- Row and column of a coordinate register. -/
def coordOf (w : Word) : Nat × Nat := (bitsAt w.toNat 0 16, bitsAt w.toNat 16 16)

/-- `tst` (R175): a block's scale comes from the lowest participant that writes to it. Streams read the tile once the last participant
has written (R174). -/
def opTst (x : FormX) (s0 : State) : State :=
  s0.withIss fun i0 =>
    let ps := parts (tstSig x) s0.tick i0
    let ml := tileMl x
    let n := tileCount x
    let h := x.d.toNat
    let at_ (i : Iss) (u : Thread) : Nat × Nat := coordOf ((u.rd i.warp.w).r x.b.toNat)
    let passes (i : Iss) (t : Tile) (u : Thread) : Bool :=
      tileAccessFate t ml n (at_ i u).1 (at_ i u).2 x.a.toNat x.c.toNat == none &&
        groupFate i.blk u x.a.toNat (tileGroup t ml n) false == .go
    s0.runFold (tstSig x) fun i ti s =>
      s.tileRegs i ti h x.a.toNat n ml false <|
      s.tileStep i ti h [.empty, .ready] [.filling, .draining] fun th t =>
        let (row, col) := at_ i th
        match tileAccessFate t ml n row col x.a.toNat x.c.toNat with
        | some f => s.faultThread i ti f.code f.sub
        | none =>
          let r := th.rd i.warp.w
          let first := !(ps.any (fun u => u.slot < th.slot && passes i t u && (at_ i u).1 == row &&
            (at_ i u).2 / 32 == col / 32))
          let sc := if fmtBlock t.fmt && !ml && first then some (byteOf (r.r x.c.toNat) (tileByte x)) else none
          let more := ps.any (fun u => th.slot < u.slot && passes i t u)
          s.afterFence s0 i ps ti fun s =>
            let s1 := (s.drainOf i.blk.bid ti).modTile i.blk.bid h (fun t => tstTile t r ml n row col x.a.toNat sc)
            (if more then s1 else s1.sampleStreams i.blk.bid).pass (tstSig x) i.blk.bid ti

/-! ### tfill and tset -/

def tfillSig (x : FormX) : Sig :=
  { x.sig (x.fld 63 48 == 0) [src x.a.toNat, noneAt x.b.toNat, kOpt x.c.toNat true false] with
    specOk := handleOk x.d.toNat }

/-- Every element and scale of a tile set (R176); bits of a line beyond the tile's elements stay zero (R148). -/
def Tile.fillWith (t : Tile) (code sc : Nat) : Tile :=
  let w := fmtWidth t.fmt
  let lineAt (i : Nat) : Line → Line := fun l =>
    if t.rows * t.pitch ≤ i then { l with fill := true }
    else
      let n := min (eplOf t.fmt) (t.cols - i % t.pitch * eplOf t.fmt)
      let data := ((List.range n).map (fun e => (code % 2 ^ w) <<< (w * e))).sum
      let side := if fmtBlock t.fmt then ((List.range (ceilDiv n 32)).map (fun b => sc <<< (8 * b))).sum else 0
      { data := BitVec.ofNat 1024 data, side := BitVec.ofNat 64 side, fill := true, marked := false }
  { t with lines := t.lines.zipIdx.map (fun (l, i) => lineAt i l), st := .ready }

/-- `tfill` (R176). Streams read the tile once the last participant has filled it (R174). -/
def opTfill (x : FormX) (s0 : State) : State :=
  s0.runFold (tfillSig x) fun i ti s =>
    s.tileStep i ti x.d.toNat [.empty, .ready] [.filling, .draining] fun th t =>
      if fmtBlock t.fmt != (x.c.toNat != 0xFF) then s.faultThread i ti .illop 4
      else
        let r := th.rd i.warp.w
        let ps := parts (tfillSig x) s0.tick i
        s.afterFence s0 i ps ti fun s =>
          let s1 := (s.drainOf i.blk.bid ti).modTile i.blk.bid x.d.toNat
            (·.fillWith (r.r x.a.toNat).toNat (byteOf (r.r x.c.toNat) (x.fld 47 46)))
          (if ps.any (fun u => th.slot < u.slot) then s1 else s1.sampleStreams i.blk.bid).pass (tfillSig x) i.blk.bid ti

def tsetSig (x : FormX) : Sig :=
  { x.sig (x.fld 63 48 == 0 && x.fld 47 46 ≤ 1) [noneAt x.a.toNat, noneAt x.b.toNat, noneAt x.c.toNat] with
    specOk := handleOk x.d.toNat }

/-- `tset.empty` (R177). -/
def opTsetEmpty (x : FormX) (s : State) : State :=
  s.runFold (tsetSig x) fun i ti s =>
    s.tileStep i ti x.d.toNat [.empty, .ready] [.filling, .draining] fun _ t =>
      ((s.drainOf i.blk.bid ti).modTile i.blk.bid x.d.toNat
        (fun _ => if t.st = .ready then { t.fillAll false with st := .empty } else t)).pass (tsetSig x) i.blk.bid ti

/-- `tset.ready` (R177). -/
def opTsetReady (x : FormX) (s : State) : State :=
  s.runFold (tsetSig x) fun i ti s =>
    s.tileStep i ti x.d.toNat [.empty, .ready] [.filling, .draining] fun _ t =>
      (((s.drainOf i.blk.bid ti).modTile i.blk.bid x.d.toNat
        (fun _ => if t.st = .empty then { t.fillAll true with st := .ready } else t)).sampleStreams i.blk.bid).pass (tsetSig x) i.blk.bid ti

/-! ### Tile atomics -/

def tatomOk (x : FormX) : Bool := x.fld 56 53 ≤ 11 && x.fld 63 57 == 0 && x.fld 52 46 == 0

def tatomSig (x : FormX) : Sig :=
  { x.sig (tatomOk x) [src x.b.toNat, { src x.c.toNat with z := false }, dst x.d.toNat] with
    specOk := handleOk x.a.toNat, vclass := true }

def tredSig (x : FormX) : Sig :=
  { x.sig (tatomOk x) [noneAt x.d.toNat, src x.b.toNat, src x.c.toNat] with specOk := handleOk x.a.toNat }

/-- Whether an operation suits a tile's format (R208). -/
def tatomFmtOk (op fmt : Nat) : Bool := (fmt == 0x0B && op ≤ 8) || (fmt == 0x00 && 8 ≤ op)

/-- A tile atomic for one thread (R204, R207, R208). -/
def tatomThread (x : FormX) (sig : Sig) (s0 : State) (i : Iss) (ti : Nat) (s : State) : State :=
  s.tileStep i ti x.a.toNat [.ready] [.empty, .filling, .draining] fun th t =>
    let r := th.rd i.warp.w
    let (row, col) := coordOf (r.r x.b.toNat)
    if tatomFmtOk (x.fld 56 53) t.fmt = false then s.faultThread i ti .format 7
    else if t.rows ≤ row ∨ t.cols ≤ col then s.faultThread i ti .tilebound 2
    else if (t.line (t.lineIx row col)).marked then s.faultThread i ti .dataerr 0 0 (BitVec.ofNat 32 x.a.toNat)
    else
      let old : Word := BitVec.ofNat 32 (t.code row col)
      let new := atomOp32 (x.fld 56 53) old (r.r x.c.toNat)
      s.afterFence s0 i (parts sig s0.tick i) ti fun s =>
        ((s.drainOf i.blk.bid ti).modTile i.blk.bid x.a.toNat (·.setCode row col new.toNat)).modThread i.blk.bid ti
          (·.effect sig (wr x.d.toNat old))

/-- `tatom` (R207). -/
def opTatom (x : FormX) (s : State) : State := s.runFold (tatomSig x) (tatomThread x (tatomSig x) s)

/-- `tred` (R207). -/
def opTred (x : FormX) (s : State) : State := s.runFold (tredSig x) (tatomThread x (tredSig x) s)

end Sys2Proof.Machine
end

