-- ==== Sys2Proof/Machine/Copy.lean ====
section
/-! DEFINITION. Tensor layout records (R156 to R158), boxes (R159, R160), the copy engine (R161 to R169, R281, R282)
and the copy instructions (R177 to R182). -/

namespace Sys2Proof.Machine

open Sys2Proof

/-! ### Layout records -/

/-- The multiple that base and strides keep (R157 step 4). -/
def layoutAlign (fmt : Nat) : Nat :=
  let w := fmtWidth fmt
  if fmtBlock fmt then (if w = 4 then 16 else if w = 6 then 128 else 32)
  else if 8 ≤ w then w / 8 else if w = 4 then 4 else 12

/-- The record's dimension entry (R156). -/
def dimEntry (r : List Byte) (k : Nat) : List Byte := (r.drop (16 + 16 * k)).take 16

/-- Read and check a layout record (R156, R157 steps 1 to 4). -/
def parseLayout (r : List Byte) : MemFault ⊕ Layout :=
  let fmt := bitsAt (field r 8 1) 0 5
  let rank := field r 9 1
  let lay : Layout :=
    { base := BitVec.ofNat 64 (field r 0 8), fmt := fmt,
      samp := (List.range (min 3 rank)).map (fun k => field r (10 + k) 1),
      ext := (List.range rank).map (fun k => field (dimEntry r k) 0 4),
      stride := (List.range rank).map (fun k => sext 56 (field (dimEntry r k) 4 7)),
      win := (List.range rank).map (fun k => field (dimEntry r k) 11 2) }
  if fmtAssigned fmt = false then .inl ⟨.format, 1⟩
  else if bitsAt (field r 8 1) 5 3 ≠ 0 ∨ rank = 0 ∨ 7 < rank ∨ zeroAt r 13 3 = false ∨ 2 ^ 53 ≤ field r 0 8 ∨
      (List.range 7).any (fun k => !(zeroAt (dimEntry r k) (if k < rank then 13 else 0) 16)) ∨
      (List.range 3).any (fun k => rank ≤ k && field r (10 + k) 1 != 0) ∨ field (dimEntry r 0) 4 7 ≠ 0 then
    .inl ⟨.layout, 1⟩
  else if lay.ext.contains 0 ∨ lay.win.contains 0 ∨ lay.samp.contains 0 then .inl ⟨.layout, 2⟩
  else if field r 0 8 % layoutAlign fmt ≠ 0 ∨ lay.stride.any (fun x => x % (layoutAlign fmt : Int) != 0) then
    .inl ⟨.layout, 3⟩
  else .inr lay

/-- The rule of dimension 0 for a tensor of a copy that involves a block format (R159) or rotates (R161). -/
def dim0Ok (lay : Layout) (o0 col0 : Nat) (block rhad : Bool) : Bool :=
  let all (n : Nat) : Bool := lay.samp.headD 0 == 1 && o0 % n == 0 && lay.win.headD 0 % n == 0 && lay.ext.headD 0 % n == 0
  (!block || (all 32 && col0 % 32 == 0)) && (!rhad || all 64)

/-! ### Positions -/

/-- The box indices of dimensions 1 and up, from a flattened box row (R159). -/
def rowIx : List Nat → Nat → List Nat
  | [], _ => []
  | w :: ws, r => r % w :: rowIx ws (r / w)

/-- Box rows: the product of the windows of dimension 1 and up (R159). -/
def boxRows (box : List Nat) : Nat := box.tail.foldl (· * ·) 1

/-- The tensor coordinates of a box element (R159); none when out of bounds (R160). -/
def Layout.coords (l : Layout) (o ix : List Nat) : Option (List Nat) :=
  let cs := ix.zipIdx.map (fun (i, k) => o.getD k 0 + i * (if k < 3 then l.samp.getD k 1 else 1))
  if (cs.zip l.ext).all (fun (c, e) => c < e) then some cs else none

/-- The linear index of an element (R131). -/
def Layout.index (l : Layout) (cs : List Nat) : DWord :=
  BitVec.ofNat 64 ((cs.zip l.ext).foldr (fun (c, e) n => c + e * n) 0)

/-- Where an element lies in memory (R158): the address of its first byte, the bit in it, and for a block format the
address of its block and its sidecar byte. -/
structure ElemAt where
  va : Nat
  bit : Nat
  blk : Nat
  side : Nat
  deriving DecidableEq, Repr

/-- R158. -/
def Layout.elem (l : Layout) (cs : List Nat) : ElemAt :=
  let row := ((l.base.toNat : Int) + ((cs.drop 1).zip (l.stride.drop 1)).foldl (fun n (c, x) => n + c * x) 0) % 2 ^ 64
  let c0 := cs.headD 0
  let w := fmtWidth l.fmt
  if fmtBlock l.fmt then
    let b := c0 / 32
    let blk := (row.toNat + (if w = 6 then b / 5 * 128 + b % 5 * 24 else b * blockBytes l.fmt)) % 2 ^ 64
    let bits := w * (c0 % 32)
    { va := (blk + bits / 8) % 2 ^ 64, bit := bits % 8, blk := blk, side := if w = 6 then b % 5 else blk % 128 / blockBytes l.fmt }
  else
    { va := (row.toNat + w * c0 / 8) % 2 ^ 64, bit := w * c0 % 8, blk := 0, side := 0 }

/-- The position of box element (row r, i0) in a place, as [row, column] of a tile or as tensor coordinates; none when
out of bounds. `swap` reads a tile through the corner turn (R182). -/
def Place.pos (p : Place) (box : List Nat) (swap : Bool) (r i0 : Nat) : Option (List Nat) :=
  match p with
  | .tile _ _ row0 col0 => if swap then some [row0 + i0, col0 + r] else some [row0 + r, col0 + i0]
  | .lines data fmt cols _ => if r * pitchOf fmt cols + i0 / eplOf fmt < data.length then some [r, i0] else none
  | .tensor lay o => lay.coords o (i0 :: rowIx box.tail r)

/-- The box as a destination sees it (R182). -/
def Copy.boxOf (c : Copy) (d : Dst) : List Nat := if d.turned then c.box.reverse else c.box

/-- The lines of a message as a tile (R282). -/
def linesTile (data : List WireLine) (fmt cols : Nat) : Tile :=
  { Tile.free with fmt := fmt, cols := cols, lines := data.map (fun w => { Line.zero with data := w.data, side := w.side }) }

/-- The tile that a place reads or writes; of a tensor, none. -/
def Place.tile? (s : State) (p : Place) : Option Tile :=
  match p with
  | .tile bid h _ _ => some (s.tile bid h)
  | .lines data fmt cols _ => some (linesTile data fmt cols)
  | .tensor _ _ => none

/-- The format of a place. -/
def Place.fmt (s : State) (p : Place) : Nat :=
  match p with
  | .tensor lay _ => lay.fmt
  | .tile bid h _ _ => (s.tile bid h).fmt
  | .lines _ fmt _ _ => fmt

/-- The destination line that a position lies in: a tile's line, or 128 bytes of address space. -/
def Place.lineKey (p : Place) (shape : Tile) (pos : List Nat) : Nat :=
  match p with
  | .tensor lay _ => (lay.elem pos).va / 128
  | _ => shape.lineIx (pos.getD 0 0) (pos.getD 1 0)

/-- The elements that a box row moves to a destination: i0, source position, destination position (R160). -/
def Copy.rowElems (c : Copy) (d : Dst) (r : Nat) : List (Nat × List Nat × List Nat) :=
  let box := c.boxOf d
  (List.range (box.headD 0)).filterMap fun i0 =>
    match c.src.pos box d.turned r i0, d.place.pos box false r i0 with
    | some sp, some dp => some (i0, sp, dp)
    | _, _ => none

/-- Whether m and l travel with the rows of a `cpytt` (R180). -/
def mlTravels (src dst : Tile) (scol dcol cols : Nat) : Bool :=
  src.kind == 2 && dst.kind == 2 && scol == 0 && dcol == 0 && cols == src.cols && cols == dst.cols

/-- The units of a destination: each box row's destination lines that receive an element, and where m and l travel
the line of the row's m and l. `shape` is the destination's shape, of a tile. -/
def Copy.units (s : State) (c : Copy) (d : Dst) (shape : Tile) : List (Nat × Nat) :=
  if c.xf = .lines then (List.range (c.box.headD 0)).map (fun i => (i, i))
  else (List.range (boxRows (c.boxOf d))).flatMap fun r =>
    let es := c.rowElems d r
    let keys := (es.map (fun e => d.place.lineKey shape e.2.2)).eraseDups
    let ml := match c.src, d.place with
      | .tile bid h _ sc, .tile _ _ row0 dc =>
        if mlTravels (s.tile bid h) shape sc dc (c.box.headD 0) then [shape.mlLine (row0 + r)] else []
      | _, _ => []
    (keys ++ ml).map (fun k => (r, k))

/-! ### Memory seen by a copy -/

/-- Translated lines: (address / 128, physical address of the line, whether it lies in a window). -/
abbrev LineMap := List (Nat × Nat)

def LineMap.pa (m : LineMap) (va : Nat) : Nat := ((m.lookup (va % 2 ^ 64 / 128)).getD 0) + va % 128

/-- A fault of a copy's access, at its address. -/
structure CopyFault where
  f : MemFault
  va : DWord
  deriving DecidableEq, Repr

/-- Translate lines in order; the first that faults, or that is marked where the copy reads it (R336), stops. -/
def State.mapLines (s : State) (c : Context) (site : Nat) (a : Acc) : List Nat → State × (CopyFault ⊕ LineMap)
  | [] => (s, .inr [])
  | l :: ls =>
    let va := BitVec.ofNat 64 (128 * l)
    match s.reachAt c site va a with
    | (s1, .inl f) => (s1, .inl ⟨f, va⟩)
    | (s1, .inr p) =>
      let s2 := if p.win then s1 else s1.touch (lineOf p.pa)
      if a.rd ∧ s2.mem.marked (lineOf p.pa) then (s2, .inl ⟨⟨.dataerr, 0⟩, va⟩)
      else match s2.mapLines c site a ls with
      | (s3, .inl f) => (s3, .inl f)
      | (s3, .inr m) => (s3, .inr ((l, p.pa) :: m))

/-- Bytes that an element's code spans. -/
def ElemAt.span (e : ElemAt) (w : Nat) : Nat := ceilDiv (e.bit + w) 8

/-- The lines of address space that elements of a tensor and their scales lie in. -/
def Layout.linesOf (l : Layout) (ps : List (List Nat)) : List Nat :=
  (ps.flatMap fun cs =>
    let e := l.elem cs
    (List.range (e.span (fmtWidth l.fmt))).map (fun i => (e.va + i) % 2 ^ 64 / 128)).eraseDups

/-- Read an element of a tensor: code and scale byte. -/
def Layout.read (l : Layout) (m : Mem) (lm : LineMap) (cs : List Nat) : Nat × Nat :=
  let e := l.elem cs
  let w := fmtWidth l.fmt
  let x := fromBytes ((List.range (e.span w)).map (fun i => m.byte (lm.pa (e.va + i))))
  (bitsAt x e.bit w, if fmtBlock l.fmt then (m.side (lineOf (lm.pa e.blk)) e.side).toNat else 0)

/-- Read an element of a place: code and scale byte. -/
def Place.read (s : State) (p : Place) (lm : LineMap) (pos : List Nat) : Nat × Nat :=
  match p with
  | .tensor lay _ => lay.read s.mem lm pos
  | _ =>
    let t := (p.tile? s).getD Tile.free
    (t.code (pos.getD 0 0) (pos.getD 1 0), t.scale (pos.getD 0 0) (pos.getD 1 0))

/-- The masked bytes of an element's code. -/
def ElemAt.cells (e : ElemAt) (lm : LineMap) (w code : Nat) : List MaskByte :=
  let m := (2 ^ w - 1) <<< e.bit
  let x := (code % 2 ^ w) <<< e.bit
  (List.range (e.span w)).map fun i =>
    { addr := lm.pa (e.va + i), mask := BitVec.ofNat 8 (bitsAt m (8 * i) 8), val := BitVec.ofNat 8 (bitsAt x (8 * i) 8) }

/-! ### What a copy does to values -/

/-- The value of an element read (R122). -/
def codeVal (fmt : Nat) (x : Nat × Nat) : Val := if fmtBlock fmt then blockVal fmt x.2 x.1 else plainVal fmt x.1

/-- The counter of R131 for an element of a copy (R161). -/
def Copy.ctrOf (c : Copy) (d : Dst) (shape : Tile) (sp dp : List Nat) : DWord :=
  match c.src, d.place with
  | .tensor l _, _ => l.index sp
  | _, .tensor l _ => l.index dp
  | _, _ => BitVec.ofNat 64 (dp.getD 0 0 * shape.cols + dp.getD 1 0)

/-- The values of a group of 64 elements of a box row after the rotation (R143, R161). -/
def Copy.rotated (s : State) (c : Copy) (d : Dst) (shape : Tile) (lm : LineMap) (r g : Nat) : List Val :=
  let es := (c.rowElems d r).filter (fun e => e.1 / 64 == g)
  let xs := es.map fun e =>
    signIf (chg c.key (slotStream c.slot) (c.ctrOf d shape e.2.1 e.2.2)).msb
      (f32 (rne32 (codeVal (c.src.fmt s) (c.src.read s lm e.2.1))))
  (rhadStages 6 1 xs).map (fun v => f32 (rne32 (v.scale (-3))))

/-- The values that a unit moves, before they are rounded to the destination's format. -/
def Copy.values (s : State) (c : Copy) (d : Dst) (shape : Tile) (lm : LineMap) (r : Nat)
    (es : List (Nat × List Nat × List Nat)) : List Val :=
  if c.xf = .rhad then
    let gs := (es.map (fun e => e.1 / 64)).eraseDups.map (fun g => (g, c.rotated s d shape lm r g))
    es.map (fun e => ((gs.lookup (e.1 / 64)).getD []).getD (e.1 % 64) .nan)
  else es.map (fun e => codeVal (c.src.fmt s) (c.src.read s lm e.2.1))

/-- The codes and scale bytes that a unit writes (R161): one pair per element. A block's largest magnitude is kept exact also
beyond FP32's range, which R127 does not state (DEDUCED, notes/assumptions/62.md). -/
def Copy.codes (s : State) (c : Copy) (d : Dst) (shape : Tile) (lm : LineMap) (r dfmt : Nat)
    (es : List (Nat × List Nat × List Nat)) : List (Nat × Nat) :=
  if c.xf = .raw then es.map (fun e => c.src.read s lm e.2.1)
  else
    let ves := (c.values s d shape lm r es).zip es
    let mode (e : Nat × List Nat × List Nat) : RMode := slotMode c.slot c.key (c.ctrOf d shape e.2.1 e.2.2)
    if fmtBlock dfmt then
      let blocks := (es.map (fun e => e.1 / 32)).eraseDups.map fun b =>
        (b, scaleRule (amaxOf ((ves.filter (fun x => x.2.1 / 32 == b)).map (·.1))) dfmt (slotAx4 c.slot))
      ves.map fun x =>
        let sc := (blocks.lookup (x.2.1 / 32)).getD 0
        (quantise dfmt sc (mode x.2) true x.1, sc)
    else match elemOf dfmt 0 with
    | some k => ves.map (fun x => (roundElem k (mode x.2) (slotSat c.slot) x.1, 0))
    | none => []

/-! ### Landing -/

/-- The tile of a destination. -/
def Dst.tileRef (d : Dst) : Option (Nat × Nat) :=
  match d.place with
  | .tile bid h _ _ => some (bid, h)
  | _ => none

/-- Whether any copy still has to write a tile's line. -/
def State.lineComing (s : State) (bid h line : Nat) : Bool :=
  s.copies.any (fun c => !c.abandoned && c.dsts.any (fun d =>
    d.st == .accepted && d.tileRef == some (bid, h) && d.todo.any (fun u => u.2 == line)))

/-- Set the fill bits of lines into which nothing more has to land (R152), and give them to waiting streams. Where two copies in
flight write one line, the bit waits for both: R152 speaks of one copy (DESIGN CHOICE, notes/assumptions/74.md). -/
def State.fillLines (s : State) (bid h : Nat) (ls : List Nat) : State :=
  let done := ls.filter (fun l => !(s.lineComing bid h l))
  s.modBlock bid fun b =>
    (b.modTile h (fun t => done.foldl (fun t l => t.modLine l (fun x => { x with fill := true })) t)).sampleStreams

/-- Note elements just written in the older copies of the same engine that write the same tile (R165). -/
def State.noteOver (s : State) (c : Copy) (bid h : Nat) (es : List (Nat × Nat)) : State :=
  { s with copies := s.copies.map (fun o =>
      if o.cid < c.cid ∧ o.die = c.die ∧ o.core = c.core then
        { o with dsts := o.dsts.map (fun d =>
            if d.tileRef = some (bid, h) then { d with later := d.later ++ es } else d) }
      else o) }

/-- Change one destination of a copy. -/
def State.modDst (s : State) (cid di : Nat) (f : Dst → Dst) : State :=
  s.modCopy cid (fun c => { c with dsts := modAt c.dsts di f })

/-- Write the codes of a unit into a tile. -/
def Tile.putUnit (t : Tile) (late : List (Nat × Nat)) (xs : List ((Nat × Nat) × (Nat × Nat))) : Tile :=
  xs.foldl (fun t (p, x) =>
    if late.contains p then t
    else
      let t := t.setCode p.1 p.2 x.1
      if fmtBlock t.fmt then t.setScale p.1 p.2 x.2 else t) t

/-- The report of an engine operation's fault (R167, R311). -/
def State.opReport (s : State) (ctx die : Nat) (bid : Option Nat) (f : CopyFault) (ctr : Option CtrRef) (num : DWord)
    (target : RepTarget) (node : Option Nat := none) : State :=
  let b := bid.bind s.block?
  s.report ctx { Report.plain 1 f.f.code f.f.sub die f.va target with
    token := (b.map (·.token)).getD 0xFFFF, ctr := ctrField ctr, num := num,
    node := node.getD (((b.bind (fun b => s.launch? b.lid)).map (·.node)).getD 0) }

/-- The launch node of a work entry (R311): that of the graph which started it, or of the launch which posted it. -/
def WorkEnt.nodeIx (e : WorkEnt) : Nat := (e.node.map (·.2.2)).getD e.lnode

/-- The launch node of a work entry, by its number. -/
def State.entryNode (s : State) (eid : Nat) : Option Nat := (s.fab.entries.find? (·.eid == eid)).map WorkEnt.nodeIx

/-- A node's work is over with a status, at a time that its record will give (R294). -/
def Node.endWork (n : Node) (status now : Nat) : Node :=
  { n with status := status, workDone := true, finish := some (n.finish.getD now) }

/-- The block that posted a receive, and its launch's node. -/
def State.recvBlock (s : State) (rid : Nat) : Option Nat := (s.fab.recvs.find? (·.rid == rid)).map (·.bid)
def State.recvNode (s : State) (rid : Nat) : Option Nat := (s.fab.recvs.find? (·.rid == rid)).map (·.node)

/-- A copy meets a fault: it stalls at its line and is reported for its context (R167, R336). A held access only
waits (R339). -/
def State.stallCopy (s : State) (c : Copy) (f : CopyFault) : State :=
  if f.f.isHold then s else
  let s := s.modCopy c.cid (fun c => { c with stalled := true })
  match c.owner with
  | .landing rid => s.opReport c.ctx c.die (c.bid.or (s.recvBlock rid)) f c.ctr c.num (.recv rid) (s.recvNode rid)
  | .entry eid => s.opReport c.ctx c.die c.bid f c.ctr c.num (.entry eid) (s.entryNode eid)
  | .node _ _ n => s.opReport c.ctx c.die c.bid f c.ctr c.num (.copy c.cid) (some n)
  | .thread => s.opReport c.ctx c.die c.bid f c.ctr c.num (.copy c.cid)

/-- The site whose translation cache a copy uses (R191). -/
def Copy.site (c : Copy) : Nat := if c.core < 48 then c.die * 48 + c.core else engineSite c.die

/-- Land a whole line (R281, R270): a message's line in a tile, or a line of memory in memory. -/
def State.landWhole (s : State) (x : Context) (c : Copy) (di i : Nat) (d : Dst) : State :=
  let step (s : State) : State := s.modDst c.cid di (fun d =>
    { d with todo := d.todo.filter (· != (i, i)), elems := d.elems + 128 })
  match c.src, d.place with
  | .lines data _ _ _, .tile bid h _ _ =>
    let w := data.getD i { data := 0, side := 0 }
    let s1 := if d.later.contains (i, 0) then s else s.modTile bid h (fun t =>
      t.modLine i (fun l => { l with data := w.data, side := w.side, marked := false }))
    ((step ((s1.modTile bid h (fun t => { t with landed := t.landed + 128 })).noteOver c bid h [(i, 0)])).fillLines bid h [i])
  | .tensor src _, .tensor dst _ =>
    (match s.mapLines x c.site accCopyIn [src.base.toNat / 128 + i] with
     | (s1, .inl f) => s1.stallCopy c f
     | (s1, .inr m) => match s1.mapLines x c.site accCopyOut [dst.base.toNat / 128 + i] with
       | (s2, .inl f) => s2.stallCopy c f
       | (s2, .inr n) =>
         let w := s2.mem.wire (lineOf (m.pa (src.base.toNat + 128 * i)))
         step ((targets s2 (n.pa (dst.base.toNat + 128 * i))).foldl (fun s pa =>
           (s.putWire (lineOf pa) w).peerLine c.die (.copy c.cid) (lineOf pa) w) s2))
  | _, _ => step s

/-- The elements that a unit writes, and those that it reads: a rotation reads its whole groups (R161). -/
def Copy.unitElems (c : Copy) (d : Dst) (shape : Tile) (u : Nat × Nat) : List (Nat × List Nat × List Nat) :=
  (c.rowElems d u.1).filter (fun e => d.place.lineKey shape e.2.2 == u.2)
def Copy.unitReads (c : Copy) (d : Dst) (shape : Tile) (u : Nat × Nat) : List (Nat × List Nat × List Nat) :=
  let es := c.unitElems d shape u
  if c.xf = .rhad then (c.rowElems d u.1).filter (fun e => es.any (fun y => y.1 / 64 == e.1 / 64)) else es

/-- Land one unit of a copy at a destination (R152, R160, R161, R167): its elements, its scales, its fill bit and the
landed count; a fault of any access stalls the copy with nothing of the unit landed. R165 says of elements which of two copies
remains, and of a row's m and l nothing: those of whichever unit of m and l lands last remain (DESIGN CHOICE,
notes/assumptions/79.md). -/
def State.landUnit (s : State) (x : Context) (c : Copy) (di : Nat) (d : Dst) (u : Nat × Nat) : State :=
  let shape := (d.place.tile? s).getD Tile.free
  let dfmt := d.place.fmt s
  let es := c.unitElems d shape u
  let need := c.unitReads d shape u
  let srcLines := match c.src with
    | .tensor l _ => l.linesOf (need.map (·.2.1))
    | _ => []
  let dstLines := match d.place with
    | .tensor l _ => l.linesOf (es.map (·.2.2))
    | _ => []
  match s.mapLines x c.site accCopyIn srcLines with
  | (s1, .inl f) => s1.stallCopy c f
  | (s1, .inr sm) => match s1.mapLines x c.site accCopyOut dstLines with
    | (s2, .inl f) => s2.stallCopy c f
    | (s2, .inr dm) =>
      let w := fmtWidth dfmt
      let codes := c.codes s2 d shape sm u.1 dfmt es
      let grow := ceilDiv ((d.elems + es.length) * w) 8 - ceilDiv (d.elems * w) 8
      let s3 := s2.modDst c.cid di (fun d =>
        { d with todo := d.todo.filter (· != u), elems := d.elems + es.length })
      match d.place with
      | .tensor l _ =>
        let out := es.zip codes
        let at_ := dstLines.map (fun k => lineOf (dm.pa (128 * k)))
        let cells := out.flatMap (fun (e, y) => (l.elem e.2.2).cells dm w y.1) ++
          (if fmtBlock l.fmt then at_.flatMap (padCells l.fmt) else [])
        let e : StoreEnt :=
          { ti := 0, cells := cells,
            sides := if fmtBlock l.fmt then
                (out.map (fun (e, y) =>
                  (lineOf (dm.pa (l.elem e.2.2).blk) * 8 + (l.elem e.2.2).side, BitVec.ofNat 8 y.2))).eraseDups ++
                  at_.flatMap (padSides l.fmt)
              else [],
            lines := if s3.mem.marks = [] then [] else at_.filter (coversLine cells), pay := [], nblk := 0 }
        (s3.performStore e).sendStore c.die (.copy c.cid) e
      | .tile bid h row0 _ =>
        let ps := es.map (fun e => (e.2.2.getD 0 0, e.2.2.getD 1 0))
        let ml := shape.rows * shape.pitch ≤ u.2
        let put (t : Tile) : Tile :=
          if ml then match c.src with
            | .tile sb sh srow _ => t.setMl (row0 + u.1) ((s2.tile sb sh).m (srow + u.1)) ((s2.tile sb sh).l (srow + u.1))
            | _ => t
          else
            let t := t.putUnit d.later (ps.zip codes)
            let t := { t with landed := t.landed + grow }
            if es.length = eplOf dfmt then t.modLine u.2 (fun l => { l with marked := false }) else t
        ((s3.modTile bid h put).noteOver c bid h ps).fillLines bid h [u.2]
      | .lines _ _ _ _ => s3

/-- Whether a line of a tile source that a unit reads is marked (R336): those of its elements, or for the unit of m and l
their line; and of a message whether it came with an error (R283). -/
def Copy.markedSource (s : State) (c : Copy) (d : Dst) (u : Nat × Nat) : Bool :=
  let shape := (d.place.tile? s).getD Tile.free
  let rowMarked (t : Tile) : Bool :=
    (c.unitReads d shape u).any (fun e => (t.line (t.lineIx (e.2.1.getD 0 0) (e.2.1.getD 1 0))).marked)
  match c.src with
  | .tile bid h _ _ =>
    let t := s.tile bid h
    match d.place with
    | .tile _ _ _ _ =>
      if shape.rows * shape.pitch ≤ u.2 then
        (match c.src with
         | .tile _ _ srow _ => (t.line (t.mlLine (srow + u.1))).marked
         | _ => false)
      else rowMarked t
    | _ => rowMarked t
  | .lines _ fmt cols bad =>
    if c.xf = .lines then bad.contains u.1
    else (c.unitReads d shape u).any (fun e => bad.contains (e.2.1.getD 0 0 * pitchOf fmt cols + e.2.1.getD 1 0 / eplOf fmt))
  | _ => false

/-- A copy stalls at a marked line of its source (R336); a receive notes the data error (R283). -/
def State.stallMarked (s : State) (c : Copy) : State :=
  let s := s.stallCopy c ⟨⟨.dataerr, 0⟩, 0⟩
  match c.owner with
  | .landing rid => s.modFab fun f => { f with recvs := f.recvs.map (fun r => if r.rid = rid then { r with flags := r.flags ||| 16 } else r) }
  | _ => s

/-- LINE_LANDED (R152, R160, R167): enabled for an accepted destination of a copy that is not stalled. The lines of a destination land
in the order of its box, so that a fault is that of the first line that still has to land (R167, R368; DEDUCED,
notes/assumptions/19.md). -/
def opLineLanded (cid di unit : Nat) (s : State) : State :=
  match s.copy? cid with
  | some c =>
    match c.dsts[di]?, s.ctx? c.ctx with
    | some d, some x =>
      (match d.todo[unit]? with
      | some u =>
        if unit ≠ 0 ∨ d.st ≠ .accepted ∨ c.stalled ∨ c.abandoned then s
        else if c.markedSource s d u then s.stallMarked c
        else if c.xf = .lines then s.landWhole x c di u.1 d
        else s.landUnit x c di d u
      | none => s)
    | _, _ => s
  | none => s

/-! ### Acceptance, completion -/

/-- A tile accepts a copy or landing that will write some of its lines (R151, R152, R172). -/
def Tile.accept (t : Tile) (ls : List Nat) : Tile :=
  let fresh := t.st == .empty
  { t with
    st := .filling, fills := t.fills + 1,
    landed := if t.st = .filling then t.landed else 0,
    lines := t.lines.zipIdx.map (fun (l, i) =>
      { l with fill := if ls.contains i then false else (l.fill || fresh) }) }

/-- A destination tile accepts; the lines that become filled are read by the streams that wait for them (R152, R174). -/
def State.acceptDst (s : State) (cid di bid h : Nat) (d : Dst) : State :=
  ((s.modDst cid di (fun d => { d with st := .accepted })).modTile bid h (·.accept (d.todo.map (·.2)))).sampleStreams bid

/-- A destination is dropped (R166, R281): its share counts as complete. -/
def State.dropDst (s : State) (c : Copy) (di : Nat) (d : Dst) : State :=
  let s := s.modDst c.cid di (fun d => { d with st := .dropped, todo := [] })
  match c.owner, c.bid, c.handle, d.pos with
  | .landing rid, _, _, _ => s.modFab fun f =>
      { f with recvs := f.recvs.map (fun r => if r.rid = rid then { r with flags := r.flags ||| 8 } else r) }
  | _, some bid, some h, some i => s.modTile bid h (fun t => { t with drop := t.drop ||| BitVec.ofNat 8 (2 ^ i) })
  | _, _, _, _ => s

/-- Whether two tiles have the shape that a multicast needs (R166). -/
def sameShape (a b : Tile) : Bool := a.rows == b.rows && a.cols == b.cols && a.fmt == b.fmt && a.kind == b.kind

/-- The arrival of a copy or landing at a tile (R166, R281): accepted, held or dropped. -/
def State.arrive (s : State) (c : Copy) (di : Nat) (d : Dst) : State :=
  match d.place with
  | .tile bid h _ _ =>
    let t := s.tile bid h
    let gone := ((s.block? bid).map (fun b => b.status == .ended)).getD true
    let fits := match c.owner, c.bid, c.handle with
      | .landing _, _, _ => t.kind == 0
      | _, some ib, some ih => sameShape t (s.tile ib ih) && t.level
      | _, _, _ => true
    if gone ∨ fits = false ∨ t.st = .free ∨ t.st = .engaged then s.dropDst c di d
    else if t.st = .draining ∨ 255 ≤ t.fills then s.modDst c.cid di (fun d => { d with st := .held })
    else s.acceptDst c.cid di bid h d
  | _ => s.modDst c.cid di (fun d => { d with st := .accepted })

/-- MC_ARRIVAL (R166). -/
def opMcArrival (cid di : Nat) (s : State) : State :=
  match s.copy? cid with
  | some c => match c.dsts[di]? with
    | some d => if d.st = .coming ∧ c.abandoned = false then s.arrive c di d else s
    | none => s
  | none => s

/-- LANDING_ACCEPT_AFTER_DRAIN (R166, R281): the held landing is checked again once nothing drains. -/
def opLandingAccept (cid di : Nat) (s : State) : State :=
  match s.copy? cid with
  | some c => match c.dsts[di]? with
    | some d => if d.st = .held ∧ c.abandoned = false then s.arrive c di d else s
    | none => s
  | none => s

/-- Whether a copy has nothing left to do (R160, R163, R167). -/
def Copy.isDone (c : Copy) : Bool :=
  c.abandoned || (!c.stalled && c.dsts.all (fun d => d.st == .dropped || (d.st == .accepted && d.todo == [])))

/-- Whether a copy has nothing left to do and the homes of its lines in other packages have acknowledged them (R163, R252). -/
def State.copyDone (s : State) (c : Copy) : Bool := c.isDone && !(s.writesOpen (.copy c.cid))

/-- The fill count of a destination falls (R163 step 1). -/
def Tile.fillDone (t : Tile) : Tile :=
  let n := t.fills - 1
  { t with fills := n, st := if n = 0 ∧ t.st = .filling then .ready else t.st }

/-- A drain ends (R163 step 2). -/
def Tile.drainDone (t : Tile) : Tile :=
  let n := t.drains - 1
  { t with drains := n, st := if n = 0 ∧ t.st = .draining then .ready else t.st }

/-- A drain begins (R151, R162). -/
def Tile.drainBegin (t : Tile) : Tile := { t with drains := t.drains + 1, st := .draining }

/-- Drop the blocks that have ended and whose tiles no copy or message touches (R169). -/
def State.reapBlocks (s : State) : State :=
  let busy (bid : Nat) : Bool :=
    s.copies.any (fun c => c.bid == some bid || c.dsts.any (fun d => (d.tileRef.map (·.1)) == some bid) ||
      (match c.src with
       | .tile b _ _ _ => b == bid
       | _ => false)) ||
    s.fab.msgs.any (fun m => (m.tile.map (·.1)) == some bid) ||
    s.mats.any (fun u => u.queue.any (·.bid == bid))
  { s with blocks := s.blocks.filter (fun b => b.status != .ended || busy b.bid) }

/-- The tiles of a finished copy (R163 steps 1 and 2), and the copy leaves. -/
def State.finishTiles (s : State) (c : Copy) : State :=
  let s := c.dsts.foldl (fun s d => match d.st, d.tileRef with
    | .accepted, some (bid, h) => s.modTile bid h Tile.fillDone
    | _, _ => s) s
  let s := match c.src with
    | .tile bid h _ _ => s.modTile bid h Tile.drainDone
    | _ => s
  { s with copies := s.copies.filter (fun o => o.cid != c.cid) }

/-- COPY_COMPLETE (R163) of a thread's copy: tiles, then the counter. -/
def opCopyComplete (cid : Nat) (s : State) : State :=
  match s.copy? cid with
  | some c =>
    if s.copyDone c = false then s
    else match c.owner with
    | .thread => ((s.finishTiles c).doneNum c.ctx c.die c.bid c.ctr c.num).reapBlocks
    | .node die q node =>
      { s.finishTiles c with queues := s.queues.map (fun x =>
          if x.die = die ∧ x.q = q then
            { x with graph := x.graph.map (fun g =>
                { g with nodes := g.nodes.map (fun n => if n.idx = node then n.endWork 0 s.plat.time else n) }) }
          else x) }
    | _ => s
  | none => s

/-- Abandon a copy (R167): aborted bits, and the lines it will not land count as filled for waiting streams. -/
def State.abandonCopy (s : State) (cid : Nat) : State :=
  match s.copy? cid with
  | some c =>
    let s := s.modCopy cid (fun c => { c with abandoned := true, stalled := false, short := true })
    let s := match c.src with
      | .tile bid h _ _ => s.modTile bid h (fun t => { t with aborted := true })
      | _ => s
    c.dsts.foldl (fun s d => match d.st, d.tileRef with
      | .accepted, some (bid, h) =>
        (s.modTile bid h (fun t => { t with aborted := true })).fillLines bid h ((d.todo.map (·.2)).eraseDups)
      | _, _ => s) s
  | none => s

/-! ### The copy instructions -/

/-- What the checks of a copy give for one thread: a trap with its `$taddr`, a wait, or the copy's parts. -/
inductive CopyPlan where
  | trap (f : MemFault) (addr : DWord)
  | wait (c : Cond)
  | go (src : Place) (box : List Nat) (dsts : List Dst) (handle : Option Nat)
  deriving DecidableEq, Repr

/-- The transformation that xf names (R155). -/
def xfOf (x : FormX) : Xf :=
  match x.fld 50 49 with
  | 0 => .raw
  | 1 => .cvt
  | _ => .rhad

/-- A window, coordinate or record group: `n` registers from a specifier aligned as R134 gives; 0xFF reads as zeros
(R41, R155). -/
def cgrp (s n : Nat) : Opd := { spec := s, n := n, al := n, rd := true }

def cpyinSig (x : FormX) : Sig :=
  { x.sig (ctrOk x && x.fld 50 49 != 3) [src x.a.toNat 2, cgrp x.b.toNat 8, src x.c.toNat] with
    specOk := handleOk x.d.toNat }

def cpyoutSig (x : FormX) : Sig :=
  { x.sig (ctrOk x && x.fld 50 49 != 3) [src x.a.toNat 2, cgrp x.b.toNat 8, noneAt x.c.toNat] with
    specOk := handleOk x.d.toNat }

def cpyttSig (x : FormX) : Sig :=
  { x.sig (ctrOk x && x.fld 50 49 ≤ 1) [cgrp x.b.toNat 4, src x.c.toNat] with
    specOk := handleOk x.d.toNat && handleOk x.a.toNat }

def cpyggSig (x : FormX) : Sig :=
  x.sig (ctrOk x && x.fld 50 49 != 3) [src x.a.toNat 2, cgrp x.b.toNat 8, cgrp x.c.toNat 8, src x.d.toNat 2]

def stashSig (x : FormX) : Sig :=
  { x.sig (ctrOk x && x.fld 50 49 ≤ 1) [src x.a.toNat 2, cgrp x.b.toNat 2, noneAt x.c.toNat] with
    specOk := handleOk x.d.toNat }

/-- A record read by a thread, like a load (R162 step 3, R192, R278, R271): `n` bytes at an address that is a multiple of
`al`, which is judged first. A record lies in one line (notes/assumptions/11.md). -/
def State.readRecord (s : State) (i : Iss) (ea : DWord) (n al : Nat) : State × (MemFault ⊕ List Byte) :=
  if ea.toNat % al ≠ 0 then (s, .inl ⟨.misalign, 2⟩)
  else match s.reach i ea accLoad with
  | (s1, .inl f) => (s1, .inl f)
  | (s1, .inr p) =>
    if s1.mem.marked (lineOf p.pa) then (s1, .inl ⟨.dataerr, 0⟩)
    else
      let s2 := s1.touchRange p.pa n
      (s2, .inr (s2.mem.bytes p.pa n))

/-- The check of a layout record that has been read (R157). -/
def layoutOf (r : List Byte) : CopyFault ⊕ Layout :=
  match parseLayout r with
  | .inl f => .inl ⟨f, 0⟩
  | .inr l => .inr l

/-- Read and check a layout record for a thread (R157, R162). -/
def State.readLayout (s : State) (i : Iss) (ea : DWord) : State × (CopyFault ⊕ Layout) :=
  match s.readRecord i ea 128 128 with
  | (s1, .inl f) => (s1, .inl ⟨f, ea⟩)
  | (s1, .inr r) => (s1, layoutOf r)

/-- Read the two layout records of `cpygg` or `stash`, and then check them (R162 step 3). No rule states which is read and
checked first: the model takes that of a, or P (DESIGN CHOICE, notes/assumptions/71.md). -/
def State.readLayouts (s : State) (i : Iss) (ea eb : DWord) : State × (CopyFault ⊕ (Layout × Layout)) :=
  match s.readRecord i ea 128 128 with
  | (s1, .inl f) => (s1, .inl ⟨f, ea⟩)
  | (s1, .inr r) => match s1.readRecord i eb 128 128 with
    | (s2, .inl f) => (s2, .inl ⟨f, eb⟩)
    | (s2, .inr q) => match layoutOf r, layoutOf q with
      | .inl f, _ => (s2, .inl f)
      | _, .inl f => (s2, .inl f)
      | .inr a, .inr b => (s2, .inr (a, b))

/-- The formats that a copy's xf permits (R161, R129). -/
def xfFate (xf : Xf) (slot : DWord) (sfmt : Nat) (dfmts : List Nat) : Option MemFault :=
  if xf = .raw then (if dfmts.all (· == sfmt) then none else some ⟨.format, 3⟩)
  else (fmtFate (some slot) [] true).map (fun n => ⟨.format, n⟩)

/-- The mask checks (R162 step 2). -/
def maskFate (b : Block) (m : Nat) : Option MemFault :=
  if 256 ≤ m then some ⟨.mcmask, 3⟩
  else if m = 0 then some ⟨.mcmask, 2⟩
  else if (List.range 8).any (fun i => m.testBit i && !(b.bmask.testBit i)) then some ⟨.mcmask, 1⟩
  else none

def newDst (p : Place) (pos : Option Nat) (turned : Bool := false) : Dst :=
  { place := p, pos := pos, st := if pos = none then .accepted else .coming, todo := [], turned := turned, elems := 0,
    later := [] }

/-- The destinations of a copy into tiles (R166): the own core's where its bit is set or there is no mask, and the
blocks at the other positions. A position whose block has ended and is gone keeps a destination, with a number that no
block has, so that the arrival drops it. -/
def tileDsts (s : State) (b : Block) (m : Option Nat) (h row0 col0 : Nat) : List Dst :=
  let own := (m.map (·.testBit b.pos)).getD true
  (if own then [newDst (.tile b.bid h row0 col0) none] else []) ++
    (match m with
    | some m => (List.range 8).filterMap (fun i =>
        if i ≠ b.pos ∧ m.testBit i then
          some (newDst (.tile (((s.blocks.find? (fun o => o.cid == b.cid && o.pos == i)).map (·.bid)).getD s.nextId)
            h row0 col0) (some i))
        else none)
    | none => [])

/-- The tile states of a role (R177's table), as (issue, park). -/
def ownDst : List TileState × List TileState := ([.empty, .ready, .filling], [.draining])
def farDst : List TileState × List TileState := ([.empty, .ready, .filling, .draining], [])
def srcTile : List TileState × List TileState := ([.ready, .draining], [.empty, .filling])

/-- Judge a handle's state for a role. -/
def roleFate (s : State) (b : Block) (h : Nat) (role : List TileState × List TileState) : Option CopyPlan :=
  match tileFate (s.tile b.bid h) role.1 role.2 with
  | .go => none
  | .wait => some (.wait (.tileNot h role.2))
  | .trap c n => some (.trap ⟨c, n⟩ 0)

/-- Judge the handles of a copy with two tiles, in the order of R153: FREE, then ENGAGED, then the states that park. -/
def rolesFate (ps : List (Option CopyPlan)) : Option CopyPlan :=
  let trapOf (c : TrapCode) (p : CopyPlan) : Bool := match p with
    | .trap f _ => f.code == c
    | _ => false
  let qs := ps.filterMap id
  (qs.find? (trapOf .tilestate)).or ((qs.find? (trapOf .token)).or qs.head?)

/-- Words of a register group. -/
def Rd.nats (r : Rd) (s n : Nat) : List Nat := (r.regs s n).map (·.toNat)

/-- Whether a box fits a tile at an origin (R159). -/
def boxFits (t : Tile) (row0 col0 : Nat) (box : List Nat) : Bool :=
  row0 + boxRows box ≤ t.rows && col0 + box.headD 0 ≤ t.cols

/-- `cpyin` (R178): checks of R162. -/
def planCpyin (x : FormX) (s : State) (i : Iss) (r : Rd) : State × CopyPlan :=
  let h := x.d.toNat
  let m := if x.c.toNat = 0xFF then none else some (r.r x.c.toNat).toNat
  let own := (m.map (·.testBit i.blk.pos)).getD true
  match roleFate s i.blk h (if own then ownDst else farDst) with
  | some p => (s, p)
  | none => match m.bind (maskFate i.blk) with
    | some f => (s, .trap f 0)
    | none => match s.readLayout i (r.pair x.a.toNat) with
      | (s1, .inl f) => (s1, .trap f.f f.va)
      | (s1, .inr l) =>
        let o := r.nats x.b.toNat 8
        let (row0, col0) := coordOf (BitVec.ofNat 32 (o.getD 7 0))
        let t := s1.tile i.blk.bid h
        if !(dim0Ok l (o.getD 0 0) col0 (fmtBlock l.fmt || fmtBlock t.fmt) (xfOf x == .rhad)) then
          (s1, .trap ⟨.layout, 4⟩ 0)
        else if !(boxFits t row0 col0 l.win) then (s1, .trap ⟨.tilebound, 2⟩ 0)
        else match xfFate (xfOf x) (slotOf i.blk.slots (x.fld 48 46)) l.fmt [t.fmt] with
        | some f => (s1, .trap f 0)
        | none => (s1, .go (.tensor l (o.take 7)) l.win (tileDsts s1 i.blk m h row0 col0) (m.map (fun _ => h)))

/-- `cpyout` (R179). -/
def planCpyout (x : FormX) (s : State) (i : Iss) (r : Rd) : State × CopyPlan :=
  let h := x.d.toNat
  match roleFate s i.blk h srcTile with
  | some p => (s, p)
  | none => match s.readLayout i (r.pair x.a.toNat) with
    | (s1, .inl f) => (s1, .trap f.f f.va)
    | (s1, .inr l) =>
      let o := r.nats x.b.toNat 8
      let (row0, col0) := coordOf (BitVec.ofNat 32 (o.getD 7 0))
      let t := s1.tile i.blk.bid h
      if !(dim0Ok l (o.getD 0 0) col0 (fmtBlock l.fmt || fmtBlock t.fmt) (xfOf x == .rhad)) then
        (s1, .trap ⟨.layout, 4⟩ 0)
      else if !(boxFits t row0 col0 l.win) then (s1, .trap ⟨.tilebound, 2⟩ 0)
      else match xfFate (xfOf x) (slotOf i.blk.slots (x.fld 48 46)) t.fmt [l.fmt] with
      | some f => (s1, .trap f 0)
      | none => (s1, .go (.tile i.blk.bid h row0 col0) l.win [newDst (.tensor l (o.take 7)) none] none)

/-- `cpytt` (R180). With d equal to a on the own core it traps before any other state of the tile is judged, an order which no
rule states (DESIGN CHOICE, notes/assumptions/71.md). -/
def planCpytt (x : FormX) (s : State) (i : Iss) (r : Rd) : State × CopyPlan :=
  let hd := x.d.toNat
  let hs := x.a.toNat
  let m := if x.c.toNat = 0xFF then none else some (r.r x.c.toNat).toNat
  let own := (m.map (·.testBit i.blk.pos)).getD true
  if own ∧ hd = hs then (s, .trap ⟨.tilestate, 1⟩ 0)
  else match rolesFate [roleFate s i.blk hd (if own then ownDst else farDst), roleFate s i.blk hs srcTile] with
  | some p => (s, p)
  | none => match m.bind (maskFate i.blk) with
    | some f => (s, .trap f 0)
    | none =>
      let q := r.nats x.b.toNat 4
      let (srow, scol) := coordOf (BitVec.ofNat 32 (q.getD 0 0))
      let (drow, dcol) := coordOf (BitVec.ofNat 32 (q.getD 1 0))
      let (rows, cols) := coordOf (BitVec.ofNat 32 (q.getD 2 0))
      let ts := s.tile i.blk.bid hs
      let td := s.tile i.blk.bid hd
      let odd : Bool := (fmtBlock ts.fmt || fmtBlock td.fmt) && (scol % 32 != 0 || dcol % 32 != 0 || cols % 32 != 0)
      if rows = 0 ∨ cols = 0 ∨ !(boxFits ts srow scol [cols, rows]) ∨ !(boxFits td drow dcol [cols, rows]) then
        (s, .trap ⟨.tilebound, 2⟩ 0)
      else if odd then (s, .trap ⟨.tilebound, 3⟩ 0)
      else match xfFate (xfOf x) (slotOf i.blk.slots (x.fld 48 46)) ts.fmt [td.fmt] with
      | some f => (s, .trap f 0)
      | none => (s, .go (.tile i.blk.bid hs srow scol) [cols, rows] (tileDsts s i.blk m hd drow dcol) (m.map (fun _ => hd)))

/-- The plan of a copy from tensor to tensor (R181), once both records are read. Windows that differ trap before an alignment
does, an order which no rule states (DESIGN CHOICE, notes/assumptions/71.md). -/
def ggPlan (xf : Xf) (slot : DWord) (ls ld : Layout) (so do_ : List Nat) : CopyPlan :=
  let blk := fmtBlock ls.fmt || fmtBlock ld.fmt
  if ls.win ≠ ld.win then .trap ⟨.layout, 5⟩ 0
  else if !(dim0Ok ls (so.getD 0 0) 0 blk (xf == .rhad)) ∨ !(dim0Ok ld (do_.getD 0 0) 0 blk (xf == .rhad)) then
    .trap ⟨.layout, 4⟩ 0
  else match xfFate xf slot ls.fmt [ld.fmt] with
  | some f => .trap f 0
  | none => .go (.tensor ls so) ls.win [newDst (.tensor ld do_) none] none

/-- `cpygg` (R181). -/
def planCpygg (x : FormX) (s : State) (i : Iss) (r : Rd) : State × CopyPlan :=
  match s.readLayouts i (r.pair x.a.toNat) (r.pair x.d.toNat) with
  | (s1, .inl f) => (s1, .trap f.f f.va)
  | (s1, .inr (ls, ld)) =>
    (s1, ggPlan (xfOf x) (slotOf i.blk.slots (x.fld 48 46)) ls ld (r.nats x.b.toNat 7) (r.nats x.c.toNat 7))

/-- `stash` (R182). Windows or sampling that differ trap before an alignment does, an order which no rule states (DESIGN CHOICE,
notes/assumptions/71.md). -/
def planStash (x : FormX) (s : State) (i : Iss) (r : Rd) : State × CopyPlan :=
  let h := x.d.toNat
  match roleFate s i.blk h srcTile with
  | some p => (s, p)
  | none => match s.readLayouts i (r.pair x.a.toNat) (r.pair x.a.toNat + 128) with
      | (s2, .inl f) => (s2, .trap f.f f.va)
      | (s2, .inr (p, q)) =>
        let t := s2.tile i.blk.bid h
        let ri := (r.r x.b.toNat).toNat
        let ci := (r.r (x.b.toNat + 1)).toNat
        let blk := fmtBlock t.fmt || fmtBlock p.fmt || fmtBlock q.fmt
        if p.win ≠ [t.cols, t.rows] ∨ q.win ≠ [t.rows, t.cols] ∨ p.samp ≠ [1, 1] ∨ q.samp ≠ [1, 1] then
          (s2, .trap ⟨.layout, 5⟩ 0)
        else if !(dim0Ok p ci 0 blk false) ∨ !(dim0Ok q ri 0 blk false) then (s2, .trap ⟨.layout, 4⟩ 0)
        else match xfFate (xfOf x) (slotOf i.blk.slots (x.fld 48 46)) t.fmt [p.fmt, q.fmt] with
        | some f => (s2, .trap f 0)
        | none =>
          if xfOf x = .raw ∧ blk then (s2, .trap ⟨.format, 3⟩ 0)
          else (s2, .go (.tile i.blk.bid h 0 0) p.win
            [newDst (.tensor p [ci, ri]) none, newDst (.tensor q [ri, ci]) none true] none)

/-- Copies that a core's engine holds (R162 step 5). -/
def State.copiesAt (s : State) (die core : Nat) : Nat :=
  (s.copies.filter (fun c => c.owner == .thread && c.die == die && c.core == core)).length

/-- Start a copy: the units of each destination, the own core's acceptance and the source's drain (R162, R166). -/
def State.startCopy (s : State) (c : Copy) : State :=
  let shapeOf (d : Dst) : Tile := match d.pos, c.bid, c.handle with
    | some _, some bid, some h => s.tile bid h
    | _, _, _ => (d.place.tile? s).getD Tile.free
  let ds := c.dsts.map (fun d => { d with todo := c.units s d (shapeOf d) })
  let s := { s with copies := s.copies ++ [{ c with dsts := ds }] }
  let s := match c.src with
    | .tile bid h _ _ => s.modTile bid h Tile.drainBegin
    | _ => s
  ds.foldl (fun s d => match d.st, d.tileRef with
    | .accepted, some (bid, h) => s.modTile bid h (·.accept (d.todo.map (·.2)))
    | _, _ => s) s

/-- One thread's copy (R162): its checks in order, then room, then the number and the start. -/
def copyThread (x : FormX) (sig : Sig) (plan : State → Iss → Rd → State × CopyPlan) (i : Iss) (ti : Nat) (s : State) :
    State :=
  match s.thread? i.blk.bid ti with
  | none => s
  | some t => s.afterReds i.blk.bid ti <|
    match plan (s.drainOf i.blk.bid ti) i (t.rd i.warp.w) with
    | (s1, .trap f a) => s1.memFault i ti f a
    | (s1, .wait c) => s1.waitThread i.blk.bid ti c
    | (s1, .go src box dsts handle) =>
      let full := dsts.any (fun d => d.pos == none &&
        (match d.place with
         | .tile bid h _ _ => 255 ≤ (s1.tile bid h).fills
         | _ => false))
      if 64 ≤ s1.copiesAt i.blk.die i.blk.core then s1.waitThread i.blk.bid ti .copyRoom
      else if full then s1.waitThread i.blk.bid ti (.fillRoom x.d.toNat)
      else
        let ctr := FormX.ctr x
        let (num, s2) := s1.takeNum i.ctx.num i.blk.die (some i.blk.bid) ctr
        let (cid, s3) := s2.fresh
        (s3.startCopy
          { cid := cid, clus := i.blk.cid, handle := handle, die := i.blk.die, bay := i.blk.bay, core := i.blk.core,
            bid := some i.blk.bid, lid := some i.blk.lid, ctx := i.ctx.num, owner := .thread, key := i.blk.seed,
            slot := slotOf i.blk.slots (x.fld 48 46), xf := xfOf x, src := src, box := box, dsts := dsts,
            ctr := some ctr, num := num, stalled := false, abandoned := false, short := false }).pass sig i.blk.bid ti

def opCpyin (x : FormX) (s : State) : State := s.runFold (cpyinSig x) (copyThread x (cpyinSig x) (planCpyin x))
def opCpyout (x : FormX) (s : State) : State := s.runFold (cpyoutSig x) (copyThread x (cpyoutSig x) (planCpyout x))
def opCpytt (x : FormX) (s : State) : State := s.runFold (cpyttSig x) (copyThread x (cpyttSig x) (planCpytt x))
def opCpygg (x : FormX) (s : State) : State := s.runFold (cpyggSig x) (copyThread x (cpyggSig x) (planCpygg x))
def opStash (x : FormX) (s : State) : State := s.runFold (stashSig x) (copyThread x (stashSig x) (planStash x))

end Sys2Proof.Machine
end

