-- ==== Sys2Proof/Machine/Matrix.lean ====
section
/-! DEFINITION. The matrix unit (R223, R224), the arithmetic of `mma` and of the ridge operations (R234 to R236, R239
to R245), and the instructions on tokens and ridge tiles (R237, R239 to R245). -/

namespace Sys2Proof.Machine

open Sys2Proof

/-! ### The unit and its queue -/

/-- The matrix unit of a core. -/
def State.mat (s : State) (die core : Nat) : MatUnit :=
  (s.mats.find? (fun u => u.die == die && u.core == core)).getD { die := die, core := core, queue := [], waiting := [] }

/-- Change the matrix unit of a core. -/
def State.modMat (s : State) (die core : Nat) (f : MatUnit → MatUnit) : State :=
  { s with mats := f (s.mat die core) :: s.mats.filter (fun u => !(u.die == die && u.core == core)) }

/-- Entries of the queue (R223). -/
def matQueueSize : Nat := 8

/-! ### Fragments -/

/-- The codes of one row of A, or column of B, as the members hold them (R235): group κ, member 4Q + s. -/
def fragCodes (b : Block) (members : List Nat) (base w width groups i : Nat) : List Nat :=
  (List.range groups).flatMap fun g => (List.range 4).flatMap fun m =>
    match (members[4 * (i / 4) + m]?).bind (fun ti => b.threads[ti]?) with
    | some t => unpackCodes width 8 ((List.range w).map (fun k => t.v.getD (base + (i % 4 * groups + g) * w + k) 0))
    | none => []

/-- The scale bytes of one row of A, or column of B (R235): from k registers of the quad's lowest member. -/
def fragScales (b : Block) (members : List Nat) (kbase groups i : Nat) : List Nat :=
  (List.range groups).map fun g =>
    let n := i % 4 * groups + g
    match (members[4 * (i / 4)]?).bind (fun ti => b.threads[ti]?) with
    | some t => byteOf (t.k.getD (kbase + n / 4) 0) (n % 4)
    | none => 0

/-- Whether a register that an operation reads as it enters the queue is marked (R336). -/
def mmaMarked (b : Block) (c : Conv) (x : FormX) : Bool :=
  c.members.zipIdx.any (fun (ti, k) => (b.threads[ti]?).any (fun t =>
    (mmaReads x (mmaShape x b.slots) k).any (·.marked [] t)))

/-- The operation that a COMPLETE convergence register hands to the queue: its operands as its members hold them
now (R230, R235). -/
def captureMma (b : Block) (j : Nat) (c : Conv) (x : FormX) : MatOp :=
  let sh := mmaShape x b.slots
  let g := sh.k / 32
  let k := x.c.toNat - 0xC0
  .mma b.bid j x
    ((List.range sh.m).map (fragCodes b c.members x.a.toNat sh.wa (fmtWidth sh.fa) g))
    ((List.range sh.n).map (fragCodes b c.members x.b.toNat sh.wb (fmtWidth sh.fb) g))
    (if sh.block then (List.range sh.m).map (fragScales b c.members k g) else [])
    (if sh.block then (List.range sh.n).map (fragScales b c.members (k + sh.ka) g) else [])
    (mmaMarked b c x)

/-! ### Accumulation -/

/-- The value of an element without its scale (R236); NaN under the NaN scale. -/
def bareVal (fmt sc code : Nat) : Val :=
  if fmtBlock fmt then
    (if nanScale fmt sc then .nan
     else match elemOf fmt (scaleType fmt sc) with
     | some k => decodeElem k code
     | none => .nan)
  else plainVal fmt code

/-- The exact sum of some products. -/
def exactSum (vs : List Val) : Val := vs.foldl Val.add (.fin false 0 0)

/-- ⌊log2 |v|⌋ of a finite value that is not zero. -/
def floorLog2 : Val → Int
  | .fin _ m e => m.log2 + e
  | _ => 0

/-- A finite value truncated toward zero to a multiple of 2^u, in units of 2^u. -/
def truncUnits (v : Val) (u : Int) : Int :=
  match v with
  | .fin n m e =>
    let x : Int := if u ≤ e then (m <<< (e - u).toNat : Nat) else (m >>> (u - e).toNat : Nat)
    if n then -x else x
  | _ => 0

/-- The run of one element from its exact parts (R236). -/
def accRun (vs : List Val) : Val :=
  let infs := vs.filter Val.isInf
  if vs.any Val.isNan then .nan
  else if infs ≠ [] then exactSum infs
  else match vs.filter (fun v => !v.isZero) with
  | [] => .fin false 0 0
  | x :: xs =>
    let u := xs.foldl (fun e v => max e (floorLog2 v)) (floorLog2 x) - 40
    let n := ((x :: xs).map (truncUnits · u)).sum
    .fin (decide (n < 0)) n.natAbs u

/-- The parts of one element of the product: a value per group of 32, or per product for BF16 and FP16 (R236). -/
def mmaParts (sh : MmaShape) (a b sa sb : List Nat) : List Val :=
  if sh.block then
    (List.range (sh.k / 32)).map fun g =>
      let x := sa.getD g 0
      let y := sb.getD g 0
      (exactSum (((a.drop (32 * g)).take 32).zip ((b.drop (32 * g)).take 32) |>.map (fun (p, q) =>
        (bareVal sh.fa x p).mul (bareVal sh.fb y q)))).scale (scaleExp sh.fa x + scaleExp sh.fb y)
  else (a.zip b).map (fun (p, q) => (bareVal sh.fa 0 p).mul (bareVal sh.fb 0 q))

/-- `mma` on its accumulator tile (R234, R236). -/
def mmaTile (x : FormX) (sh : MmaShape) (a b sa sb : List (List Nat)) (t : Tile) : Tile :=
  (List.range sh.m).foldl (fun t i =>
    (List.range sh.n).foldl (fun t j =>
      let old : Val := if x.fld 49 49 = 1 then .fin false 0 0 else t.val i j
      let run := accRun (mmaParts sh (a.getD i []) (b.getD j []) (sa.getD i []) (sb.getD j []))
      t.setCode i j (rne32 (old.add run)).toNat) t) t

/-! ### Ridge arithmetic -/

def nanWord : Word := 0x7FC00000
def negInfWord : Word := 0xFF800000
def posInfWord : Word := 0x7F800000

/-- Set m, l and every sum of a row of a ridge tile. -/
def Tile.setRow (t : Tile) (i : Nat) (m l sum : Word) : Tile :=
  (List.range t.cols).foldl (fun t j => t.setCode i j sum.toNat) (t.setMl i m l)

/-- Write a row of values to a tile under a slot (R243, R245): plain elements are rounded; blocks take their scale
by the scale rule. -/
def Tile.putRow (t : Tile) (slot seed : DWord) (i : Nat) (vs : List Val) : Tile :=
  let mode (j : Nat) : RMode := slotMode slot seed (BitVec.ofNat 64 (i * t.cols + j))
  if fmtBlock t.fmt then
    vs.zipIdx.foldl (fun t (v, j) =>
      let sc := scaleRule (amaxOf ((vs.drop (j / 32 * 32)).take 32)) t.fmt (slotAx4 slot)
      (t.setCode i j (quantise t.fmt sc (mode j) true v)).setScale i j sc) t
  else match elemOf t.fmt 0 with
  | some k => vs.zipIdx.foldl (fun t (v, j) => t.setCode i j (roundElem k (mode j) (slotSat slot) v)) t
  | none => t

/-- exp2a of a rounded difference (R243, R244). -/
def exp2aDiff (x m : Word) : Word := exp2a (rne32 ((f32 x).add (f32 m).negate))

/-- The larger of two FP32 values (R103). -/
def maxWord (a b : Word) : Word := BitVec.ofNat 32 (minMax fp32 true a.toNat b.toNat)

/-- FP32 product with one rounding. -/
def mulWord (a b : Word) : Word := rne32 ((f32 a).mul (f32 b))

/-- Whether a score is unmasked (R242). -/
def unmasked (mask : Nat) (word : Word) (len : Word) (i j : Nat) : Bool :=
  match mask with
  | 0 => true
  | 1 => decide ((j : Int) ≤ i + word.toInt)
  | _ => decide ((j : Int) < len.toInt)

/-- One row of `smxupd` (R243): the ridge tile and the probability tile after it. -/
def updRow (slot seed : DWord) (sigma : Word) (mask : Nat) (word len : Word) (ts : Tile) (i : Nat)
    (op : Tile × Tile) : Tile × Tile :=
  let (o, p) := op
  let n := ts.cols
  let x : List Word := (List.range n).map (fun j => mulWord sigma (BitVec.ofNat 32 (ts.code i j)))
  let use (j : Nat) : Bool := unmasked mask word len i j
  let xu := (x.zipIdx.filter (fun y => use y.2)).map (·.1)
  let m0 := o.m i
  let l0 := o.l i
  if (sigma :: m0 :: l0 :: xu).any (fun w => (f32 w).isNan) ∨ (m0 :: xu).contains posInfWord then
    (o.setRow i nanWord nanWord nanWord, p.putRow slot seed i (List.replicate n .nan))
  else
    let m1 := xu.foldl maxWord m0
    if m1 = negInfWord then (o.setRow i negInfWord 0 0, p.putRow slot seed i (List.replicate n (.fin false 0 0)))
    else
      let p1 := p.putRow slot seed i (x.zipIdx.map (fun (w, j) => if use j then f32 (exp2aDiff w m1) else .fin false 0 0))
      let alpha := exp2aDiff m0 m1
      let o1 := if m0 = negInfWord then o.setRow i m0 0 0
        else (List.range o.cols).foldl (fun t j => t.setCode i j (mulWord (BitVec.ofNat 32 (o.code i j)) alpha).toNat) o
      let l1 := if m0 = negInfWord then 0 else mulWord l0 alpha
      let l2 := (List.range n).foldl (fun l j => rne32 ((f32 l).add (p1.val i j))) l1
      (o1.setMl i m1 l2, p1)

/-- One row of `smxmrg` (R244). -/
def mrgRow (ta : Tile) (i : Nat) (td : Tile) : Tile :=
  let ma := td.m i
  let la := td.l i
  let mb := ta.m i
  let lb := ta.l i
  if [ma, mb, la, lb].any (fun w => (f32 w).isNan) ∨ ma = posInfWord ∨ mb = posInfWord then
    td.setRow i nanWord nanWord nanWord
  else
    let m := maxWord ma mb
    if m = negInfWord then td.setRow i negInfWord 0 0
    else
      let wa : Word := if ma = negInfWord then 0 else exp2aDiff ma m
      let wb : Word := if mb = negInfWord then 0 else exp2aDiff mb m
      let fused (x y : Word) : Word := rne32 (((f32 x).mul (f32 wa)).add (f32 (mulWord y wb)))
      ((List.range td.cols).foldl (fun t j =>
        t.setCode i j (fused (BitVec.ofNat 32 (td.code i j)) (BitVec.ofNat 32 (ta.code i j))).toNat) td).setMl i m
        (fused la lb)

/-- One row of `smxfin` (R245): either zero makes a row empty. -/
def finRow (slot seed : DWord) (ta : Tile) (i : Nat) (td : Tile) : Tile :=
  let l := f32 (ta.l i)
  if l.isZero then { td.putRow slot seed i (List.replicate td.cols (.fin false 0 0)) with emptyRow := true }
  else
    let q : List Val := (List.range ta.cols).map (fun j => (f32 (BitVec.ofNat 32 (ta.code i j))).div l)
    td.putRow slot seed i (if fmtBlock td.fmt then q.map (fun v => f32 (rne32 v)) else q)

/-! ### Performing an operation -/

/-- The tile lines that an operation reads (R234, R241 to R245), as tile and line. -/
def MatOp.reads (b : Block) (op : MatOp) : List (Nat × Nat) :=
  let of (h : Nat) (ls : Tile → List Nat) : List (Nat × Nat) := (ls (b.tile h)).map (h, ·)
  let sums (t : Tile) : List Nat := t.windowLines t.rows t.cols
  let ridge (t : Tile) : List Nat := sums t ++ t.mlLines
  match op with
  | .mma _ _ x .. =>
    let sh := mmaShape x b.slots
    if x.fld 49 49 = 1 then [] else of x.d.toNat (·.windowLines sh.m sh.n)
  | .init .. => []
  | .upd _ d a _ mask _ _ w =>
    of d ridge ++ of a sums ++ (if mask = 2 then of (w.toNat % 64) (·.windowLines (b.tile d).rows 1) else [])
  | .merge _ d a => of d ridge ++ of a ridge
  | .fin _ _ a _ => of a ridge

/-- The tile lines that an operation writes. -/
def MatOp.writes (b : Block) (op : MatOp) : List (Nat × Nat) :=
  let of (h : Nat) (ls : Tile → List Nat) : List (Nat × Nat) := (ls (b.tile h)).map (h, ·)
  let sums (t : Tile) : List Nat := t.windowLines t.rows t.cols
  match op with
  | .mma _ _ x .. =>
    let sh := mmaShape x b.slots
    of x.d.toNat (·.windowLines sh.m sh.n)
  | .init _ d | .merge _ d _ => of d (fun t => sums t ++ t.mlLines)
  | .upd _ d _ p .. => of d (fun t => sums t ++ t.mlLines) ++ of p sums
  | .fin _ d .. => of d sums

/-- Whether a tile line is marked, and marking one (R335). -/
def Block.lineMarked (b : Block) (l : Nat × Nat) : Bool := ((b.tile l.1).line l.2).marked
def Block.markLine (b : Block) (l : Nat × Nat) : Block :=
  b.modTile l.1 (fun t => t.modLine l.2 (fun x => { x with marked := true }))

/-- What an operation writes into its block's tiles (R223). -/
def Block.perform (b : Block) (op : MatOp) : Block :=
  match op with
  | .mma _ _ x a c sa sb _ => b.modTile x.d.toNat (mmaTile x (mmaShape x b.slots) a c sa sb)
  | .init _ d => b.modTile d (fun t => (List.range t.rows).foldl (fun t i => t.setRow i negInfWord 0 0) t)
  | .upd _ d a p mask slot sigma word =>
    let r := (List.range (b.tile d).rows).foldl (fun op i =>
      updRow slot b.seed sigma mask word (BitVec.ofNat 32 ((b.tile (word.toNat % 64)).code i 0)) (b.tile a) i op)
      (b.tile d, b.tile p)
    (b.modTile d (fun _ => r.1)).modTile p (fun _ => r.2)
  | .merge _ d a => b.modTile d (fun t => (List.range t.rows).foldl (fun t i => mrgRow (b.tile a) i t) t)
  | .fin _ d a slot => b.modTile d (fun t => (List.range t.rows).foldl (fun t i => finRow slot b.seed (b.tile a) i t) t)

/-- Whether an operation read a marked register as it entered the queue (R336). -/
def MatOp.bad : MatOp → Bool
  | .mma _ _ _ _ _ _ _ bad => bad
  | _ => false

/-- An operation is performed; a line marked since its issue, or a register marked since its join, marks the lines of its result,
so that none of them is delivered as good data (R336; notes/assumptions/7.md). -/
def Block.performMarked (b : Block) (op : MatOp) : Block :=
  if op.bad || (op.reads b).any b.lineMarked then (op.writes b).foldl Block.markLine (b.perform op) else b.perform op

/-- Whether an operation in or waiting for a queue, or a register joining one, names a tile (R237). -/
def State.tileNamed (s : State) (bid h : Nat) : Bool :=
  s.mats.any (fun u =>
    u.queue.any (fun o => o.bid == bid && o.tiles.contains h) ||
    u.waiting.any (fun w => match w with
      | .ridge o _ _ => o.bid == bid && o.tiles.contains h
      | .conv _ _ => false)) ||
  ((s.block? bid).map (fun b => b.conv.any (fun c =>
    (c.st == .joining || c.st == .complete) && ((c.word.map (fun x => x.d.toNat == h)).getD false)))).getD false

/-- The threads parked in a `tacq` of a tile (R237). -/
def Block.takers (b : Block) (h : Nat) : List Nat :=
  (List.range b.threads.length).filter (fun ti => ((b.threads[ti]?).map (·.park)) == some (.retry (.tokenFree h)))

/-- A tile that is taken back becomes READY, and every thread parked for it is released with it (R237). -/
def State.tokenBack (s : State) (bid h : Nat) : State :=
  let ts := ((s.block? bid).map (·.takers h)).getD []
  ts.foldl (fun s ti => (s.drainOf bid ti).modThread bid ti Thread.performed)
    (s.modTile bid h (fun t => { t with st := .ready }))

/-- The tiles of an operation that has left the queue go to the threads parked for them, once nothing names them (R237). -/
def State.tokensFree (s : State) (op : MatOp) : State :=
  op.tiles.foldl (fun s h =>
    if (s.tile op.bid h).st = .engaged ∧ ((s.block? op.bid).map (·.takers h)).getD [] ≠ [] ∧ s.tileNamed op.bid h = false then
      s.tokenBack op.bid h
    else s) s

/-- The unit finishes the operation at the head of its queue (R223). -/
def State.matComplete (s : State) (die core : Nat) : State :=
  match (s.mat die core).queue with
  | op :: q =>
    (((s.modBlock op.bid (·.performMarked op)).modMat die core (fun u => { u with queue := q })).tokensFree op).reapBlocks
  | [] => s

/-- MATRIX_OP_COMPLETE (R223). -/
def opMatrixOpComplete (die core : Nat) (s : State) : State := s.matComplete die core

/-- Threads that wait past their instruction for a convergence register's operation go on (R228). -/
def Block.releaseConv (b : Block) (j : Nat) : Block :=
  { b with threads := b.threads.map (fun t => if t.park = .conv j then t.release else t) }

/-- The operation of a COMPLETE convergence register enters the queue (R225, R228, R230). -/
def Block.convEntered (b : Block) (j : Nat) : Block :=
  ({ b with conv := modAt b.conv j (fun c =>
      if c.freeing then { c with st := .idle, members := [], joined := [], word := none, freeing := false, crews := 0, cnt := 0 }
      else { c with st := .declared, joined := [], word := none }) }).releaseConv j

/-- The next waiting operation enters a free entry of the queue (R224). -/
def State.matEnter (s : State) (die core : Nat) : State :=
  let u := s.mat die core
  if matQueueSize ≤ u.queue.length then s
  else match u.waiting with
  | .conv bid j :: ws =>
    let s1 := s.modMat die core (fun u => { u with waiting := ws })
    (match s.block? bid with
     | some b => match b.conv[j]? with
       | some c => match c.word with
         | some x => (s1.modMat die core (fun u => { u with queue := u.queue ++ [captureMma b j c x] })).modBlock bid
                       (·.convEntered j)
         | none => s1
       | none => s1
     | none => s1)
  | .ridge op bid ti :: ws =>
    (s.modMat die core (fun u => { u with waiting := ws, queue := u.queue ++ [op] })).modThread bid ti
      Thread.performed
  | [] => s

/-- MATRIX_QUEUE_ENTER (R224). -/
def opMatrixQueueEnter (die core : Nat) (s : State) : State := s.matEnter die core

/-! ### Tokens -/

def trelSig (x : FormX) : Sig :=
  { x.sig (x.m == 0) [noneAt x.a.toNat, noneAt x.b.toNat, noneAt x.c.toNat] with specOk := handleOk x.d.toNat }

/-- `trel` (R237). -/
def opTrel (x : FormX) (s : State) : State :=
  s.runFold (trelSig x) fun i ti s =>
    s.tileStep i ti x.d.toNat [.ready, .engaged] [.empty, .filling, .draining] fun _ _ =>
      s.afterReds i.blk.bid ti (((s.drainOf i.blk.bid ti).modTile i.blk.bid x.d.toNat (fun t => { t with st := .engaged })).pass
        (trelSig x) i.blk.bid ti)

/-- `tacq` (R237). -/
def opTacq (x : FormX) (s : State) : State :=
  s.runFold (trelSig x) fun i ti s =>
    s.tileStep i ti x.d.toNat [.ready, .engaged, .empty, .filling, .draining] [] fun _ t =>
      if t.st = .engaged ∧ s.tileNamed i.blk.bid x.d.toNat then
        s.modThread i.blk.bid ti (fun t => { t with park := .retry (.tokenFree x.d.toNat), mark := (trelSig x).sw })
      else
        (let s1 := (s.drainOf i.blk.bid ti).pass (trelSig x) i.blk.bid ti
         if t.st = .engaged then s1.tokenBack i.blk.bid x.d.toNat else s1)

/-! ### Ridge instructions -/

def smxinitSig (x : FormX) : Sig := trelSig x

def smxmrgSig (x : FormX) : Sig :=
  { x.sig (x.m == 0) [noneAt x.b.toNat, noneAt x.c.toNat] with specOk := handleOk x.d.toNat && handleOk x.a.toNat }

def smxfinSig (x : FormX) : Sig :=
  { x.sig (x.fld 60 46 == 0) [noneAt x.b.toNat, noneAt x.c.toNat] with
    specOk := handleOk x.d.toNat && handleOk x.a.toNat }

def smxupdSig (x : FormX) : Sig :=
  { x.sig (x.fld 63 62 != 3 && x.fld 58 46 == 0)
      [{ spec := x.c.toNat, n := 2, al := 2, z := false, rd := true }] with
    specOk := handleOk x.d.toNat && handleOk x.a.toNat && handleOk x.b.toNat }

/-- Steps 1 and 2 of R239 for the roles of a ridge instruction, given as (handle, kind). The first role that is not ENGAGED gives the
fate of step 1: R239 orders neither the roles nor FREE before the other states (DESIGN CHOICE, notes/assumptions/72.md). -/
def roleStates (s : State) (bid : Nat) (roles : List (Nat × Nat)) : Option MemFault :=
  let bad := roles.find? (fun r => (s.tile bid r.1).st != .engaged)
  match bad with
  | some r => if (s.tile bid r.1).st = .free then some ⟨.tilestate, 2⟩ else some ⟨.token, 2⟩
  | none => if roles.any (fun r => (s.tile bid r.1).kind != r.2) then some ⟨.tilestate, 4⟩ else none

/-- One thread's ridge instruction (R239): its checks in order, a marked tile line among those it reads (R336), then its place in the queue
(R224). -/
def ridgeThread (sig : Sig) (roles : Rd → List (Nat × Nat)) (slot : Option DWord) (fmtOk shapeOk : State → Rd → Bool)
    (op : Rd → MatOp) (i : Iss) (ti : Nat) (s : State) : State :=
  match s.thread? i.blk.bid ti with
  | none => s
  | some t =>
    let r := t.rd i.warp.w
    let hs := (roles r).map (·.1)
    match roleStates s i.blk.bid (roles r) with
    | some f => s.faultThread i ti f.code f.sub
    | none => match fmtFate slot [] true with
      | some n => s.faultThread i ti .format n
      | none =>
        if fmtOk s r = false then s.faultThread i ti .format 8
        else if shapeOk s r = false then s.faultThread i ti .tilebound 4
        else if hs.eraseDups ≠ hs then s.faultThread i ti .tilestate 5
        else match (s.block? i.blk.bid).bind (fun b => ((op r).reads b).find? b.lineMarked) with
        | some l => s.faultThread i ti .dataerr 0 0 (BitVec.ofNat 32 l.1)
        | none =>
          let u := s.mat i.blk.die i.blk.core
          if u.waiting = [] ∧ u.queue.length < matQueueSize then
            (s.modMat i.blk.die i.blk.core (fun u => { u with queue := u.queue ++ [op r] })).pass sig i.blk.bid ti
          else
            (s.modMat i.blk.die i.blk.core (fun u => { u with waiting := u.waiting ++ [.ridge (op r) i.blk.bid ti] })).modThread
              i.blk.bid ti (fun t => { t with park := .queued, mark := sig.sw })

/-- `smxinit` (R240). -/
def opSmxinit (x : FormX) (s : State) : State :=
  s.withIss fun i0 =>
    s.runFold (smxinitSig x) (ridgeThread (smxinitSig x) (fun _ => [(x.d.toNat, 2)]) none (fun _ _ => true)
      (fun _ _ => true) (fun _ => .init i0.blk.bid x.d.toNat))

/-- `smxupd` (R241 to R243). -/
def opSmxupd (x : FormX) (s : State) : State :=
  s.withIss fun i0 =>
    let bid := i0.blk.bid
    let mask := x.fld 63 62
    let slot := slotOf i0.blk.slots (x.fld 61 59)
    let word (r : Rd) : Word := r.r (x.c.toNat + 1)
    let ln (r : Rd) : Nat := (word r).toNat % 64
    let f := slotFmt slot
    s.runFold (smxupdSig x) (ridgeThread (smxupdSig x)
      (fun r => [(x.d.toNat, 2), (x.a.toNat, 1), (x.b.toNat, 0)] ++ (if mask = 2 then [(ln r, 0)] else []))
      (some slot)
      (fun s r => (s.tile bid x.a.toNat).fmt == 0 && (s.tile bid x.b.toNat).fmt == f && (f ≤ 2 || fmtBlock f) &&
        (mask != 2 || (s.tile bid (ln r)).fmt == 0x0B))
      (fun s r =>
        let o := s.tile bid x.d.toNat
        let ts := s.tile bid x.a.toNat
        let p := s.tile bid x.b.toNat
        ts.rows == o.rows && p.rows == ts.rows && p.cols == ts.cols && (mask != 2 || o.rows ≤ (s.tile bid (ln r)).rows))
      (fun r => .upd bid x.d.toNat x.a.toNat x.b.toNat mask slot (r.r x.c.toNat) (word r)))

/-- `smxmrg` (R244). -/
def opSmxmrg (x : FormX) (s : State) : State :=
  s.withIss fun i0 =>
    s.runFold (smxmrgSig x) (ridgeThread (smxmrgSig x) (fun _ => [(x.d.toNat, 2), (x.a.toNat, 2)]) none (fun _ _ => true)
      (fun s _ => (s.tile i0.blk.bid x.d.toNat).rows == (s.tile i0.blk.bid x.a.toNat).rows &&
        (s.tile i0.blk.bid x.d.toNat).cols == (s.tile i0.blk.bid x.a.toNat).cols)
      (fun _ => .merge i0.blk.bid x.d.toNat x.a.toNat))

/-- `smxfin` (R245). -/
def opSmxfin (x : FormX) (s : State) : State :=
  s.withIss fun i0 =>
    let slot := slotOf i0.blk.slots (x.fld 63 61)
    s.runFold (smxfinSig x) (ridgeThread (smxfinSig x) (fun _ => [(x.d.toNat, 0), (x.a.toNat, 2)]) (some slot)
      (fun s _ => (s.tile i0.blk.bid x.d.toNat).fmt == slotFmt slot)
      (fun s _ => (s.tile i0.blk.bid x.d.toNat).rows == (s.tile i0.blk.bid x.a.toNat).rows &&
        (s.tile i0.blk.bid x.d.toNat).cols == (s.tile i0.blk.bid x.a.toNat).cols)
      (fun _ => .fin i0.blk.bid x.d.toNat x.a.toNat slot))

end Sys2Proof.Machine
end

