-- ==== Sys2Proof/Machine/Sched.lean ====
section
/-! DEFINITION. Readiness, the choice of a run (R63, R66), the active and pending sets (R67 to R69), and the steps
that release threads: results, waits on memory, exchanges (R50, R68, R209, R210, R309, R315). -/

namespace Sys2Proof.Machine

open Sys2Proof

/-! ### Rooms and conditions -/

/-- Sends, posted receives and work entries that a die holds (R274, R278, R271). -/
def sendLimit : Nat := 1024
def recvLimit : Nat := 4096
def workLimit : Nat := 8192

def State.sendsAt (s : State) (die : Nat) : Nat :=
  (s.fab.msgs.filter (fun m => m.src == s.endpoint die && !m.sent)).length
/-- Posted receives of a die: R12 and R278 bound them. A receive counts until it leaves, also while its message is
landing or its record is held, which no rule states (DEDUCED, notes/assumptions/55.md). -/
def State.recvsAt (s : State) (die : Nat) : Nat :=
  (s.fab.recvs.filter (fun r => r.die == die)).length
def State.worksAt (s : State) (die : Nat) : Nat := (s.fab.entries.filter (·.die == die)).length

/-- Records that a die's pool of a launch holds; a record leaves it at its crew's admission (R301). -/
def Launch.poolUsed (l : Launch) (die : Nat) : Nat :=
  ((l.pools ++ l.formed).filter (·.1 == die)).map (fun p => p.2.length) |>.sum

/-- Records that fit a launch's pool on one die (R296, R301). -/
def Launch.poolSize (l : Launch) : Nat := l.rc.pool / 64

/-- Whether a parked thread's condition holds now (R68). -/
def condHolds (s : State) (b : Block) (t : Thread) (c : Cond) : Bool :=
  match c with
  | .results => t.results == [] && t.lates == []
  | .tileNot h sts => !sts.contains (b.tile h).st
  | .fillRoom h => (b.tile h).fills < 255
  | .mcastDone h => !s.mcastFrom b.bid h
  | .convIdle j => ((b.conv[j]?).map (fun c => c.st != .complete)).getD true
  | .notLent regs => !regs.any (lentRegs b (b.tindex t)).contains
  | .tokenFree h => (b.tile h).st != .engaged || !s.tileNamed b.bid h
  | .copyRoom => s.copiesAt b.die b.core < 64
  | .counter r k => k.toNat ≤ (s.ctr b.ctx b.die (some b.bid) r).c.toNat
  | .spawnRoom => ((s.launch? b.lid).map (fun l => decide (l.poolUsed b.die < l.poolSize))).getD true
  | .sendRoom => s.sendsAt b.die < sendLimit
  | .recvRoom => s.recvsAt b.die < recvLimit
  | .workRoom => s.worksAt b.die < workLimit
  | .stackReady k => s.stackUp k
  | .lineFree l wr => (s.lineHolders l wr none).isEmpty
  | .lineHere l => !(s.missing b.die (128 * l) && s.fab.peer.asked.contains (b.die, l, true))
  | .redsDone => t.reds == []
  | .acked tis => !(tis.any (s.peerOpen b.bid))
  | .answered tis => !(tis.any (s.atomsOpen b.bid))
  | .after tis => tis.all (fun k => ((b.threads[k]?).map (fun u => u.reds == [])).getD true)

/-- Whether a thread is ready (R63): not exited, not parked, and not awaiting a delivery. -/
def ready (s : State) (b : Block) (t : Thread) : Bool :=
  !t.exited && b.status == .resident &&
    match t.park with
    | .ready => true
    | .retry c => condHolds s b t c
    | _ => false

/-- The live and the ready threads of a warp. -/
def Block.liveOf (b : Block) (w : Warp) : List Thread := b.threads.filter (fun t => w.has t && !t.exited)
def readyOf (s : State) (b : Block) (w : Warp) : List Thread := b.threads.filter (fun t => w.has t && ready s b t)

/-! ### The two sets of a partition -/

/-- The name of a warp. -/
def Warp.ref (w : Warp) (bid : Nat) : WarpRef := { bid := bid, crew := w.crew, lane := w.lane, first := w.first }

/-- Whether a name names a warp. -/
def Warp.is (w : Warp) (r : WarpRef) : Bool := w.crew == r.crew && w.lane == r.lane && w.first == r.first

/-- The block and warp that a name names. -/
def State.warp? (s : State) (r : WarpRef) : Option (Block × Warp) :=
  (s.block? r.bid).bind fun b => (b.warps.find? (·.is r)).map fun w => (b, w)

/-- Whether a named warp has a ready thread, and whether it has a live one. -/
def State.refReady (s : State) (r : WarpRef) : Bool := ((s.warp? r).map (fun x => readyOf s x.1 x.2 != [])).getD false
def State.refLive (s : State) (r : WarpRef) : Bool := ((s.warp? r).map (fun x => x.1.liveOf x.2 != [])).getD false

/-- Change a named warp. -/
def State.modWarp (s : State) (r : WarpRef) (f : Warp → Warp) : State :=
  s.modBlock r.bid fun b => { b with warps := b.warps.map (fun w => if w.is r then f w else w) }

/-- Places of the active set (R67). -/
def activeSize : Nat := 8

/-- Keep only some warps in the sets; the places of the others in the active set become free. -/
def Sched.keep (f : WarpRef → Bool) (x : Sched) : Sched :=
  { x with active := x.active.map (·.filter f), pending := x.pending.filter f }

/-- Put a warp into a place of the active set; each lane goes on after the place from which it issued last (R67). -/
def Sched.put (idx : Nat) (q : WarpRef) (x : Sched) : Sched := { x with active := setAt x.active idx (some q) }

/-- Fill free active places with the oldest ready pending warps (R69); the first argument bounds the moves. Which free place
a warp takes is not stated: the model gives it the first (DESIGN CHOICE, notes/assumptions/68.md). -/
def Sched.fill (s : State) : Nat → Sched → Sched
  | 0, x => x
  | n + 1, x =>
    match x.active.findIdx? Option.isNone, x.pending.find? s.refReady with
    | some k, some r => Sched.fill s n { x.put k r with pending := dropFirst (· == r) x.pending }
    | _, _ => x

/-- Drop the warps whose threads have all exited, and fill the active set (R68, R69). -/
def Sched.settle (s : State) (x : Sched) : Sched :=
  Sched.fill s activeSize (x.keep s.refLive)

/-- The warps that one set of active sets holds and another did not. -/
def enteredSets (old new : List Sched) : List WarpRef :=
  (old.zip new).flatMap fun (x, y) => (y.active.filter (!x.active.contains ·)).filterMap id

/-- Note when an active warp parks, for the order of exchanges (R68). -/
def State.noteParks (s : State) : State :=
  { s with blocks := s.blocks.map (fun b => { b with warps := b.warps.map (fun w =>
      if readyOf s b w = [] then (if w.parkTick = 0 then { w with parkTick := s.tick + 1 } else w)
      else { w with parkTick := 0 }) }) }

/-- The issue clocks of warps that enter an active set start at zero (R68). -/
def State.startCounts (s : State) (rs : List WarpRef) : State :=
  { s with blocks := s.blocks.map (fun b => { b with warps := b.warps.map (fun w =>
      if rs.contains (w.ref b.bid) then { w with issued := 0 } else w) }) }

/-- Bring the sets of every partition up to date (R68, R69). -/
def State.settleSets (s : State) : State :=
  let s := s.noteParks
  let ys := s.scheds.map (Sched.settle s)
  ({ s with scheds := ys } : State).startCounts (enteredSets s.scheds ys)

/-- The sets of a partition that has no warp. -/
def Sched.empty (die core part : Nat) : Sched :=
  { die := die, core := core, part := part, active := List.replicate activeSize none, pending := [],
    last := [none, none, none, none] }

/-- Change the sets of one partition. -/
def State.modSched (s : State) (die core part : Nat) (f : Sched → Sched) : State :=
  if s.scheds.any (fun x => x.die == die && x.core == core && x.part == part) then
    { s with scheds := s.scheds.map (fun x => if x.die = die ∧ x.core = core ∧ x.part = part then f x else x) }
  else
    { s with scheds := s.scheds ++
        [f (Sched.empty die core part)] }

def State.sched? (s : State) (die core part : Nat) : Option Sched :=
  s.scheds.find? (fun x => x.die == die && x.core == core && x.part == part)

/-- The partition of a crew. -/
def Block.partOf (b : Block) (crew : Nat) : Nat := ((b.places[crew]?).map (·.part)).getD 0

/-- The warps of a crew join the tail of the pending set in slot order, lane by lane (R69). -/
def State.joinSets (s : State) (b : Block) : State :=
  (List.range b.ncrew).foldl (fun s c =>
    let ws := (List.range 4).flatMap fun l =>
      (b.warps.filter (fun w => w.crew == c && w.lane == l)).mergeSort (fun x y => x.first ≤ y.first)
    s.modSched b.die b.core (b.partOf c) fun x => { x with pending := x.pending ++ ws.map (·.ref b.bid) }) s

/-- The warps of a block leave the sets. -/
def State.leaveSets (s : State) (bid : Nat) : State :=
  { s with scheds := s.scheds.map (Sched.keep (·.bid != bid)) }

/-- Exchange an active warp with the oldest ready pending warp (R68). -/
def Sched.exchange (s : State) (idx : Nat) (x : Sched) : Sched :=
  match x.active[idx]?, x.pending.find? s.refReady with
  | some (some r), some q => { x.put idx q with pending := dropFirst (· == q) x.pending ++ [r] }
  | _, _ => x

/-- Perform an exchange: the incoming warp's issue clocks start at zero. -/
def State.exchange (s : State) (die core part idx : Nat) : State :=
  match s.sched? die core part with
  | some x => match x.pending.find? s.refReady with
    | some q => (s.modSched die core part (Sched.exchange s idx)).modWarp q (fun w => { w with issued := 0 })
    | none => s
  | none => s

/-- The active warp that is exchanged first: parked, and parked longest; ties go to the earlier place (R68). -/
def parkedFirst (s : State) (x : Sched) : Option Nat :=
  let ps := x.active.zipIdx.filterMap fun (o, i) => o.bind fun r =>
    if s.refReady r then none else (s.warp? r).map fun y => (y.2.parkTick, i)
  match ps with
  | [] => none
  | p :: rest => some (rest.foldl (fun m q => if q.1 < m.1 then q else m) p).2

/-- Issue clocks after which an active warp is exchanged (R68). -/
def quantum : Nat := 4096

/-- Whether a named warp has spent its issue clocks in the active set (R68). -/
def State.refSpent (s : State) (r : WarpRef) : Bool := ((s.warp? r).map (fun y => decide (quantum ≤ y.2.issued))).getD false

/-- WARP_EXCHANGE (R68). -/
def opWarpExchange (die core part idx : Nat) (s : State) : State :=
  match s.sched? die core part with
  | some x => if parkedFirst s x = some idx then s.exchange die core part idx else s
  | none => s

/-- WARP_QUANTUM_EXPIRE (R68). -/
def opWarpQuantumExpire (die core part idx : Nat) (s : State) : State :=
  match (s.sched? die core part).bind (fun x => x.active.getD idx none) with
  | some r => if s.refSpent r then s.exchange die core part idx else s
  | none => s

/-- The place of a partition's active set at which an exchange is due (R68): while a pending warp is ready, that of the warp parked
longest, else of one that has spent its issue clocks. -/
def dueExchange (s : State) (x : Sched) : Option Nat :=
  if (x.pending.find? s.refReady).isNone then none
  else (parkedFirst s x).or (x.active.findIdx? (fun o => o.any s.refSpent))

/-- Perform the exchanges that are due (R68): an exchange takes no clocks, so that it belongs to the step after which it is due. The
first argument bounds them. -/
def State.exchangeDue : Nat → State → State
  | 0, s => s
  | n + 1, s =>
    match s.scheds.findSome? (fun x => (dueExchange s x).map (x, ·)) with
    | some (x, idx) => State.exchangeDue n (s.exchange x.die x.core x.part idx)
    | none => s

/-! ### Choosing a run -/

/-- The active warp of a lane that issues next: round robin, beginning after the place from which the lane last issued
(R67). -/
def pickWarp (s : State) (x : Sched) (lane : Nat) : Option WarpRef :=
  let from_ := match x.last.getD lane none with
    | some i => x.active.drop (i + 1) ++ x.active.take (i + 1)
    | none => x.active
  (from_.filterMap id).find? (fun r => r.lane == lane && s.refReady r)

/-- The thread whose address a warp's next run takes (R66): min-PC, or the most starved thread. -/
def pickThread (ts : List Thread) : Option Thread :=
  let best (better : Thread → Thread → Bool) : List Thread → Option Thread
    | [] => none
    | t :: rest => some (rest.foldl (fun m u => if better u m then u else m) t)
  match ts.filter (fun t => 256 ≤ t.age) with
  | [] => best (fun u m => u.pc.toNat < m.pc.toNat) ts
  | st => best (fun u m => m.age < u.age || (u.age == m.age && u.pc.toNat < m.pc.toNat)) st

/-- The run of a warp (R63, R66). -/
def pickRun (s : State) (b : Block) (w : Warp) : Option Run :=
  let ts := readyOf s b w
  (pickThread ts).map fun m =>
    { bid := b.bid, crew := w.crew, lane := w.lane, first := w.first,
      pos := (ts.filter (fun t => t.pc == m.pc)).map w.posOf, addr := m.pc }

/-- What choosing a run does to the ages of the ready threads (R66), and a thread that reissues is ready again. -/
def State.takeRun (s : State) (r : Run) : State :=
  match s.block? r.bid with
  | some b => match b.warps.find? (fun w => w.crew == r.crew && w.lane == r.lane && w.first == r.first) with
    | some w => { s.modBlock r.bid (fun b' => { b' with threads := b'.threads.map (fun t =>
        if w.has t && ready s b t then
          (if r.has t then { t with age := 0, park := .ready } else { t with age := t.age + 1 })
        else t) }) with cur := some r }
    | none => s
  | none => s

/-! ### Releasing threads -/

/-- A result is written, and a waiting marker ends when it was the last one (R50). A late failure writes 0, leaves
the pending set at once, and waits for its delivery (R309). The access to an SC page that a thread is parked for is then
performed: its result leaves the pending set, and the thread goes on (R218). -/
def Thread.writeBack (t : Thread) (r : Result) : Thread :=
  let t : Thread := { t with results := t.results.filter (·.rid != r.rid) }
  let gone := r.writes.filterMap (fun x => x.dest.name)
  let clear (t : Thread) : Thread := { t with pend := t.pend.filter (fun n => !gone.contains n) }
  let t : Thread := match r.late with
    | some tr => (clear (t.writes (r.writes.map (fun x => { x with val := 0 })))).addLate r.rid tr
    | none => t.writes r.writes
  if t.park = .sc (some r.rid) then (clear t).release
  else if t.park = .marker ∧ t.results = [] ∧ t.lates = [] then { t with pend := [], park := .ready } else t

/-- The result as it can be written now: a crew-scope `shfl` once its source's round is known (R111), a stream once
its lines are filled. -/
def Block.resolve (b : Block) (t : Thread) (r : Result) : Option Result :=
  match r.kind with
  | .ready => some r
  | .load _ => some r
  | .away => none
  | .stream .. => none
  | .shfl src round own d =>
    (shflAnswer (b.threads.find? (fun u => u.crew == t.crew && u.tid == src)) round own).map
      (fun v => { r with writes := [{ dest := d, val := v }] })

/-- RESULT_WRITEBACK (R50). A thread whose trap waits for its results then enters the handler (R307). -/
def opResultWriteback (bid ti rid : Nat) (s : State) : State :=
  match s.block? bid with
  | some b => match b.threads[ti]? with
    | some t => match (t.results.find? (·.rid == rid)).bind (b.resolve t) with
      | some r => if t.exited then s else s.modThread bid ti (·.writeBack r)
      | none => s
    | none => s
  | none => s

/-- HANDLER_ENTRY (R307): once the results are written; a late failure takes precedence. -/
def opHandlerEntry (bid ti : Nat) (s : State) : State :=
  match s.block? bid with
  | some b => match b.threads[ti]?, s.ctx? b.ctx with
    | some t, some c =>
      (match t.park with
       | .handler tr =>
         if t.results = [] ∧ t.lates = [] ∧ b.status = .resident then s.modThread bid ti (·.enterHandler c tr) else s
       | _ => s)
    | _, _ => s
  | none => s

/-- Whether a thread waits for its pending set (R309): at a marker, at an exit or return, at handler entry. -/
def Thread.waitsResults (t : Thread) : Bool :=
  match t.park with
  | .marker => true
  | .retry .results => true
  | .handler _ => true
  | _ => false

/-- A trap taken with nothing outstanding. -/
def Thread.take (t : Thread) (c : Context) (tr : Trap) : Thread :=
  if trapToHost c t tr.code then { t with park := .host tr none, mark := false } else t.enterHandler c tr

/-- LATE_FAILURE_DELIVERY (R309): the earliest late failure, at the address at which the thread waits. -/
def opLateFailureDelivery (bid ti : Nat) (s : State) : State :=
  match s.block? bid with
  | some b => match b.threads[ti]?, s.ctx? b.ctx with
    | some t, some c =>
      (match t.lates with
       | (_, tr) :: ls =>
         if t.results = [] ∧ t.waitsResults ∧ b.status = .resident then
           s.modThread bid ti (fun t => ({ t with lates := ls, pend := [] } : Thread).take c { tr with epc := t.pc })
         else s
       | [] => s)
    | _, _ => s
  | none => s

/-- A thread's `waita` ends: the predicate is written, and the thread goes on (R209). -/
def Thread.endWaita (t : Thread) (w : WaitA) (b : Bool) : Thread := (t.writes (wrPred w.pd b)).release

/-- One turn of a waiting thread's loop (R209): the condition first, then the deadline where `late` says that it may have
passed. A line that has gone back to another package is asked for again (R252). A marked line sends the thread back to its
instruction, which faults there (R336). A thread of a block that is not resident waits on (R318). -/
def State.waitaTurn (s : State) (bid ti : Nat) (late : Bool) : State :=
  match (s.block? bid).bind (fun b => if b.status = .resident then (b.threads[ti]?).map (b.die, ·) else none) with
  | some (die, t) =>
    (match t.park with
     | .waita w =>
       if s.missing die w.pa then s.askLine die (lineOf w.pa)
       else if s.mem.marked (lineOf w.pa) then s.modThread bid ti (fun t => { t with pc := t.pc - 8, park := .ready, mark := false })
       else if waitaHolds s bid ti w then s.modThread bid ti (·.endWaita w true)
       else if late ∧ w.deadline.any (· ≤ s.plat.time) then s.modThread bid ti (·.endWaita w false)
       else s
     | _ => s)
  | none => s

/-- WAITA_WAKE (R210): the waiting thread tests its condition again. -/
def opWaitaWake (bid ti : Nat) (s : State) : State := s.waitaTurn bid ti false

/-- WAITA_DEADLINE (R209): the timeout has passed. -/
def opWaitaDeadline (bid ti : Nat) (s : State) : State := s.waitaTurn bid ti true

/-- The lines that the threads of a bay watch through one home slice of their die (R210). -/
def State.liveWatches (s : State) (die slice bay : Nat) : List Nat :=
  ((s.blocks.filter (fun b => b.die == die && b.bay == bay)).flatMap fun b => b.threads.filterMap fun t =>
    match t.park with
    | .waita w => if homeSlice (lineOf w.pa) = slice then some (lineOf w.pa) else none
    | _ => none).eraseDups

/-- Home clocks between two clearings of a filter (R210). -/
def filterClocks : Nat := 2 ^ 20

/-- WATCH_FILTER_CLEAR (R210): after 2^20 home clocks the filter is cleared, and the bay's live watches stand in it
again. -/
def opWatchFilterClear (die slice bay : Nat) (s : State) : State :=
  let now := s.sliceClock die slice
  let f := s.plat.filter? die slice bay
  if f.cleared + filterClocks ≤ now then
    s.modPlat fun p => p.putFilter { f with lines := s.liveWatches die slice bay, cleared := now }
  else s

/-- IDLE_TIMEOUT (R315): 2^20 clocks have passed. -/
def opIdleTimeout (bid ti : Nat) (s : State) : State :=
  match s.block? bid with
  | some b => match b.threads[ti]? with
    | some t =>
      (match t.park with
       | .idle d => if d ≤ s.clockOf b then s.modThread bid ti Thread.release else s
       | _ => s)
    | none => s
  | none => s

/-- A thread that stands in `idle` goes on. -/
def Thread.wakeUp (t : Thread) : Thread :=
  match t.park with
  | .idle _ => t.release
  | _ => t

/-- Every thread of a context that stands in `idle` goes on (R315). -/
def State.wakeIdle (s : State) (ctx : Nat) : State :=
  { s with blocks := s.blocks.map (fun b =>
      if b.ctx = ctx then { b with threads := b.threads.map Thread.wakeUp } else b) }

/-- STORE_QUEUE_DRAIN (R213). -/
def opStoreQueueDrain (bid wi : Nat) (s : State) : State := s.drain1 bid wi

/-- CHURN_MERGE (R206). -/
def opChurnMerge (line : Nat) (s : State) : State := s.touch line

end Sys2Proof.Machine
end

