-- ==== Sys2Proof/Machine/Link.lean ====
section
/-! DEFINITION. What the links to other packages do with the flits that arrive (R257 to R259), the directory's invalidations
(R253), and the flags by which the package asks for service (R324, R338). -/

namespace Sys2Proof.Machine

open Sys2Proof

/-! ### Flags for the host -/

/-- Set a bit of a function's INTSTAT (R324). -/
def State.intBit (s : State) (fn n : Nat) : State :=
  s.modPlat fun p => { p with pages := p.pages.map (fun g =>
    if g.fn = fn then { g with intstat := g.intstat ||| BitVec.ofNat 64 (2 ^ n) } else g) }

/-- Raise an MSI-X vector of a function (R323). -/
def State.irq (s : State) (fn vec : Nat) : State := s.modPlat fun p => { p with irqs := p.irqs ++ [(fn, vec)] }

/-- Record an event that asks for service (R338). -/
def State.svc (s : State) (n : Nat) : State :=
  ((s.modPlat fun p => { p with svcreq := p.svcreq ||| BitVec.ofNat 64 (2 ^ n) }).intBit 0 3).irq 0 1

/-! ### Receiving -/

/-- Drop the flits that an acknowledgement covers: those numbered up to `seq` (R257). -/
def Port.acked (p : Port) (seq : Nat) : Port :=
  let first := (p.txNext + seqMod - p.replay.length) % seqMod
  let n := (seq + 1 + seqMod - first) % seqMod
  if n ≤ p.replay.length then { p with replay := p.replay.drop n } else p

/-- A port takes the body of a data flit: the packet it completes, if any (R259). -/
def Port.body (p : Port) (b : List Byte) : Port × Option Packet :=
  let bs := p.rxBytes ++ b
  if packetFlits (field bs 20 4) * 248 ≤ bs.length then ({ p with rxBytes := [] }, parsePacket bs)
  else ({ p with rxBytes := bs }, none)

/-- A port discards a flit (R257): the first after a good one brings a replay request; a replay that fails, as `lane` says of
the lane that spoiled it, counts against that lane and is asked for again (R258). -/
def Port.discard (p : Port) (lane : Option Nat) : Port :=
  if p.discarding = false then { p with discarding := true, resend := some p.rxExpect }.control 3 p.rxExpect
  else match lane with
  | some l => { p with fails := modAt p.fails l (· + 1) }.control 3 p.rxExpect
  | none => p

/-- A port accepts a flit (R257): the port after it, the packet it completes, and the flits it sends again. A data flit is
acknowledged at once. -/
def Port.accept (p : Port) (flit : List Byte) : Port × Option Packet × Nat :=
  let p := { p with discarding := false, resend := none, fails := p.fails.map (fun _ => 0) }
  let seq := bitsAt (field flit 0 4) 0 24
  match bitsAt (field flit 0 4) 28 4 with
  | 1 =>
    let (q, k) := ({ p.acked seq with rxExpect := (p.rxExpect + 1) % seqMod }).body ((flit.drop 4).take 248)
    (q.flush.control 2 q.inOrder, k, 0)
  | 2 => ((p.acked seq).flush, none, 0)
  | 3 =>
    let q := p.acked (seq + seqMod - 1)
    ({ q with wire := q.wire ++ q.replay }.flush, none, q.replay.length)
  | _ => (p, none, 0)

/-- A port receives a flit (R257). `lane` names the lane that spoiled a replayed flit, which the flit itself cannot say. -/
def Port.receive (p : Port) (flit : List Byte) (lane : Option Nat) : Port × Option Packet × Nat :=
  if flitOk p.rxExpect flit = false then (p.discard lane, none, 0) else p.accept flit

/-- FLIT_RECEIVE (R257): a completed packet is delivered by a later step. -/
def opFlitReceive (port : Nat) (flit : List Byte) (lane : Option Nat) (s : State) : State :=
  match s.plat.ports[port]? with
  | some p =>
    let (q, k, n) := p.receive flit lane
    let s := s.modPlat fun y => { y with ports := setAt y.ports port q, replayed := y.replayed + n }
    let s := s.pump s.fab.outbox.length
    (match k with
     | some k => { s with agenda := s.agenda ++ [.event (.packetDeliver k)] }
     | none => s)
  | none => s

/-- Failed replays in a row that retrain a lane (R258). -/
def laneFails : Nat := 16

/-- LANE_RETRAIN (R258). -/
def opLaneRetrain (port lane : Nat) (trained : Bool) (s : State) : State :=
  match s.plat.ports[port]? with
  | some p =>
    if p.lanes.getD lane false = false ∨ p.fails.getD lane 0 < laneFails then s
    else
      let q := { p with fails := setAt p.fails lane 0, lanes := if trained then p.lanes else setAt p.lanes lane false }
      let s := s.modPlat fun y => { y with ports := setAt y.ports port q }
      if trained then s
      else
        let s := if q.routes then s.svc 5 else s.svc 6
        if s.plat.ports.any Port.routes then s
        else s.modPlat fun y => { y with rdymap := y.rdymap &&& ~~~(BitVec.ofNat 64 (2 ^ 43)) }
  | none => s

/-! ### The directory -/

/-- Send the invalidations of a line to some endpoints of other packages (R253, R259). -/
def State.invalidate (s : State) (line : Nat) (eps : List Nat) : State :=
  eps.foldl (fun s ep => s.sendPacket (mkPacket .invalidate 0 (line >>> 30) ep 0 (BitVec.ofNat 64 (128 * line)) []))
    (s.modDir line (·.ask eps))

/-- DIR_INVALIDATE (R253): a copy on a die of this package is removed at once; to a holder in another package the home slice
sends an invalidation, in group mode to every endpoint of every marked group, and accesses wait for its answer. An
endpoint that holds no copy, or that has not answered an earlier one, is left alone, and a group's invalidation waits until all
earlier ones are answered. When the home slice takes a copy back is timing only: the model does it at any time
(DESIGN CHOICE, notes/assumptions/64.md). -/
def opDirInvalidate (line ep : Nat) (s : State) : State :=
  if s.isLocal ep then s.modDir line (·.gone ep)
  else match s.dir.find? (·.line == line) with
  | some d =>
    let eps := s.copyHolders d true none
    if eps.contains ep ∧ d.asked.contains ep = false ∧ (d.groups = [] ∨ d.asked = []) then
      s.invalidate line (if d.groups = [] then [ep] else eps)
    else s
  | none => s

end Sys2Proof.Machine
end

