-- ==== Sys2Proof/Machine/Fabric.lean ====
section
/-! DEFINITION. The Skimmer and the work-entry store (R264 to R285): messages, receives, work entries, counter advances
and reducing writes as the engines carry them, and what the packets of other packages do (R252, R259, R260). -/

namespace Sys2Proof.Machine

open Sys2Proof

/-! ### Finding and changing -/

def State.msg? (s : State) (mid : Nat) : Option Msg := s.fab.msgs.find? (·.mid == mid)
def State.recv? (s : State) (rid : Nat) : Option Recv := s.fab.recvs.find? (·.rid == rid)
def State.ent? (s : State) (eid : Nat) : Option WorkEnt := s.fab.entries.find? (·.eid == eid)
def State.red? (s : State) (rid : Nat) : Option Reduction := s.fab.reds.find? (·.rid == rid)

def State.modMsg (s : State) (mid : Nat) (f : Msg → Msg) : State :=
  s.modFab fun x => { x with msgs := x.msgs.map (fun m => if m.mid = mid then f m else m) }
def State.modRecv (s : State) (rid : Nat) (f : Recv → Recv) : State :=
  s.modFab fun x => { x with recvs := x.recvs.map (fun r => if r.rid = rid then f r else r) }
def State.modEnt (s : State) (eid : Nat) (f : WorkEnt → WorkEnt) : State :=
  s.modFab fun x => { x with entries := x.entries.map (fun e => if e.eid = eid then f e else e) }
def State.modRed (s : State) (rid : Nat) (f : Reduction → Reduction) : State :=
  s.modFab fun x => { x with reds := x.reds.map (fun r => if r.rid = rid then f r else r) }

/-- The context that handles a job's packets (R251). -/
def State.ctxOfJob (s : State) (job : Word) : Option Context := s.ctxs.find? (fun c => c.jobid == job && !c.destroying)

/-- An endpoint that a program may name: 15 bits and present (R250, R288). -/
def State.epOk (s : State) (ep : Nat) : Bool := ep < 32768 && s.plat.present (ep / 8)

/-- Count for `fstat` (R287). -/
def State.stat (s : State) (ctx die : Nat) (f : FabStat → FabStat) : State :=
  s.modCtx ctx fun c =>
    let x := (c.stats.find? (·.die == die)).getD { die := die, refused := 0, truncated := 0, abandoned := 0 }
    { c with stats := f x :: c.stats.filter (·.die != die) }

/-- The payload bound of an eager message (R273). -/
def eagerMax : Nat := 16384

def Msg.eager (m : Msg) : Bool := m.len ≤ eagerMax

/-- The sending context of a message of another package: none of this package. -/
def noCtx : Nat := 64

/-! ### Records that the D9 writes on its own account -/

/-- Reach the bytes of a record piece by piece, each within one line; a fault, or the physical address of each piece. -/
def State.reachPieces (s : State) (c : Context) (die : Nat) : List (DWord × List Byte) → State × (MemFault ⊕ List (Nat × List Byte))
  | [] => (s, .inr [])
  | (va, bs) :: ps =>
    match s.reachAt c (engineSite die) va accStore with
    | (s1, .inl f) => (s1, .inl f)
    | (s1, .inr p) =>
      let pas := targets s1 p.pa
      if pas.any (fun pa => s1.mem.marked (lineOf pa)) then (s1, .inl ⟨.dataerr, 0⟩)
      else match s1.reachPieces c die ps with
      | (s2, .inl f) => (s2, .inl f)
      | (s2, .inr ws) => (s2, .inr (pas.map (fun pa => (pa, bs)) ++ ws))

/-- Write a record with a context's page table (R373), as a write of an owner: the fault, with nothing written, or none. -/
def State.writeRecord (s : State) (ctx die : Nat) (va : DWord) (bs : List Byte) (o : PeerOwner := .engine) :
    State × Option MemFault :=
  match s.ctx? ctx with
  | none => (s, none)
  | some c =>
    let k := min bs.length (128 - va.toNat % 128)
    let parts := if k = bs.length then [(va, bs)] else [(va, bs.take k), (va + BitVec.ofNat 64 k, bs.drop k)]
    match s.reachPieces c die parts with
    | (s1, .inl f) => (s1, some f)
    | (s1, .inr ws) => (s1.engineStore die o (ws.flatMap (fun w => plainCells w.1 w.2)), none)

/-! ### Reading a message's source -/

/-- Read the next line of a message's source (R274): a fault, or the line. -/
def State.readLine (s : State) (m : Msg) : State × (CopyFault ⊕ WireLine) :=
  let i := m.data.length
  match m.tile with
  | some (bid, h) =>
    let l := (s.tile bid h).line i
    (s, if l.marked then .inl ⟨⟨.dataerr, 0⟩, 0⟩ else .inr { data := l.data, side := l.side })
  | none =>
    match s.ctx? m.ctx with
    | none => (s, .inr { data := 0, side := 0 })
    | some c =>
      match s.mapLines c (engineSite (m.src % 8)) accCopyIn [m.va.toNat / 128 + i] with
      | (s1, .inl f) => (s1, .inl f)
      | (s1, .inr lm) => (s1, .inr (s1.mem.wire (lineOf (lm.pa (m.va.toNat + 128 * i)))))

/-- Read some lines of a message's source, in order. -/
def State.readMsg : Nat → State → Msg → State × Msg × Option CopyFault
  | 0, s, m => (s, m, none)
  | n + 1, s, m =>
    match s.readLine m with
    | (s1, .inl f) => (s1, m, some f)
    | (s1, .inr w) => State.readMsg n s1 { m with data := m.data ++ [w], unread := m.unread - 1 }

/-- The counter and the number of an operation that may be a work entry's (R272, R311): the entry's, or its own. -/
def State.numOf (s : State) (entry : Option Nat) (ctr : Option CtrRef) (num : DWord) : Option CtrRef × DWord :=
  match entry.bind s.ent? with
  | some e => (some e.ctr, e.num)
  | none => (ctr, num)
def State.msgNum (s : State) (m : Msg) : Option CtrRef × DWord := s.numOf m.entry m.ctr m.num

/-- A message stalls at a fault and is reported for its context (R274); the receive that takes it notes a data error of its
source (R336). -/
def State.stallMsg (s : State) (m : Msg) (f : CopyFault) : State :=
  if f.f.isHold then s
  else
    let s := match m.st with
      | .matched rid => if f.f.code = TrapCode.dataerr then s.modRecv rid (fun r => { r with flags := r.flags ||| 16 }) else s
      | _ => s
    (s.modMsg m.mid (fun m => { m with stalled := true, badSrc := m.badSrc || f.f.code == .dataerr })).opReport m.ctx (m.src % 8) m.bid f
      (s.msgNum m).1 (s.msgNum m).2
      (match m.entry with
       | some e => .entry e
       | none => .msg m.mid)
      (some m.node)

/-- The source tile of a message is read (R274). -/
def State.msgRead (s : State) (m : Msg) : State :=
  match m.tile with
  | some (bid, h) => if m.cut then s else (s.modTile bid h Tile.drainDone).reapBlocks
  | none => s

/-- Read what is left of a message's source: the message with its payload, or none where it stalls. -/
def State.gather (s : State) (m : Msg) : State × Option Msg :=
  if m.unread = 0 then (s, some m)
  else match s.readMsg m.unread m with
  | (s1, m1, some f) => ((s1.modMsg m.mid (fun x => { x with data := m1.data, unread := m1.unread })).stallMsg m1 f, none)
  | (s1, m1, none) =>
    ((s1.modMsg m.mid (fun x => { x with data := m1.data, unread := 0 })).msgRead m1, some m1)

/-! ### Completion of a send -/

/-- Whether the landing of a receive still has to happen (R275). A stalled landing of an eager message does not
hold its sender up (R284). -/
def State.landingOpen (s : State) (rid : Nat) (eager : Bool) : Bool :=
  s.copies.any (fun c => c.owner == .landing rid && !(s.copyDone c || (eager && c.stalled)))

/-- Whether a send is complete (R275, R251). -/
def State.sendDone (s : State) (m : Msg) : Bool :=
  match m.st with
  | .taken => true
  | .unexpected => m.eager
  | .matched rid => m.unread == 0 && !(s.landingOpen rid m.eager)
  | _ => false

/-- The flags of a packet of a message or an advance: what the kind says in bits 1 and 0, and in bits 14 to 2 the place of the
operation at its source, by which its answers name it (notes/assumptions/13.md). -/
def opFlags (low slot : Nat) : Half := BitVec.ofNat 16 (low + 4 * slot)
def flagLow (h : Half) : Nat := h.toNat % 4
def flagSlot (h : Half) : Nat := bitsAt h.toNat 2 13

/-- The first number that is not in use. -/
def freeSlot (used : List Nat) : Nat := ((List.range (used.length + 1)).find? (fun k => !used.contains k)).getD 0

/-- The place of a die's next send among those in flight (R274). -/
def State.sendSlot (s : State) (die : Nat) : Nat :=
  freeSlot ((s.fab.msgs.filter (fun m => m.src == s.endpoint die && !m.sent)).map (·.slot))

/-- The address field of a message's packets (R259). -/
def Msg.head (m : Msg) : DWord := BitVec.ofNat 64 (m.tag.toNat + m.len / 128 * 2 ^ 32)

/-- The low flag of a packet that says that its message was cut short (R274). -/
def cutFlag (m : Msg) : Half := opFlags (if m.cut then 1 else 0) m.slot

/-- The flags of the payload of a pulled message: its low flag 1 tells it from an answer about memory. -/
def payloadFlag (m : Msg) : Half := opFlags (if m.cut then 3 else 2) m.slot

/-- Answer the sender of a message from another package. -/
def State.answer (s : State) (m : Msg) (kind : PacketKind) (low : Nat) : State :=
  s.sendPacket (mkPacket kind (opFlags low m.slot) m.dst m.src m.job m.head [])

/-- Drop the messages that both ends are done with. -/
def State.reapMsgs (s : State) : State :=
  (s.modFab fun f => { f with msgs := f.msgs.filter (fun m => !m.sent || (match m.st with
    | .taken => false
    | .matched rid => f.recvs.any (·.rid == rid)
    | _ => true)) }).reapBlocks

/-- SEND_COMPLETE (R275). The source of an eager message of another package is told then. -/
def opSendComplete (mid : Nat) (s : State) : State :=
  match s.msg? mid with
  | some m =>
    if m.sent ∨ s.sendDone m = false then s
    else if s.isLocal m.src = false then
      (let s := s.modMsg mid (fun m => { m with sent := true })
       (if m.eager then s.answer m .acknowledge 3 else s).reapMsgs)
    else ((s.modMsg mid (fun m => { m with sent := true })).doneNum m.ctx (m.src % 8) m.bid m.ctr m.num).reapMsgs
  | none => s

/-! ### Landing -/

/-- The payload room of a receive, in lines (R281, R282). -/
def State.roomOf (s : State) (r : Recv) : Nat :=
  match r.tile, r.lay with
  | some h, _ => (s.tile r.bid h).lines.length
  | none, some l => boxRows l.win * pitchOf l.fmt (l.win.headD 0)
  | none, none => 0

/-- The payload lines that a receive takes (R283). -/
def State.takeOf (s : State) (r : Recv) (len : Nat) : Nat := min (len / 128) (min (r.max / 128) (s.roomOf r))

/-- The source of a landing: the lines of the message that are taken. -/
def landSrc (r : Recv) (data : List WireLine) (bad : List Nat) : Place :=
  match r.lay with
  | some l => .lines data l.fmt (l.win.headD 0) bad
  | none => .lines data 0 1 bad

/-- The units of a landing once its lines are known. -/
def Copy.landUnits (c : Copy) (s : State) (d : Dst) (n : Nat) : List (Nat × Nat) :=
  if c.xf = .lines then (List.range n).map (fun i => (i, i)) else c.units s d Tile.free

/-- Begin the landing of a message that matched a receive (R281, R282): it may be accepted, held or dropped at once. The
payload of a rendezvous message comes by a later step. -/
def State.land (s : State) (m : Msg) (r : Recv) : State :=
  let n := s.takeOf r m.len
  let (cid, s) := s.fresh
  let place : Place := match r.tile, r.lay with
    | some h, _ => .tile r.bid h 0 0
    | none, some l => .tensor l r.origin
    | none, none => .lines [] 0 1 []
  let d : Dst := { place := place, pos := none, st := .coming, todo := [], turned := false, elems := 0, later := [] }
  let data := m.data.take n
  let c : Copy :=
    { cid := cid, clus := 0, handle := none, die := r.die, bay := 0, core := 48, bid := if r.tile.isSome then some r.bid else none,
      lid := none, ctx := r.ctx, owner := .landing r.rid, key := 0, slot := 0,
      xf := if r.tile.isSome then .lines else .raw, src := landSrc r data m.bad,
      box := match r.lay with
        | some l => if r.tile.isSome then [n] else l.win
        | none => [n],
      dsts := [], ctr := some r.ctr, num := r.num, stalled := m.unread != 0, abandoned := false, short := false }
  let d := { d with todo := Copy.landUnits c s d (if m.unread = 0 then min n m.data.length else n) }
  let s := s.modRecv r.rid (fun r =>
    { r with st := .landing, mid := some m.mid, from_ := m.src, mtag := m.tag, mlen := m.len,
             flags := r.flags ||| (if m.cut then 4 else 0) ||| (if m.badSrc then 16 else 0) })
  let s := s.modMsg m.mid (fun m => { m with st := .matched r.rid })
  ({ s with copies := s.copies ++ [{ c with dsts := [d] }] }).arrive { c with dsts := [d] } 0 d

/-- The pulled payload of a rendezvous message reaches its landing (R280). -/
def State.landPulled (s : State) (m : Msg) (r : Recv) : State :=
  let data := m.data.take (s.takeOf r m.len)
  let s := s.modRecv r.rid (fun r => { r with flags := r.flags ||| (if m.cut then 4 else 0) ||| (if m.badSrc then 16 else 0) })
  match s.copies.find? (fun c => c.owner == .landing r.rid) with
  | none => s
  | some c =>
    let c1 := { c with src := landSrc r data m.bad, stalled := false }
    let s1 := s.modCopy c.cid (fun c => { c with
      src := landSrc r data m.bad, stalled := false,
      dsts := c.dsts.map (fun d => if d.st = .dropped then d else { d with todo := Copy.landUnits c1 s d data.length }) })
    match r.tile with
    | some h => s1.fillLines r.bid h ((List.range (s.takeOf r m.len)).filter (data.length ≤ ·))
    | none => s1

/-! ### Matching -/

/-- Whether a receive takes messages of a source and tag (R279). -/
def matchesMsg (src tag mask : Word) (m : Msg) : Bool :=
  (src == 0xFFFFFFFF || src.toNat == m.src) && (m.tag ^^^ tag) &&& mask == 0

/-- The bytes of the unexpected buffer and the headers in use on a die (R280, R287). -/
def State.unexpected (s : State) (die : Nat) : List Msg :=
  s.fab.msgs.filter (fun m => m.st == .unexpected && m.dst == s.endpoint die)
def State.bufUsed (s : State) (die : Nat) : Nat := ((s.unexpected die).filter (·.eager) |>.map (·.len)).sum

/-- The unexpected buffer of a die (R280, R328), and its header list (R280). -/
def State.bufSize (s : State) (die : Nat) : Nat := ((s.plat.carves.find? (·.die == die)).map (·.ubufSize)).getD 0
def headerLimit : Nat := 16384

/-- Whether a message has to wait for an earlier one of its stream (R260, R276). -/
def State.streamBusy (s : State) (m : Msg) : Bool :=
  s.fab.msgs.any (fun o => o.mid < m.mid && o.src == m.src && o.dst == m.dst && o.job == m.job &&
    (o.st == .flight || o.st == .refused))

/-- The back-off of a message refused `k` times, in nanoseconds (R276). -/
def backOff (k : Nat) : Nat := min (2000 * 2 ^ min k 10) 1000000

/-- MSG_REFUSE (R276): the source sends the message again. One of another package keeps its place in its stream meanwhile,
so that later messages, even those on their way, wait behind it. -/
def State.refuse (s : State) (m : Msg) : State :=
  if s.isLocal m.src then
    (s.modMsg m.mid (fun m =>
      { m with st := .refused, tries := m.tries + 1, retryAt := s.plat.time + backOff (m.tries + 1) })).stat
      m.ctx (m.src % 8) (fun x => { x with refused := x.refused + 1 })
  else
    (s.modMsg m.mid (fun m => { m with st := .refused, data := [] })).answer m .refusal 0

/-- MSG_REFUSED_FOR_GOOD (R251): the operation counts as complete, and its context is told. -/
def State.refuseForGood (s : State) (m : Msg) : State :=
  if s.isLocal m.src then
    let s := (s.modMsg m.mid (fun m => { m with st := .taken, unread := 0 }))
    let s := if m.unread = 0 then s else s.msgRead m
    s.opReport m.ctx (m.src % 8) m.bid ⟨⟨.fabric, 5⟩, 0⟩ (s.msgNum m).1 (s.msgNum m).2 .none (some m.node)
  else
    (s.modFab fun f => { f with msgs := f.msgs.filter (·.mid != m.mid) }).answer m .refusal 1

/-- A message whose payload or header is at the Skimmer is matched, kept unexpected, or refused (R276, R279, R280). -/
def State.skim (s : State) (m : Msg) (c : Context) : State :=
  let die := m.dst % 8
  match s.fab.recvs.find? (fun r => r.ctx == c.num && r.die == die && r.st == .posted && matchesMsg r.src r.tag r.mask m) with
  | some r => s.land m r
  | none =>
    if (s.unexpected die).length < headerLimit ∧ (m.eager = false ∨ s.bufUsed die + m.len ≤ s.bufSize die) then
      let (n, s) := s.fresh
      s.modMsg m.mid (fun m => { m with st := .unexpected, order := n })
    else s.refuse m

/-- A message reaches its destination (R273, R279): an eager one with its payload. To another package it leaves as a
packet, unless no route leads there: then it stalls (R254), and once abandoned it is done. -/
def State.msgGo (s : State) (m : Msg) : State :=
  if s.cutOff (m.dst / 8) then
    (if m.cut then s.modMsg m.mid (fun m => { m with st := .taken }) else s.stallMsg m ⟨⟨.fabric, 4⟩, 0⟩)
  else match if m.eager then s.gather m else (s, some m) with
  | (s1, none) => s1
  | (s1, some m) =>
    if s.isLocal m.dst = false then
      (s1.modMsg m.mid (fun m => { m with st := .away })).sendPacket
        (mkPacket .messageHeader (cutFlag m) m.src m.dst m.job m.head (if m.eager then m.data else []))
    else match s1.ctxOfJob m.job with
    | none => s1.refuseForGood m
    | some c => if s1.plat.rdymap.toNat.testBit (35 + m.dst % 8) then s1.skim m c else s1.refuse m

/-- MSG_ARRIVE (R279). -/
def opMsgArrive (mid : Nat) (s : State) : State :=
  match s.msg? mid with
  | some m => if m.st = .flight ∧ m.stalled = false ∧ s.streamBusy m = false then s.msgGo m else s
  | none => s

/-- MSG_RETRY (R276): after the back-off the source sends a refused message again. -/
def opMsgRetry (mid : Nat) (s : State) : State :=
  match s.msg? mid with
  | some m =>
    if m.st = .refused ∧ s.isLocal m.src ∧ m.retryAt ≤ s.plat.time ∧ s.streamBusy m = false then
      (s.modMsg mid (fun m => { m with st := .flight })).msgGo { m with st := .flight }
    else s
  | none => s

/-- RENDEZVOUS_PULL (R280): the payload is read at its source and lands. From or to another package it travels as packets. -/
def opRendezvousPull (mid : Nat) (s : State) : State :=
  match s.msg? mid with
  | some m =>
    if m.stalled ∨ m.eager then s
    else match m.st with
    | .matched rid =>
      if m.unread = 0 then s
      else if s.isLocal m.src = false then
        if m.tries ≠ 0 then s
        else (s.modMsg mid (fun m => { m with tries := 1 })).answer m .messagePull 0
      else
        (match s.gather m with
         | (s1, none) => s1
         | (s1, some m1) => match s1.recv? rid with
           | some r => s1.landPulled m1 r
           | none => s1)
    | .pulling =>
      (match s.gather m with
       | (s1, none) => s1
       | (s1, some m1) =>
         (s1.modMsg mid (fun m => { m with st := .taken })).sendPacket
           (mkPacket .readResponse (payloadFlag m1) m.src m.dst m.job m.head m1.data))
    | _ => s
  | none => s

/-- A message ends at the line that cannot be read (R274): what was read travels, and a rendezvous landing completes
with it. -/
def State.cutMsg (s : State) (m : Msg) : State :=
  let s := (s.msgRead m).modMsg m.mid (fun m => { m with cut := true, unread := 0, stalled := false })
  match m.st with
  | .matched rid => match s.recv? rid with
    | some r => s.landPulled { m with cut := true, unread := 0 } r
    | none => s
  | _ => s

/-! ### Receives -/

/-- Whether a report about an operation is still unanswered (R311). -/
def State.reported (s : State) (t : RepTarget) : Bool :=
  s.ctxs.any (fun c => c.open_.any (fun o => o.2 == t) || c.held.any (fun o => o.target == t))


/-- The status record of a receive (R283). -/
def statusBytes (src : Nat) (tag : Word) (len landed : Nat) (flags : Word) : List Byte :=
  toBytes 4 src ++ toBytes 4 tag.toNat ++ toBytes 8 len ++ toBytes 8 landed ++ toBytes 4 flags.toNat ++ toBytes 4 0

/-- The receive is done: its counter may pass its number, and it leaves (R283 step 4). -/
def State.recvGone (s : State) (r : Recv) : State :=
  ((s.modFab fun f => { f with recvs := f.recvs.filter (·.rid != r.rid) }).doneNum r.ctx r.die (some r.bid)
    (some r.ctr) r.num).reapMsgs

/-- The status record of a receive, then its completion once the record is performed (R283 steps 3 and 4); a fault holds it
(R373). -/
def State.recvRecord (s : State) (r : Recv) : State :=
  if r.status = 0 then s.recvGone r
  else
    let keep (s : State) (st : RecvState) : State := s.modRecv r.rid (fun x => { x with st := st, flags := r.flags, landed := r.landed })
    match s.writeRecord r.ctx r.die r.status (statusBytes r.from_ r.mtag r.mlen r.landed r.flags) (.recv r.rid) with
    | (s1, none) => if s1.writesOpen (.recv r.rid) then keep s1 .recordOut else s1.recvGone r
    | (s1, some f) =>
      let s2 := keep s1 .recordHeld
      if f.isHold then s2
      else s2.opReport r.ctx r.die (some r.bid) ⟨f, r.status⟩ (some r.ctr) r.num (.recv r.rid) (some r.node)

/-- What has landed, in bytes (R160). -/
def landedBytes (r : Recv) (c : Copy) : Nat :=
  match r.lay, r.tile with
  | some l, none => ceilDiv ((c.dsts.map (·.elems)).sum * fmtWidth l.fmt) 8
  | _, _ => (c.dsts.map (·.elems)).sum

/-- The bytes of payload that a receive's message brings: those that it declares, or where an abandoned fault cut it short those read
before the fault (R274, R283). -/
def State.payloadLen (s : State) (r : Recv) : Nat :=
  match r.mid.bind s.msg? with
  | some m => if m.cut then 128 * m.data.length else r.mlen
  | none => r.mlen

/-- RECEIVE_COMPLETE (R283). -/
def opReceiveComplete (rid : Nat) (s : State) : State :=
  match s.recv? rid with
  | some r =>
    (match r.st, s.copies.find? (fun c => c.owner == .landing rid) with
     | .landing, some c =>
       if s.copyDone c = false then s
       else
         let dropped := r.flags.toNat.testBit 3
         let len := s.payloadLen r
         let cut := decide (r.max < len) || (!dropped && decide (128 * s.roomOf r < len))
         let s1 := s.finishTiles c
         let s2 := match r.tile with
           | some h => if cut ∧ dropped = false then s1.modTile r.bid h (fun t => { t with truncated := true }) else s1
           | none => s1
         let s3 := if cut then s2.stat r.ctx r.die (fun x => { x with truncated := x.truncated + 1 }) else s2
         (s3.recvRecord { r with
           landed := landedBytes r c,
           flags := r.flags ||| (if cut then 1 else 0) ||| (if c.short then 4 else 0) }).reapBlocks
     | .recordHeld, _ =>
       -- a record held for a stack that is not ready is tried again
       if s.reported (.recv rid) then s else s.recvRecord r
     | .recordOut, _ => if s.writesOpen (.recv rid) then s else s.recvGone r
     | _, _ => s)
  | none => s

/-- Cancel a posted receive that no message has matched (R285, R286). Of its status record R286 gives flag 1 only; the source, tag,
length and landed fields are written 0 (DESIGN CHOICE, notes/assumptions/74.md). -/
def State.cancelRecv (s : State) (r : Recv) : State :=
  let r := { r with st := .recordHeld, from_ := 0, mtag := 0, mlen := 0, landed := 0, flags := 2 }
  (s.modRecv r.rid (fun _ => r)).recvRecord r

/-- RCANCEL_ANSWER (R286). -/
def opRcancelAnswer (bid ti : Nat) (s : State) : State :=
  match s.block? bid with
  | some b => match b.threads[ti]? with
    | some t =>
      (match t.park with
       | .cancel c num pd =>
         let hit := s.fab.recvs.find? (fun r => r.ctx == b.ctx && r.die == b.die && r.ctr == c && r.num == num &&
           (c.net || r.bid == bid) && r.st == .posted)
         let s1 := match hit with
           | some r => s.cancelRecv r
           | none => s
         s1.modThread bid ti (fun t => (t.writes (wrPred pd hit.isSome)).release)
       | _ => s)
    | none => s
  | none => s

/-- At a block's end its unmatched tile receives are cancelled (R285). -/
def State.cancelTileRecvs (s : State) (bid : Nat) : State :=
  (s.fab.recvs.filter (fun r => r.bid == bid && r.tile.isSome && r.st == .posted)).foldl State.cancelRecv s

/-! ### Reducing writes -/

/-- Send a reducing write toward a physical address (R264): to a window it is a contribution, to a plain page it goes to
its final hop. -/
def State.reduceTo (s : State) (p : Pa) (fp32? : Bool) (codes : List Byte) (scale : Byte) (once : Option DWord)
    (die : Nat) (c : Context) (bid lid : Option Nat) (ctr : Option CtrRef) (num : DWord) (entry : Option Nat) (node : Nat) : State :=
  if p.win then
    s.contribute { gid := 0, win := bitsAt p.pa 33 19, off := bitsAt p.pa 0 33, round := 0, ep := s.endpoint die, hop := 0,
                   codes := codes, scale := scale, ctx := c.num, bid := bid, lid := lid, ctr := ctr, num := num,
                   entry := entry, node := node }
  else
    let (rid, s) := s.fresh
    s.modFab fun f => { f with reds := f.reds ++ [
      { rid := rid, ctx := c.num, die := die, job := c.jobid, from_ := none, pa := p.pa, fp32 := fp32?, codes := codes, scale := scale, once := once,
        group := none, bid := bid, lid := lid, ctr := ctr, num := num, entry := entry, held := false, node := node }] }

/-- The contributions to one round of a window block that a hop may still take. -/
def Fabric.at_ (f : Fabric) (win off round hop : Nat) : List Contrib :=
  f.contribs.filter (fun c => c.win == win && c.off == off && c.round == round && c.hop == hop && c.gid == 0)

/-- Inputs of a hop in ascending source number (R265). -/
def hopInputs (cs : List Contrib) : List (Byte × List Byte) :=
  (cs.mergeSort (fun a b => a.ep ≤ b.ep)).map (fun c => (c.scale, c.codes))

/-- The first contribution of this package to a round that a hop may still take. -/
def State.ownContrib (s : State) (win off round : Nat) : Option Contrib :=
  s.fab.contribs.find? (fun c => c.win == win && c.off == off && c.round == round && c.gid == 0 && c.hop != 1 && s.isLocal c.ep)

/-- The reduced block goes to the final hop at every member (R264): for the reports of a held one (R311), as the operation of the
round's first contribution of this package, or of `c` where it has none. -/
def State.toMembers (s : State) (w : Window) (win off round : Nat) (r : Byte × List Byte) (c : Contrib) : State :=
  let c := (s.ownContrib win off round).getD c
  let (gid, s) := s.fresh
  let s := s.modFab fun f => { f with contribs := (f.contribs.filter (fun x =>
      !(x.win == win && x.off == off && x.round == round && x.hop == 1 && x.gid == 0))).map (fun x =>
      if x.win = win ∧ x.off = off ∧ x.round = round ∧ x.gid = 0 then { x with gid := gid, hop := 2 } else x) }
  w.members.foldl (fun s m =>
    let (rid, s) := s.fresh
    s.modFab fun f => { f with reds := f.reds ++ [
      { rid := rid, ctx := c.ctx, die := c.ep % 8, job := 0, from_ := none, pa := w.member m.1 off, fp32 := w.fmt == 0, codes := r.2, scale := r.1,
        once := none, group := some gid, bid := c.bid, lid := c.lid, ctr := c.ctr, num := c.num, entry := c.entry, held := false,
        node := c.node }] }) s

/-- A round is held and reported for the context of its first contribution of this package (R336), as that entry's or that
operation's (R272, R311). -/
def State.holdRound (s : State) (win off round : Nat) (c : Contrib) : State :=
  s.opReport c.ctx (c.ep % 8) c.bid ⟨⟨.dataerr, 0⟩, 0⟩ (s.numOf c.entry c.ctr c.num).1 (s.numOf c.entry c.ctr c.num).2 (.round win off round)
    (some c.node)

/-- The members of a window as a hop of a round reads them, as the die of that contribution does: it waits for a line of the
table (R252, R339), and a marked one holds the round (R336). -/
def State.hopWindow (s : State) (win off round : Nat) (f : Window → State) : State :=
  let die := ((s.ownContrib win off round).map (·.ep % 8)).getD 0
  match windowHold s (engineSite die) win with
  | some h => s.askFor die h
  | none =>
    if windowMarked s win then
      (match s.ownContrib win off round with
       | some c => if s.reported (.round win off round) then s else s.holdRound win off round c
       | none => s)
    else match window? s win with
    | some w => f w
    | none => s

/-- Whether an earlier round of a block is not yet performed: a thread's writes of one location follow each other in its program
order (R212). -/
def State.earlierRound (s : State) (win off round : Nat) : Bool :=
  s.fab.contribs.any (fun c => c.win == win && c.off == off && c.round < round)

/-- REDUCTION_HOP (R264, R265): hop 1 at a leaf, once each of its members has contributed, or hop 2 at the spine, once each
leaf has its result; the rounds of a block follow each other. -/
def opReductionHop (win off round : Nat) (leaf : Option Nat) (s : State) : State :=
  if s.earlierRound win off round then s
  else s.hopWindow win off round fun w =>
    let leaves := (w.members.map (·.2)).eraseDups
    match leaf with
    | some l =>
      let eps := (w.members.filter (·.2 == l)).map (·.1)
      let cs := (s.fab.at_ win off round 0).filter (fun c => eps.contains c.ep)
      (match cs.mergeSort (fun a b => a.ep ≤ b.ep) with
       | [] => s
       | c :: _ =>
         if eps.all (fun e => cs.any (·.ep == e)) = false then s
         else
           let r := hopBlock (hopInputs cs)
           if leaves.length ≤ 1 then s.toMembers w win off round r c
           else
             s.modFab fun f => { f with contribs :=
               (f.contribs.map (fun x =>
                 if x.win = win ∧ x.off = off ∧ x.round = round ∧ x.hop = 0 ∧ eps.contains x.ep then { x with hop := 2 } else x)) ++
               [{ c with hop := 1, codes := r.2, scale := r.1, ctr := none, bid := none, lid := none, entry := none }] })
    | none =>
      let cs := s.fab.at_ win off round 1
      match cs with
      | [] => s
      | c :: _ => if cs.length < leaves.length ∨ leaves.length ≤ 1 then s
                  else s.toMembers w win off round (hopBlock (hopInputs cs)) c

/-- A contribution is performed (R268): its number is done, or its source in another package is told. -/
def State.contribDone (s : State) (c : Contrib) : State :=
  if s.isLocal c.ep ∨ c.hop = 1 then s.doneNum c.ctx (c.ep % 8) c.bid c.ctr c.num
  else s.sendPacket (mkPacket .acknowledge (opFlags 2 c.slot) (2 ^ 31 + c.win) c.ep 0 (BitVec.ofNat 64 c.off) [])

/-- The contributions to a round are performed (R268), and with them the `red`s of threads (R266). -/
def State.roundDone (s : State) (cs : List Contrib) : State :=
  let s := s.modFab fun f => { f with contribs := f.contribs.filter (fun c => !(cs.contains c)) }
  let over_ (r : Nat × Nat × Nat) : Bool := cs.any (fun c => (c.win, c.off, c.round) == r)
  let s : State := { s with blocks := s.blocks.map (fun b => { b with threads := b.threads.map (fun t =>
    { t with reds := t.reds.filter (fun r => !(over_ r)) }) }) }
  cs.foldl State.contribDone s

/-- A contribution whose every member has applied its round is performed (R268). -/
def State.groupDone (s : State) (gid : Nat) : State :=
  if s.fab.reds.any (fun r => r.group == some gid) then s
  else s.roundDone (s.fab.contribs.filter (·.gid == gid))

/-- A reduction leaves, performed (R268); a source in another package is told. -/
def State.redGone (s : State) (r : Reduction) : State :=
  let s := s.modFab fun f => { f with reds := f.reds.filter (·.rid != r.rid) }
  let s := match r.from_ with
    | some ep => s.sendPacket (mkPacket .acknowledge (opFlags 2 r.slot) (r.pa >>> 37) ep r.job (BitVec.ofNat 64 r.pa) [])
    | none => s
  match r.group with
  | some g => s.groupDone g
  | none => s.doneNum r.ctx r.die r.bid r.ctr r.num

/-- Once-tag pairs that a context's set holds on a die (R267). -/
def onceLimit : Nat := 1048576

/-- The context that a reduction is reported to: its own, or that of its job for one of another package (R251). -/
def State.redCtx (s : State) (r : Reduction) : Nat :=
  if r.from_ = none then r.ctx else ((s.ctxOfJob r.job).map (·.num)).getD noCtx

/-- A report about a reduction (R272, R311): as that of its work entry, if it is one's. -/
def State.redReport (s : State) (r : Reduction) (f : MemFault) (target : RepTarget) : State :=
  s.opReport (s.redCtx r) r.die r.bid ⟨f, 0⟩ (s.numOf r.entry r.ctr r.num).1 (s.numOf r.entry r.ctr r.num).2 target (some r.node)

/-- A reduction is held and reported for its context (R254, R267, R336). -/
def State.holdRed (s : State) (r : Reduction) (f : MemFault) (target : RepTarget) : State :=
  if r.held then s else (s.modRed r.rid (fun r => { r with held := true })).redReport r f target

/-- A once-tagged write that no context of its job can take is refused for good (R251): it counts as complete, and its
issuing context is told, in another package by a refusal. -/
def State.refuseRed (s : State) (r : Reduction) : State :=
  match r.from_ with
  | some ep => (s.sendPacket (mkPacket .refusal (opFlags 3 r.slot) (r.pa >>> 37) ep r.job (BitVec.ofNat 64 r.pa) [])).modFab fun f =>
      { f with reds := f.reds.filter (·.rid != r.rid) }
  | none => (s.redReport r ⟨.fabric, 5⟩ .none).redGone r

/-- Whether a reduction's target lies behind a stack that is not ready (R339), or another package has first to return its line
(R252), so that it is held. -/
def State.redWaits (s : State) (r : Reduction) : Bool :=
  !(s.lineHolders (lineOf r.pa) true r.from_).isEmpty ||
  bitsAt r.pa 40 12 == s.plat.fuses.pkg && (r.from_.isSome || bitsAt r.pa 37 3 != r.die) && !(s.stackUp (stackOf r.pa))

/-- The places of a die's reducing writes to other packages among those not yet answered. -/
def State.redSlot (s : State) (die : Nat) : Nat := freeSlot ((s.fab.reds.filter (fun r => r.die == die && r.away)).map (·.slot))

/-- Places that a packet's flags can name. -/
def slotLimit : Nat := 8192

/-- A reducing write crosses the fabric to its home in another package (R252, R259), a once-tagged one with the job id of its
context (R251), and is performed when the home answers. -/
def State.sendRed (s : State) (r : Reduction) : State :=
  let slot := s.redSlot r.die
  if slotLimit ≤ slot then s
  else
    ((s.modRed r.rid (fun r => { r with away := true, slot := slot })).modPeer (·.drop (lineOf r.pa))).sendPacket
      (mkPacket .reducingWrite (opFlags ((if r.fp32 then 1 else 0) + (if r.once.isSome then 2 else 0)) slot) (s.endpoint r.die)
        (r.pa >>> 37) (if r.once.isSome then r.job else 0) (BitVec.ofNat 64 r.pa) [redWire r.codes r.scale r.once])

/-- The final hop is performed (R266). -/
def State.applyRed (s : State) (r : Reduction) : State := (s.finalApply r.pa r.fp32 r.scale r.codes).redGone r

/-- FINAL_HOP (R266) with its once-tag check (R267): a marked target, or none to reach, holds the write until its report is
answered (R254, R336). One whose home lies in another package is sent there. -/
def opFinalHop (rid : Nat) (s : State) : State :=
  match s.red? rid with
  | none => s
  | some r =>
    if r.away ∨ s.reported (.reduction rid) ∨ s.redWaits r then s
    else if s.cutOff (bitsAt r.pa 40 12) then s.holdRed r ⟨.fabric, 4⟩ (.reduction rid)
    else if s.elsewhere r.pa then s.sendRed r
    else match r.once with
    | none =>
      if s.mem.marked (lineOf r.pa) then s.holdRed r ⟨.dataerr, 0⟩ (.reduction rid)
      else s.applyRed r
    | some tag =>
      match s.ctxOfJob r.job with
      | none => s.refuseRed r
      | some c =>
        let pair : OnceTag := { ep := r.pa >>> 37, tag := tag, pa := r.pa }
        if c.once.contains pair then s.redGone r
        else if onceLimit ≤ (c.once.filter (·.ep == pair.ep)).length then s.holdRed r ⟨.fabric, 6⟩ .none
        else if s.mem.marked (lineOf r.pa) then s.holdRed r ⟨.dataerr, 0⟩ (.reduction rid)
        else (s.modCtx c.num (fun c => { c with once := pair :: c.once })).applyRed r

/-! ### Counter advances -/

/-- Advance a network counter of an endpoint (R272, R292): it is on its way, to another package as a packet at once where a
port routes. -/
def State.advanceAt (s : State) (a : Advance) : State :=
  if a.amount = 0 then s
  else
    let (aid, s) := s.fresh
    let away := !(s.isLocal a.ep) && !(s.cutOff (a.ep / 8))
    let slot := freeSlot ((s.fab.advances.filter (fun o => o.die == a.die && o.away)).map (·.slot))
    let s := s.modFab fun f => { f with advances := f.advances ++ [{ a with aid := aid, away := away, slot := slot }] }
    if away then s.sendPacket (mkPacket .counterAdvance (opFlags 0 slot) (s.endpoint a.die) a.ep a.job
      (BitVec.ofNat 64 (a.ctr + a.amount * 2 ^ 32)) []) else s

/-- The advance of a work entry (R272 step 3). -/
def WorkEnt.advance (e : WorkEnt) (c : Context) : Advance :=
  { aid := 0, job := c.jobid, ctx := c.num, die := e.die, node := some e.nodeIx, ep := e.remote, ctr := e.rctr,
    amount := e.amount, bid := e.bid, lctr := some e.ctr, num := e.num }

/-- An advance is complete: a node that it belongs to has nothing left to do (R292, R295). -/
def State.advanceGone (s : State) (a : Advance) : State :=
  s.modFab fun f => { f with advances := f.advances.filter (·.aid != a.aid) }

/-- A report about an advance, with what its work entry or its node gives (R311). -/
def State.advanceReport (s : State) (a : Advance) (sub : Nat) (t : RepTarget) : State :=
  s.opReport a.ctx a.die a.bid ⟨⟨.fabric, sub⟩, 0⟩ a.lctr a.num t a.node

/-- COUNTER_ADVANCE_ARRIVE (R219, R251). An advance to another package that no route has taken is reported, and leaves once a
port routes (R254); it completes when it is answered. -/
def opCounterAdvanceArrive (aid : Nat) (s : State) : State :=
  match s.fab.advances.find? (·.aid == aid) with
  | none => s
  | some a =>
    if s.isLocal a.ep = false then
      (if a.away ∨ s.reported (.advance aid) then s
       else if s.cutOff (a.ep / 8) then s.advanceReport a 4 (.advance aid)
       else (s.advanceGone a).advanceAt a)
    else
      let s := s.advanceGone a
      match s.ctxOfJob a.job with
      | none => s.advanceReport a 5 .none
      | some c => s.modCtx c.num (fun c => c.modNet (a.ep % 8) a.ctr (·.advance (BitVec.ofNat 64 a.amount)))

/-! ### Work entries -/

/-- A work-entry record (R270), decoded; a reserved value, an address or length not aligned, or an absent endpoint makes it
malformed (R271). -/
def parseEntry (s : State) (r : List Byte) : Option WorkEnt :=
  let kind := field r 0 1
  let isSend := kind == 2
  let bad := 2 < kind || 7 < field r 1 1 || 4095 < field r 2 2 || field r 8 8 % 128 != 0 || field r 24 8 % 128 != 0 ||
    0xFFFFFF80 < field r 24 8 || (if isSend then field r 20 4 != 0 else field r 16 8 % 128 != 0) ||
    (field r 32 2 != 0xFFFF && 4095 < field r 32 2) || !(zeroAt r 34 2) || !(zeroAt r 40 24) || !(s.epOk (field r 4 4))
  if bad then none
  else some
    { eid := 0, die := 0, ctx := 0, bid := none, ti := none, node := none, kind := kind, slot := BitVec.ofNat 64 (field r 1 1), key := 0,
      trigger := field r 2 2, threshold := 0, remote := field r 4 4, src := BitVec.ofNat 64 (field r 8 8),
      dst := BitVec.ofNat 64 (field r 16 8), len := field r 24 8, rctr := field r 32 2, amount := field r 36 4,
      ctr := { net := true, num := 0 }, num := 0, st := .armed, abandoned := false }

/-- Whether an entry's transfer is complete (R272). -/
def State.entryDone (s : State) (e : WorkEnt) : Bool :=
  e.abandoned || (e.st == .running &&
    !(s.copies.any (fun c => c.owner == .entry e.eid && !(s.copyDone c))) &&
    !(s.fab.reds.any (·.entry == some e.eid)) && !(s.fab.contribs.any (·.entry == some e.eid)) &&
    !(s.fab.msgs.any (fun m => m.entry == some e.eid && !m.sent)))

/-- The place and target of one block of a reducing write's destination (R268, R270): the fault, or the address and
whether its target is FP32. -/
def State.redTarget (s : State) (c : Context) (site : Nat) (va : DWord) : State × (MemFault ⊕ (Pa × Bool)) :=
  match s.reachAt c site va accRred with
  | (s1, .inl f) => (s1, .inl f)
  | (s1, .inr p) =>
    if p.win then (s1, .inr (p, ((windowAt? s1 p.pa).map (·.fmt)).getD 0 == 0))
    else if p.tag = 0 then (s1, .inr (p, true))
    else if p.tag = 1 then (s1, .inr (p, false))
    else (s1, .inl ⟨.format, 5⟩)

/-- The rounding of a reducing write's element (R268): the counter of R131 is the block's number times 32 plus the
element. A reducing-write work entry has no layout record and R268 gives the counter for `rred` only; the model uses it for the
entry's destination too (DESIGN CHOICE, notes/assumptions/74.md). -/
def redMode (slot seed : DWord) (va : DWord) (fp32? : Bool) (e : Nat) : RMode :=
  slotMode slot seed (BitVec.ofNat 64 (va.toNat / (if fp32? then 128 else 32) * 32 + e))

/-- The slot of a reducing write (R268): R129, then MXFP8-E4M3 only. -/
def redSlotFate (slot : DWord) : Option MemFault :=
  match fmtFate (some slot) [] true with
  | some n => some ⟨.format, n⟩
  | none => if slotFmt slot = wireFmt then none else some ⟨.format, 3⟩

/-- Narrow under a slot's rounding and saturation (R268). -/
def narrowSlot (slot seed va : DWord) (fp32? : Bool) (vs : List Val) : Byte × List Byte :=
  narrow (redMode slot seed va fp32?) (slotSat slot) vs

/-- The blocks of a reducing-write entry, from where it stands (R270, R272); a fault stalls it at its block. -/
def State.entryBlocks : Nat → State → Context → WorkEnt → State
  | 0, s, _, _ => s
  | n + 1, s, c, e =>
    if e.len = 0 then s
    else
      let site := engineSite e.die
      let stall (s : State) (f : CopyFault) : State :=
        let s := s.modEnt e.eid (fun x => { x with src := e.src, dst := e.dst, len := e.len })
        if f.f.isHold then s.modEnt e.eid (fun x => { x with st := .armed })
        else (s.modEnt e.eid (fun x => { x with st := .stalled })).opReport e.ctx e.die e.bid f (some e.ctr) e.num (.entry e.eid) (some e.nodeIx)
      match s.mapLines c site accCopyIn [e.src.toNat / 128] with
      | (s1, .inl f) => stall s1 f
      | (s1, .inr lm) =>
        match s1.redTarget c site e.dst with
        | (s2, .inl f) => stall s2 ⟨f, e.dst⟩
        | (s2, .inr (p, fp32?)) =>
          match redSlotFate e.slot with
          | some f => stall s2 ⟨f, 0⟩
          | none =>
            let vs := (List.range 32).map (fun k => f32 (BitVec.ofNat 32 (s2.mem.num (lm.pa (e.src.toNat + 4 * k)) 4)))
            let r := narrowSlot e.slot e.key e.dst fp32? vs
            let s3 := s2.reduceTo p fp32? r.2 r.1 none e.die c e.bid none none 0 (some e.eid) e.nodeIx
            State.entryBlocks n s3 c
              { e with src := e.src + 128, dst := e.dst + (if fp32? then 128 else 32), len := e.len - 128 }

/-- A flat byte tensor of whole lines, for an entry that moves lines. -/
def lineTensor (va : DWord) (n : Nat) : Place :=
  .tensor { base := va, fmt := 0x07, samp := [1], ext := [128 * n], stride := [0], win := [128 * n] } [0]

/-- Run a fired entry's transfer (R272 step 2). -/
def State.runEntry (s : State) (c : Context) (e : WorkEnt) : State :=
  let s := s.modEnt e.eid (fun e => { e with st := .running })
  match e.kind with
  | 0 =>
    let n := e.len / 128
    let (cid, s) := s.fresh
    let d : Dst := { place := lineTensor e.dst n, pos := none, st := .accepted, todo := (List.range n).map (fun i => (i, i)),
                     turned := false, elems := 0, later := [] }
    { s with copies := s.copies ++ [
        { cid := cid, clus := 0, handle := none, die := e.die, bay := 0, core := 48, bid := e.bid, lid := none, ctx := e.ctx,
          owner := .entry e.eid, key := 0, slot := 0, xf := .lines, src := lineTensor e.src n, box := [n], dsts := [d],
          ctr := some e.ctr, num := e.num, stalled := false, abandoned := false, short := false }] }
  | 1 => State.entryBlocks (e.len / 128) s c e
  | _ =>
    let (mid, s) := s.fresh
    s.modFab fun f => { f with msgs := f.msgs ++ [
      { mid := mid, job := c.jobid, ctx := e.ctx, src := s.endpoint e.die, dst := e.remote, tag := loWord e.dst, len := e.len,
        slot := s.sendSlot e.die, data := [], unread := e.len / 128, va := e.src, tile := none, bid := e.bid, lid := none, ctr := none, num := 0,
        entry := some e.eid, order := 0, st := .flight, tries := 0, retryAt := 0, sent := false, stalled := false,
        cut := false, node := e.nodeIx }] }

/-- Whether an entry may fire (R272): its trigger has reached its threshold. -/
def State.entryReady (s : State) (e : WorkEnt) : Bool :=
  e.st == .armed && (match s.ctx? e.ctx with
    | some c => decide (e.threshold.toNat ≤ (c.netCtr e.die e.trigger).c.toNat)
    | none => false)

/-- The entries of a thread that are ready, in the order in which it posted them (R260). -/
def State.readyEntries (s : State) (bid ti : Nat) : List WorkEnt :=
  s.fab.entries.filter (fun e => e.bid == some bid && e.ti == some ti && s.entryReady e)

/-- WORK_ENTRY_FIRE (R272): after the ready entries that the same thread posted before (R260). -/
def opWorkEntryFire (eid : Nat) (s : State) : State :=
  match s.ent? eid with
  | none => s
  | some e => match s.ctx? e.ctx with
    | none => s
    | some c =>
      if s.entryReady e = false ∨ s.fab.entries.any (fun o => e.bid.isSome && o.bid == e.bid && o.ti == e.ti &&
          o.eid < e.eid && s.entryReady o) then s
      else if e.kind = 2 ∧ sendLimit ≤ s.sendsAt e.die then s
      else s.runEntry c e

/-- The ready entries of a thread fire, in the order in which it posted them; the first argument bounds them (R260). -/
def State.fireReady : Nat → Nat → Nat → State → State
  | 0, _, _, s => s
  | n + 1, bid, ti, s =>
    match s.readyEntries bid ti with
    | e :: _ => State.fireReady n bid ti (opWorkEntryFire e.eid s)
    | [] => s

/-- WORK_ENTRY_DONE (R272 steps 3 and 4). An advance that no route can carry stalls the entry (R254). -/
def opWorkEntryDone (eid : Nat) (s : State) : State :=
  match s.ent? eid with
  | none => s
  | some e =>
    if s.entryDone e = false then s
    else if e.abandoned = false ∧ e.rctr ≠ 0xFFFF ∧ e.amount ≠ 0 ∧ s.cutOff (e.remote / 8) then
      (if s.reported (.entry eid) then s
       else s.opReport e.ctx e.die e.bid ⟨⟨.fabric, 4⟩, 0⟩ (some e.ctr) e.num (.entry eid) (some e.nodeIx))
    else
      let s := (s.copies.filter (fun c => c.owner == .entry eid)).foldl State.finishTiles s
      let s := if e.abandoned then s.stat e.ctx e.die (fun x => { x with abandoned := x.abandoned + 1 })
        else if e.rctr = 0xFFFF then s
        else match s.ctx? e.ctx with
        | some c => s.advanceAt (e.advance c)
        | none => s
      (s.modFab fun f => { f with entries := f.entries.filter (·.eid != eid) }).doneNum e.ctx e.die e.bid (some e.ctr) e.num

/-! ### Packets from other packages -/

/-- The flag of a packet whose line is marked: the mark travels with it (R335). -/
def markFlag : Half := 0x8000

/-- The atomic operation of a packet on an old value (R202, R254): the operation in flags 3 to 0, flag 4 for 64 bits, flag 5
for a compare-and-swap of bytes 0 to 7 of the line by bytes 8 to 15. -/
def packetAtom (flags : Nat) (w : WireLine) (old : DWord) : DWord :=
  let b64 := flags.testBit 4
  let arg (n : Nat) : DWord := BitVec.ofNat 64 (bitsAt w.data.toNat n (if b64 then 64 else 32))
  if flags.testBit 5 then (if old = arg 0 then arg 64 else old) else atomOp (flags % 16) b64 old (arg 0)

/-- Another package's endpoint takes a copy of a line (R253). -/
def State.noteSharer (s : State) (line ep : Nat) (excl : Bool) : State :=
  let d := (s.dir.find? (·.line == line)).getD { line := line, owner := none, sharers := [], groups := [] }
  { s with dir := d.take ep excl :: s.dir.filter (·.line != line) }

/-- Whether a store of this package to a line waits in a queue (R213). -/
def State.storeWaits (s : State) (line : Nat) : Bool :=
  s.blocks.any (fun b => b.warps.any (fun w => w.stores.any (fun e => e.cells.any (fun c => lineOf c.addr == line))))

/-- Whether a packet acts on memory behind a stack that is not ready (R339), or on a line that another endpoint has first to
return, or, where it takes a copy, on one that a buffered store is about to write (R252): it is held. -/
def State.packetWaits (s : State) (k : Packet) : Bool :=
  let pa := k.field.toNat
  let wr := k.kind != .read || k.flags.toNat.testBit 0
  [PacketKind.read, .write, .writeBack, .atomic].contains k.kind && bitsAt pa 40 12 == s.plat.fuses.pkg &&
    (!(s.stackUp (stackOf pa)) || (k.kind != .writeBack && !(s.lineHolders (lineOf pa) wr (some k.src)).isEmpty) ||
      (k.kind == .read && s.storeWaits (lineOf pa)))

/-- The lines of a packet, and those of them that came with an uncorrectable error: with bit 15 of the flags the packet begins
with lines whose bits name them (R335; notes/assumptions/13.md). -/
def packetPayload (k : Packet) : List WireLine × List Nat :=
  if k.flags.toNat.testBit 15 then
    let n := ceilDiv k.lines.length 1025
    let rest := k.lines.drop n
    (rest, (List.range rest.length).filter (fun i => (k.lines[i / 1024]?).any (fun w => w.data.toNat.testBit (i % 1024))))
  else (k.lines, [])

/-- The bits that a masked write leaves of a line (R252). -/
def wireUnder (old new mask : WireLine) : WireLine :=
  { data := (old.data &&& ~~~mask.data) ||| (new.data &&& mask.data),
    side := (old.side &&& ~~~mask.side) ||| (new.side &&& mask.side) }

/-- A write from another package (R252): whole lines with their sidecars, a marked one left marked (R335); or, with flag 1, the
bits of one line that its second line names, a partial write. -/
def State.writeFrom (s : State) (k : Packet) : State :=
  let line := lineOf k.field.toNat
  if k.kind = .write ∧ k.flags.toNat.testBit 1 then
    let s := s.touch line
    let z : WireLine := { data := 0, side := 0 }
    let w := wireUnder (s.mem.wire line) (k.lines.getD 0 z) (k.lines.getD 1 z)
    let m := s.mem.setWire line w
    { s with mem := { m with marks := s.mem.marks } }
  else
    let s := (packetPayload k).1.zipIdx.foldl (fun s (w, i) => s.putWire (line + i) w) s
    { s with mem := (packetPayload k).2.foldl (fun m i => m.mark (line + i)) s.mem }

/-- A far atomic of another package (R202, R254): its operations one after another, each with the old value that it finds. -/
def State.atomFrom (s : State) (k : Packet) : State × List WireLine :=
  let pa := k.field.toNat
  let n := widthOf (k.flags.toNat.testBit 4)
  k.lines.foldl (fun (x : State × List WireLine) w =>
    let old := BitVec.ofNat 64 (x.1.mem.num pa n)
    (x.1.writeMem pa (toBytes n (packetAtom k.flags.toNat w old).toNat), x.2 ++ [{ data := old.setWidth 1024, side := 0 }]))
    (s.touch (lineOf pa), [])

/-- A thread's part of a far atomic is answered (R50, R218, R254): its result is there with the old value, or is a late failure. -/
def Thread.atomBack (t : Thread) (rid d : Nat) (b64 ret : Bool) (old : DWord) (late : Option Trap) : Thread :=
  { t with results := t.results.map (fun r =>
      if r.rid = rid then
        { r with kind := .load true, late := if ret then late else none,
                 writes := if ret then (if b64 then wrPair d old else wr d (loWord old)) else [] }
      else r) }

/-- The answer to a participant of a far atomic (R254, R309): the old value; or a marked line's failure, which is a report where
nothing is returned. -/
def State.answerWaiter (s : State) (a : PeerAtom) (ls : List WireLine) (bad : Bool) (w : PeerWaiter) : State :=
  let old : DWord := ((ls[w.ix]?).map (·.data.setWidth 64)).getD 0
  let s := match w.rid with
    | some rid => s.modThread w.bid w.ti (·.atomBack rid w.d a.b64 w.ret old (if bad then some w.late else none))
    | none => s
  match s.block? w.bid with
  | some b => if bad ∧ w.ret = false then
      s.report b.ctx { Report.plain 1 .dataerr 0 b.die w.late.addr .access with token := b.token, node := s.nodeOf b.lid } else s
  | none => s

/-- The home of a far atomic answers it: the first that the die has open at the address. -/
def State.atomAnswer (s : State) (die pa : Nat) (ls : List WireLine) (bad : Bool) : State :=
  match s.fab.peer.atoms.find? (fun a => a.die == die && a.pa == pa) with
  | some a => a.waiters.foldl (fun s w => s.answerWaiter a ls bad w)
      (s.modPeer fun x => { x with atoms := dropFirst (fun y => y.die == die && y.pa == pa) x.atoms })
  | none => s

/-- The home of a line answers a die's read (R252): the die holds a copy of it, unless the line has been written meanwhile. A
marked line comes marked (R335). -/
def State.lineAnswer (s : State) (die line : Nat) (ls : List WireLine) (bad : Bool) : State :=
  match s.fab.peer.asked.find? (fun a => a.1 == die && a.2.1 == line) with
  | none => s
  | some a =>
    let s := s.modPeer fun x => { x with asked := dropFirst (fun y => y.1 == die && y.2.1 == line) x.asked }
    match a.2.2, ls, bad with
    | true, w :: _, false => (s.putWire line w).modPeer fun x => { x with here := x.here ++ [(die, line)] }
    | true, _, true => ({ s with mem := s.mem.mark line } : State).modPeer fun x => { x with here := x.here ++ [(die, line)] }
    | _, _, _ => s

/-- A reducing write of another package (R259, R264): a contribution to a window, or one on its way to its final hop. -/
def State.redFrom (s : State) (k : Packet) : State :=
  let pa := k.field.toNat
  let w := k.lines.headD { data := 0, side := 0 }
  let codes := toBytes 32 (w.data.toNat % 2 ^ 256)
  let scale := BitVec.ofNat 8 (w.side.toNat % 256)
  if k.dst.testBit 31 then
    s.contribute { gid := 0, win := k.dst % 2 ^ 31, off := pa % 2 ^ 33, round := 0, ep := k.src, hop := 0, codes := codes,
                   scale := scale, ctx := noCtx, bid := none, lid := none, ctr := none, num := 0, entry := none,
                   slot := flagSlot k.flags }
  else
    let (rid, s) := s.fresh
    s.modFab fun f => { f with reds := f.reds ++ [
      { rid := rid, ctx := noCtx, die := bitsAt pa 37 3, job := k.job, from_ := some k.src, pa := pa, fp32 := k.flags.toNat.testBit 0,
        codes := codes, scale := scale, once := if k.flags.toNat.testBit 1 then some (BitVec.ofNat 64 (bitsAt w.data.toNat 256 64)) else none,
        group := none, bid := none, lid := none, ctr := none, num := 0, entry := none, held := false, slot := flagSlot k.flags }] }

/-- A message header of another package (R273, R276): a message that was refused before comes again. -/
def State.headerFrom (s : State) (k : Packet) : State :=
  let lo := k.field.toNat % 2 ^ 32
  let hi := k.field.toNat / 2 ^ 32
  let slot := flagSlot k.flags
  match s.fab.msgs.find? (fun m => m.src == k.src && m.dst == k.dst && m.job == k.job && m.slot == slot && m.st == .refused) with
  | some m => s.modMsg m.mid (fun m => { m with
      st := .flight, data := (packetPayload k).1, bad := (packetPayload k).2, cut := k.flags.toNat.testBit 0 })
  | none =>
    let (mid, s) := s.fresh
    s.modFab fun f => { f with msgs := f.msgs ++ [
      { mid := mid, job := k.job, ctx := noCtx, src := k.src, dst := k.dst, tag := BitVec.ofNat 32 lo, len := 128 * hi,
        slot := slot, bad := (packetPayload k).2, data := (packetPayload k).1, unread := if 128 * hi ≤ eagerMax then 0 else hi, va := 0,
        tile := none, bid := none, lid := none, ctr := none, num := 0, entry := none, order := 0, st := .flight, tries := 0,
        retryAt := 0, sent := false, stalled := false, cut := k.flags.toNat.testBit 0 }] }

/-- The payload of a message that this package has asked another for (R280). -/
def State.payloadFrom (s : State) (k : Packet) : State :=
  match s.fab.msgs.find? (fun m => m.src == k.src && m.dst == k.dst && m.job == k.job && m.slot == flagSlot k.flags &&
      m.unread != 0 && m.tries != 0) with
  | some m => match m.st with
    | .matched rid => match s.recv? rid with
      | some r =>
        let m1 := { m with data := (packetPayload k).1, bad := (packetPayload k).2, unread := 0, cut := k.flags.toNat.testBit 0 }
        (s.modMsg m.mid (fun _ => m1)).landPulled m1 r
      | none => s
    | _ => s
  | none => s

/-- The message, the advance or the reducing write of this package that an answer names. -/
def State.answered (s : State) (k : Packet) : Option Msg :=
  s.fab.msgs.find? (fun m => m.src == k.dst && m.dst == k.src && m.job == k.job && m.slot == flagSlot k.flags && m.st == .away)
def State.answeredAdvance (s : State) (k : Packet) : Option Advance :=
  s.fab.advances.find? (fun a => s.endpoint a.die == k.dst && a.ep == k.src && a.job == k.job && a.away && a.slot == flagSlot k.flags)
def State.answeredRed (s : State) (k : Packet) : Option Reduction :=
  s.fab.reds.find? (fun r => s.endpoint r.die == k.dst && r.pa >>> 37 == k.src && r.away && r.slot == flagSlot k.flags)

/-- A home has performed a write of a die: the first that the die has open of the line. A thread that is parked for it goes on once
every home of its store has (R218, R252). -/
def State.writeAcked (s : State) (die line : Nat) : State :=
  let s1 := s.modPeer (·.acked die line)
  match s.fab.peer.writes.find? (fun w => w.die == die && w.line == line) with
  | some w => (match w.sc, w.owner with
    | true, .thread bid ti => s1.scDone bid ti
    | _, _ => s1)
  | none => s1

/-- An acknowledgement (R252, R268, R272, R275): of a write to memory of another package, or of the return of a line of this one;
of an advance; of a reducing write; or of an eager message. -/
def State.ackFrom (s : State) (k : Packet) : State :=
  let pa := k.field.toNat
  match flagLow k.flags with
  | 0 => if s.elsewhere pa then s.writeAcked (k.dst % 8) (lineOf pa) else s.modDir (lineOf pa) (·.answered k.src)
  | 1 => (match s.answeredAdvance k with
    | some a => s.advanceGone a
    | none => s)
  | 2 => (match s.answeredRed k with
    | some r => s.redGone r
    | none => s)
  | _ => (match s.answered k with
    | some m => if m.eager then s.modMsg m.mid (fun m => { m with st := .taken }) else s
    | none => s)

/-- A refusal (R251, R276): of a message, for now or for good; of an advance; or of a once-tagged write. -/
def State.refusalFrom (s : State) (k : Packet) : State :=
  match flagLow k.flags with
  | 2 => (match s.answeredAdvance k with
    | some a => (s.advanceGone a).advanceReport a 5 .none
    | none => s)
  | 3 => (match s.answeredRed k with
    | some r => (s.redReport r ⟨.fabric, 5⟩ .none).redGone r
    | none => s)
  | n => (match s.answered k with
    | some m => if n = 0 then s.refuse m else s.refuseForGood m
    | none => s)

/-- What a delivered packet does (R251, R252, R259, R260, R264, R272, R275). How a packet's flags and address field carry
an operation is the model's (notes/assumptions/13.md). No value of a marked line leaves as good data (R336). -/
def State.deliver (s : State) (k : Packet) : State :=
  let pa := k.field.toNat
  let marked := k.flags.toNat.testBit 15
  let back (kind : PacketKind) (flags : Half) (ls : List WireLine) : State → State :=
    fun s => s.sendPacket (mkPacket kind flags k.dst k.src k.job k.field ls)
  match k.kind with
  | .read =>
    let s := (s.touch (lineOf pa)).noteSharer (lineOf pa) k.src (k.flags.toNat.testBit 0)
    if s.mem.marked (lineOf pa) then back .readResponse markFlag [] s else back .readResponse 0 [s.mem.wire (lineOf pa)] s
  | .write => back .acknowledge 0 [] (s.writeFrom k)
  | .writeBack => back .acknowledge 0 [] ((s.writeFrom k).modDir (lineOf pa) (·.gone k.src))
  | .atomic =>
    let x := s.atomFrom k
    if s.mem.marked (lineOf pa) then back .atomicResponse markFlag [] x.1 else back .atomicResponse 0 x.2 x.1
  | .invalidate => back .acknowledge 0 [] (s.modPeer (·.leave (k.dst % 8) (lineOf pa)))
  | .reducingWrite => s.redFrom k
  | .messageHeader => s.headerFrom k
  | .messagePull =>
    (match s.answered k with
     | some m => s.modMsg m.mid (fun m => { m with st := .pulling })
     | none => s)
  | .readResponse =>
    if k.flags.toNat.testBit 1 then s.payloadFrom k else s.lineAnswer (k.dst % 8) (lineOf pa) k.lines marked
  | .counterAdvance =>
    (match s.ctxOfJob k.job with
     | some c => back .acknowledge (opFlags 1 (flagSlot k.flags)) []
         (s.modCtx c.num (fun c => c.modNet (k.dst % 8) (pa % 2 ^ 32 % 4096) (·.advance (BitVec.ofNat 64 (pa / 2 ^ 32)))))
     | none => back .refusal (opFlags 2 (flagSlot k.flags)) [] s)
  | .acknowledge => s.ackFrom k
  | .refusal => s.refusalFrom k
  | .atomicResponse => s.atomAnswer (k.dst % 8) pa k.lines marked

/-- Deliver the packets of a stream that have come early, as far as their order numbers follow on; the first argument
bounds their number (R260). -/
def State.deliverEarly : Nat → Stream → State → State × Stream
  | 0, x, s => (s, x)
  | n + 1, x, s =>
    match x.early.find? (fun k => k.order == x.next && !(s.packetWaits k)) with
    | some k => State.deliverEarly n { x with next := (x.next + 1) % 2 ^ 32, early := x.early.filter (fun o => o.order != k.order) }
                  (s.deliver k)
    | none => (s, x)

/-- PACKET_DELIVER (R260). -/
def opPacketDeliver (k : Packet) (s : State) : State :=
  if k.dst.testBit 31 then s.deliver k
  else
    let same (x : Stream) : Bool := x.src == k.src && x.dst == k.dst && x.job == k.job
    let x := (s.fab.streams.find? same).getD { src := k.src, dst := k.dst, job := k.job, next := 0, early := [] }
    let x := if x.early.any (fun o => o.order == k.order) then x else { x with early := x.early ++ [k] }
    let (s, x) := State.deliverEarly x.early.length x s
    s.modFab fun f => { f with streams := x :: f.streams.filter (fun y => !(same y)) }

end Sys2Proof.Machine
end

