-- ==== Sys2Proof/Machine/FabricInstr.lean ====
section
/-! DEFINITION. The fabric instructions (R268, R271, R274, R278, R286, R287). -/

namespace Sys2Proof.Machine

open Sys2Proof

/-! ### send -/

/-- A v or w register that must be one (R274). -/
def vw (s : Nat) (n : Nat := 1) : Opd := { spec := s, n := n, al := n, z := false, rd := true }

/-- The decode checks of `send` (R274); an odd start of the address pair is misaligned (R41). -/
def sendSig (x : FormX) : Sig :=
  let tile := x.fld 50 50 == 1
  { x.sig (ctrOk x && x.fld 48 46 == 0)
      ((if tile then [noneAt x.b.toNat] else [vw x.a.toNat 2, vw x.b.toNat]) ++ [vw x.c.toNat, vw x.d.toNat]) with
    specOk := !tile || handleOk x.a.toNat }

/-- The checks of a send after the tile's state (R274): the fault with its address, or the length and source. -/
def sendFate (s : State) (ep : Nat) (tile? : Bool) (len : Nat) (va : DWord) : Option (MemFault × DWord) :=
  if s.epOk ep = false then some (⟨.fabric, 1⟩, 0)
  else if tile? then none
  else if len % 128 ≠ 0 ∨ 0xFFFFFF80 < len then some (⟨.fabric, 2⟩, 0)
  else if va.toNat % 128 ≠ 0 then some (⟨.misalign, 2⟩, va)
  else none

/-- Whether a thread has a buffered store to one of `n` lines of its address space (R217): a send observes it. A store to a
window counts, whatever its members. -/
def ownReads (s : State) (i : Iss) (ti : Nat) (va : DWord) (n : Nat) : Bool :=
  let cells := (((s.block? i.blk.bid).map (·.ownStores ti)).getD []).flatMap (·.cells)
  !cells.isEmpty && (List.range n).any (fun k => match (s.reach i (va + BitVec.ofNat 64 (128 * k)) accCopyIn).2 with
    | .inr p => cells.any (fun b => lineOf b.addr == lineOf p.pa || bitsAt b.addr 53 1 == 1)
    | .inl _ => false)

/-- One thread's send, once its tile's state is judged. Its work entries that are ready leave first (R260); a plain send
performs of the thread's buffered stores only what its source reads (R217, R372). -/
def sendGo (x : FormX) (i : Iss) (ti : Nat) (r : Rd) (s : State) : State :=
  let tile? := x.fld 50 50 == 1
  let h := x.a.toNat
  let t := s.tile i.blk.bid h
  let ep := (r.r x.d.toNat).toNat
  let len := if tile? then 128 * (t.rows * t.pitch) else (r.r x.b.toNat).toNat
  let va := if tile? then 0 else r.pair x.a.toNat
  if tile? ∧ t.kind = 2 then s.faultThread i ti .tilestate 4
  else match sendFate s ep tile? len va with
  | some (f, a) => s.memFault i ti f a
  | none =>
    let s := State.fireReady s.fab.entries.length i.blk.bid ti s
    if sendLimit ≤ s.sendsAt i.blk.die ∨ s.readyEntries i.blk.bid ti ≠ [] then s.waitThread i.blk.bid ti .sendRoom
    else s.afterAll i.blk.bid ti (if x.fld 49 49 = 1 then some 3 else none) <|
      let s := if x.fld 49 49 = 1 then (s.drainOf i.blk.bid ti).release i.blk 2
        else if ownReads s i ti va (if tile? then 0 else len / 128) then s.drainOf i.blk.bid ti else s
      let (num, s) := s.takeNum i.ctx.num i.blk.die (some i.blk.bid) (FormX.ctr x)
      let (mid, s) := s.fresh
      let s := if tile? then s.modTile i.blk.bid h Tile.drainBegin else s
      let s := s.modFab fun f => { f with msgs := f.msgs ++ [
        { mid := mid, job := i.ctx.jobid, ctx := i.ctx.num, src := s.endpoint i.blk.die, dst := ep, tag := r.r x.c.toNat,
          len := len, slot := s.sendSlot i.blk.die, data := [], unread := len / 128, va := va, tile := if tile? then some (i.blk.bid, h) else none,
          bid := some i.blk.bid, lid := some i.blk.lid, ctr := some (FormX.ctr x), num := num, entry := none, order := 0,
          st := .flight, tries := 0, retryAt := 0, sent := false, stalled := false, cut := false, node := s.nodeOf i.blk.lid }] }
      s.pass (sendSig x) i.blk.bid ti

/-- `send` (R274). -/
def opSend (x : FormX) (s : State) : State :=
  s.runFold (sendSig x) fun i ti s =>
    match s.thread? i.blk.bid ti with
    | none => s
    | some t =>
      let r := t.rd i.warp.w
      if x.fld 50 50 = 1 then
        s.tileStep i ti x.a.toNat srcTile.1 srcTile.2 fun _ _ => sendGo x i ti r s
      else sendGo x i ti r s

/-! ### rpost -/

def rpostSig (x : FormX) : Sig :=
  x.sig (ctrOk x && x.fld 50 46 == 0) [noneAt x.d.toNat, src x.a.toNat 2, src x.b.toNat 8, noneAt x.c.toNat]

/-- The checks of a receive record (R277, R278 step 2, R288): the RECV subcode. -/
def recvFate (s : State) (bid : Nat) (r : List Byte) (va : DWord) (octet : Bool) : Option Nat :=
  let kind := field r 12 1
  let h := field r 13 1
  let src := field r 0 4
  if 1 < kind ∨ 63 < h ∨ (kind = 1 ∧ h ≠ 0) ∨ zeroAt r 14 2 = false ∨ (kind = 0 ∧ field r 24 8 ≠ 0) ∨
      zeroAt r 40 24 = false ∨ (32768 ≤ src ∧ src ≠ 0xFFFFFFFF) then some 1
  else if field r 16 8 % 128 ≠ 0 ∨ 0xFFFFFF80 < field r 16 8 then some 2
  else if va.toNat % 64 ≠ 0 ∨ field r 32 8 % 32 ≠ 0 ∨ (kind = 1 ∧ field r 24 8 % 128 ≠ 0) then some 3
  else if kind = 0 ∧ (s.tile bid h).st ≠ .free ∧ (s.tile bid h).kind ≠ 0 then some 4
  else if octet = decide (kind = 0) then some 5
  else none

/-- A receive enters the posted list, or first takes the unexpected message that matches it and arrived earliest (R278,
R279). -/
def State.post (s : State) (r : Recv) (job : Word) : State :=
  let s := s.modFab fun f => { f with recvs := f.recvs ++ [r] }
  let ms := (s.unexpected r.die).filter (fun m => m.job == job && matchesMsg r.src r.tag r.mask m)
  match ms.mergeSort (fun a b => a.order ≤ b.order) with
  | m :: _ => s.land m r
  | [] => s

/-- One thread's receive (R278). -/
def rpostThread (x : FormX) (i : Iss) (ti : Nat) (s : State) : State :=
  match s.thread? i.blk.bid ti with
  | none => s
  | some t => s.afterReds i.blk.bid ti <|
    let rd := t.rd i.warp.w
    let ea := rd.pair x.a.toNat
    match (s.drainOf i.blk.bid ti).readRecord i ea 64 1 with
    | (s1, .inl f) => s1.memFault i ti f ea
    | (s1, .inr r) =>
      match recvFate s1 i.blk.bid r ea (x.b.toNat != 0xFF) with
      | some n => s1.faultThread i ti .recv n
      | none =>
        let h := field r 13 1
        let tile? := field r 12 1 == 0
        let place (s : State) (lay : Option Layout) : State :=
          if recvLimit ≤ s.recvsAt i.blk.die then s.waitThread i.blk.bid ti .recvRoom
          else
            let (num, s) := s.takeNum i.ctx.num i.blk.die (some i.blk.bid) (FormX.ctr x)
            let (rid, s) := s.fresh
            (s.post
              { rid := rid, ctx := i.ctx.num, die := i.blk.die, bid := i.blk.bid, src := BitVec.ofNat 32 (field r 0 4),
                tag := BitVec.ofNat 32 (field r 4 4), mask := BitVec.ofNat 32 (field r 8 4),
                tile := if tile? then some h else none, lay := lay,
                origin := if tile? then [] else (rd.nats x.b.toNat 7), max := field r 16 8,
                status := BitVec.ofNat 64 (field r 32 8), ctr := FormX.ctr x, num := num, st := .posted, mid := none,
                from_ := 0, mtag := 0, mlen := 0, landed := 0, flags := 0, node := s.nodeOf i.blk.lid } i.ctx.jobid).pass (rpostSig x) i.blk.bid ti
        if tile? then
          s1.tileStep i ti h ownDst.1 ownDst.2 fun _ _ => place s1 none
        else
          match s1.readLayout i (BitVec.ofNat 64 (field r 24 8)) with
          | (s2, .inl f) => s2.memFault i ti f.f f.va
          | (s2, .inr l) =>
            if dim0Ok l (rd.r x.b.toNat).toNat 0 (fmtBlock l.fmt) false then place s2 (some l)
            else s2.memFault i ti ⟨.layout, 4⟩ 0

/-- `rpost` (R278). -/
def opRpost (x : FormX) (s : State) : State := s.runFold (rpostSig x) (rpostThread x)

/-! ### rcancel and rprobe -/

def rcancelSig (x : FormX) : Sig :=
  { x.sig (ctrOk x && x.fld 50 46 == 0) [noneAt x.a.toNat, src x.b.toNat 2, noneAt x.c.toNat] with
    specOk := x.d.toNat < 8, predW := [x.d.toNat].filter (· != 7) }

/-- `rcancel` (R286): the thread parks until the Skimmer answers. -/
def opRcancel (x : FormX) (s : State) : State :=
  s.runLocal (rcancelSig x) fun i t =>
    t.parkPast (rcancelSig x).sw 8 (.cancel (FormX.ctr x) ((t.rd i.warp.w).pair x.b.toNat) x.d.toNat)

def rprobeSig (x : FormX) : Sig :=
  { x.sig (x.m == 0) [src x.a.toNat 4, noneAt x.b.toNat, noneAt x.c.toNat, dst x.d.toNat 4] with vclass := true }

/-- `rprobe` (R287). -/
def opRprobe (x : FormX) (s : State) : State :=
  s.runAlu (rprobeSig x) fun i _ t =>
    let w := (t.rd i.warp.w).regs x.a.toNat 4
    let ms := (s.unexpected i.blk.die).filter (fun m => m.job == i.ctx.jobid &&
      matchesMsg (w.getD 0 0) (w.getD 1 0) (w.getD 2 0) m)
    wrs x.d.toNat (match ms.mergeSort (fun a b => a.order ≤ b.order) with
      | m :: _ => [BitVec.ofNat 32 m.src, m.tag, BitVec.ofNat 32 m.len, if m.eager then 1 else 3]
      | [] => [0xFFFFFFFF, 0, 0, 0])

/-! ### wpost -/

def wpostSig (x : FormX) : Sig :=
  x.sig (ctrOk x && x.fld 50 46 == 0) [noneAt x.d.toNat, src x.a.toNat 2, src x.b.toNat 2, noneAt x.c.toNat]

/-- One thread's work entry (R271): its record is read before its alignment is judged. Its narrowing slot and seed are those of its block. -/
def wpostThread (x : FormX) (i : Iss) (ti : Nat) (s : State) : State :=
  match s.thread? i.blk.bid ti with
  | none => s
  | some t => s.afterReds i.blk.bid ti <|
    let rd := t.rd i.warp.w
    let ea := rd.pair x.a.toNat
    match (s.drainOf i.blk.bid ti).readRecord i ea 64 1 with
    | (s1, .inl f) => s1.memFault i ti f ea
    | (s1, .inr r) =>
      if ea.toNat % 64 ≠ 0 then s1.memFault i ti ⟨.misalign, 2⟩ ea
      else match parseEntry s1 r with
      | none => s1.faultThread i ti .fabric 3
      | some e =>
        if workLimit ≤ s1.worksAt i.blk.die then s1.waitThread i.blk.bid ti .workRoom
        else
          let (num, s2) := s1.takeNum i.ctx.num i.blk.die (some i.blk.bid) (FormX.ctr x)
          let (eid, s3) := s2.fresh
          (s3.modFab fun f => { f with entries := f.entries ++ [
            { e with eid := eid, die := i.blk.die, ctx := i.ctx.num, bid := some i.blk.bid, ti := some ti,
                     slot := slotOf i.blk.slots e.slot.toNat, key := i.blk.seed, threshold := rd.pair x.b.toNat,
                     ctr := FormX.ctr x, num := num, lnode := s3.nodeOf i.blk.lid }] }).pass (wpostSig x) i.blk.bid ti

/-- `wpost` (R271). -/
def opWpost (x : FormX) (s : State) : State := s.runFold (wpostSig x) (wpostThread x)

/-! ### rred -/

/-- The decode checks of `rred` (R268); an odd start of the tag pair is misaligned (R41). -/
def rredSig (x : FormX) : Sig :=
  x.sig (ctrOk x && x.fld 49 49 == 0)
    [{ spec := x.d.toNat, w := false, z := false, n := 8, al := 8, rd := true },
     { spec := x.a.toNat, w := false, z := false, n := 2, al := 2, rd := true },
     { spec := x.b.toNat, w := false, rd := true },
     if x.fld 50 50 = 1 then { spec := x.c.toNat, w := false, z := false, n := 2, al := 2, rd := true } else noneAt x.c.toNat]

/-- The checks of a quad's lowest slot (R268), after the address is reached: the fault. -/
def rredFate (p : Pa) (fp32? : Bool) (ea : DWord) (slot : DWord) (once : Option DWord) : Option MemFault :=
  if ea.toNat % (if fp32? then 128 else 32) ≠ 0 then some ⟨.misalign, 2⟩
  else match redSlotFate slot with
  | some f => some f
  | none =>
    if once = some 0 then some ⟨.fabric, 7⟩
    else if once.isSome ∧ p.win then some ⟨.fabric, 8⟩
    else none

/-- The values of a quad's block (R268): slot 4Q + j gives elements 8j to 8j + 7, and a slot that takes no part gives zeros. -/
def rredVals (x : FormX) (i : Iss) (q : List Thread) : List Val :=
  let base := ((q.head?.map (·.slot)).getD 0) / 4 * 4
  (List.range 32).map fun e =>
    match q.find? (fun u => u.slot == base + e / 8) with
    | some u => f32 ((u.rd i.warp.w).r (x.d.toNat + e % 8))
    | none => .fin false 0 0

/-- The widest scope of the fences that a quad's threads have passed (R214): its `rred` releases there. -/
def quadScope (q : List Thread) : Option Nat := (q.filterMap (·.fenced)).max?

/-- One quad's block (R268): its lowest participant judges and sends for all. It observes what happens before it in its threads
(R217): their stores are performed first, and it waits for their `red`s to windows; after a fence it is a release (R214). -/
def rredQuad (x : FormX) (i : Iss) (q : List Thread) (s : State) : State :=
  match q with
  | [] => s
  | t0 :: _ =>
    let r0 := t0.rd i.warp.w
    let ea := effAddr r0 x.a.toNat x.b.toNat 0
    let slot := slotOf i.blk.slots (x.fld 48 46)
    let once := if x.fld 50 50 = 1 then some (r0.pair x.c.toNat) else none
    let all (s : State) (f : Nat → State → State) : State := (q.map i.blk.tindex).foldl (fun s ti => f ti s) s
    match s.redTarget i.ctx i.blk.site ea with
    | (s1, .inl f) => all s1 (fun ti s => s.memFault i ti f ea)
    | (s1, .inr (p, fp32?)) =>
      match rredFate p fp32? ea slot once with
      | some f => all s1 (fun ti s => s.memFault i ti f (if f.code = .misalign then ea else 0))
      | none =>
        match (q.filter (fun u => u.reds != [])).map i.blk.tindex, s1.relAcks i q (·.fenced) with
        | [], [] =>
          let r := narrowSlot slot i.blk.seed ea fp32? (rredVals x i q)
          let s2 := (all s1 (fun ti s => s.drainOf i.blk.bid ti)).releaseAt i.blk (quadScope q)
          let (num, s3) := s2.takeNum i.ctx.num i.blk.die (some i.blk.bid) (FormX.ctr x)
          let s4 := s3.reduceTo p fp32? r.2 r.1 once i.blk.die i.ctx (some i.blk.bid) (some i.blk.lid)
            (some (FormX.ctr x)) num none (s3.nodeOf i.blk.lid)
          all s4 (fun ti s => s.pass (rredSig x) i.blk.bid ti)
        | reds, acks => all s1 (fun ti s => s.together i reds acks ti s)

/-- `rred` (R268): one block per quad. -/
def opRred (x : FormX) (s : State) : State :=
  s.withIss fun i0 =>
    let ps := parts (rredSig x) s.tick i0
    s.runFold (rredSig x) fun i ti s =>
      match ps.find? (fun t => i.blk.tindex t == ti) with
      | some t =>
        let q := quadOf ps t
        if (q.head?.map i.blk.tindex) = some ti then rredQuad x i q s else s
      | none => s

/-! ### fstat -/

def fstatSig (x : FormX) : Sig :=
  { x.sig (x.fld 63 54 == 0 && x.fld 53 46 < 12) [noneAt x.a.toNat, noneAt x.b.toNat, noneAt x.c.toNat, dst x.d.toNat 2] with
    vclass := true }

/-- The items of `fstat` (R287). -/
def fstatVal (s : State) (i : Iss) (item : Nat) : Nat :=
  let die := i.blk.die
  let x := (i.ctx.stats.find? (·.die == die)).getD { die := die, refused := 0, truncated := 0, abandoned := 0 }
  match item with
  | 0 => s.endpoint die
  | 1 => i.ctx.jobid.toNat
  | 2 => s.bufUsed die
  | 3 => (s.unexpected die).length
  | 4 => s.recvsAt die
  | 5 => s.worksAt die
  | 6 => x.refused
  | 7 => x.truncated
  | 8 => x.abandoned
  | 9 => s.plat.replayed
  | 10 => (s.plat.ports.filter (fun p => (p.lanes.filter id).length == 1)).length
  | _ => (i.ctx.once.filter (·.ep == s.endpoint die)).length

/-- `fstat` (R287). -/
def opFstat (x : FormX) (s : State) : State :=
  s.runAlu (fstatSig x) fun i _ _ => wrPair x.d.toNat (BitVec.ofNat 64 (fstatVal s i (x.fld 53 46)))

end Sys2Proof.Machine
end

