-- ==== Sys2Proof/Machine/Save.lean ====
section
/-! DEFINITION. The places of blocks (R16 to R18, R59, R297) and pre-emption (R168, R247, R285, R310, R317 to R320). -/

namespace Sys2Proof.Machine

open Sys2Proof

/-! ### Places -/

/-- Slots that a crew of `n` threads takes in each lane it uses, and their alignment (R59). -/
def crewSlots (n : Nat) : Nat := 8 * ceilDiv n 32
def crewAlign (n : Nat) : Nat := min 64 (pow2AtLeast (crewSlots n))

/-- Threads of a crew in a lane (R59). -/
def laneThreads (n lane : Nat) : Nat := min n ((lane + 1) * crewSlots n) - lane * crewSlots n

/-- What a block asks of a core (R297): threads per crew, crews, register words per lane of a crew, granules, and the
priority at which it is admitted. -/
structure Need where
  nthr : Nat
  ncrew : Nat
  words : List Nat
  grans : Nat
  prio : Nat
  deriving DecidableEq, Repr

/-- Whether a block counts as resident on its core for an admission of a priority (R297, R319, R320). -/
def Block.holds (b : Block) (prio : Nat) : Bool :=
  match b.status with
  | .resident => true
  | .stopped _ => true
  | .saved keep => keep && prio != 0
  | .halted => false
  | .ended => false

/-- The blocks that hold places on a core, but for one. -/
def State.holders (s : State) (die core prio : Nat) (but : Option Nat) : List Block :=
  s.blocks.filter (fun b => b.die == die && b.core == core && b.holds prio && some b.bid != but)

/-- Granules in use on a core (R18, R169): an ended block holds its own until its copies are done. -/
def State.gransUsed (s : State) (die core prio : Nat) (but : Option Nat) : Nat :=
  ((s.blocks.filter (fun b => b.die == die && b.core == core && (b.holds prio || b.status == .ended) &&
    some b.bid != but)).map (·.grans)).sum

/-- The crews of a block that stand in a partition, by index. -/
def Block.crewsIn (b : Block) (part : Nat) : List Nat :=
  (List.range b.places.length).filter (fun c => ((b.places[c]?).map (·.part)) == some part)

/-- Register words of a block in a lane of a partition (R16). -/
def Block.wordsIn (b : Block) (part lane : Nat) : Nat :=
  ((b.threads.filter (fun t => t.lane == lane && (b.crewsIn part).contains t.crew)).map (fun t => t.v.length)).sum

/-- The slot ranges of a block in a lane of a partition. -/
def Block.rangesIn (b : Block) (part lane : Nat) : List (Nat × Nat) :=
  if laneThreads b.nthr lane = 0 then []
  else (b.crewsIn part).filterMap (fun c => (b.places[c]?).map (fun p => (p.bases.getD lane 0, crewSlots b.nthr)))

/-- Words of a lane's register file, slots of a lane (R15). -/
def laneWords : Nat := 8192
def laneSlots : Nat := 256

/-- Free register words of a lane among some blocks. -/
def freeWords (bs : List Block) (part lane : Nat) : Nat := laneWords - (bs.map (·.wordsIn part lane)).sum

/-- Whether a lane has a free aligned slot range at a base and the register words (R297). -/
def laneFits (bs : List Block) (n : Need) (crew part lane base : Nat) : Bool :=
  let c := crewSlots n.nthr
  base % crewAlign n.nthr == 0 && base + c ≤ laneSlots &&
    (bs.flatMap (·.rangesIn part lane)).all (fun r => base + c ≤ r.1 || r.1 + r.2 ≤ base) &&
    n.words.getD (4 * crew + lane) 0 ≤ freeWords bs part lane

/-- Lanes that a crew uses. -/
def lanesOf (nthr : Nat) : List Nat := (List.range 4).filter (fun l => laneThreads nthr l != 0)

/-- Whether a crew fits at a place (R17, R297). -/
def crewFits (bs : List Block) (n : Need) (crew : Nat) (p : CrewPlace) : Bool :=
  p.part < 4 && (bs.map (fun b => (b.crewsIn p.part).length)).sum < 8 &&
    (lanesOf n.nthr).all (fun l => laneFits bs n crew p.part l (p.bases.getD l 0))

/-- A place in a partition where a crew fits, lowest bases first. -/
def crewSpot (bs : List Block) (n : Need) (crew part : Nat) : Option CrewPlace :=
  let base (l : Nat) : Nat :=
    if laneThreads n.nthr l = 0 then 0
    else (((List.range 32).map (8 * ·)).find? (laneFits bs n crew part l)).getD 256
  let p : CrewPlace := { part := part, bases := (List.range 4).map base }
  if crewFits bs n crew p then some p else none

/-- Whether a core is in service: its die and front end are ready, and it is not drained or lost (R13, R14, R319, R339). -/
def State.coreUp (s : State) (die core : Nat) : Bool :=
  s.plat.rdymap.toNat.testBit (3 + die) && s.plat.rdymap.toNat.testBit (27 + die) &&
    !(s.plat.spares.draining.contains (die, core)) && !(s.plat.spares.lost.contains (die, core))

/-- The checks of R297 on a core that are not about crews. -/
def State.coreRoom (s : State) (die core : Nat) (n : Need) (but : Option Nat) : Bool :=
  s.coreUp die core && (s.holders die core n.prio but).length < 16 && s.gransUsed die core n.prio but + n.grans ≤ 256

/-- Whether a core takes a block at given places (R17, R297). -/
def State.placesFit (s : State) (die core : Nat) (n : Need) (ps : List CrewPlace) (but : Option Nat := none) : Bool :=
  s.coreRoom die core n but && ps.length == n.ncrew && (ps.map (·.part)).eraseDups == ps.map (·.part) &&
    ps.zipIdx.all (fun (p, i) => crewFits (s.holders die core n.prio but) n i p)

/-- Places for a block on a core, the lowest that fit; its crews are alike (R60). -/
def State.spots (s : State) (die core : Nat) (n : Need) : Option (List CrewPlace) :=
  let bs := s.holders die core n.prio none
  let ps := (List.range 4).filterMap (fun p => crewSpot bs n 0 p)
  if s.coreRoom die core n none ∧ n.ncrew ≤ ps.length then some (ps.take n.ncrew) else none

/-- What a saved block needs to be restored at its own places (R320). -/
def Block.need (b : Block) : Need :=
  { nthr := b.nthr, ncrew := b.ncrew, grans := b.grans, prio := b.prio,
    words := (List.range b.ncrew).flatMap (fun c => (List.range 4).map (fun l =>
      ((b.threads.filter (fun t => t.crew == c && t.lane == l)).map (fun t => t.v.length)).sum)) }

/-! ### Saving -/

/-- Slots of a die's save store, and slots in use (R318, R319). -/
def State.saveSlots (s : State) (die : Nat) : Nat :=
  ((s.plat.carves.find? (·.die == die)).map (fun c => c.saveSize / 2 ^ 21)).getD 0
def State.slotsUsed (s : State) (die : Nat) : Nat :=
  (s.blocks.filter (fun b => b.die == die && (match b.status with
    | .saved _ => true
    | .halted => true
    | _ => false))).length

/-- The on-core results of a thread are written (R318 step 2). -/
def Thread.awaitCore (t : Thread) : Thread :=
  (t.results.filter (fun r => r.kind == .ready)).foldl Thread.writeBack t

/-- A thread that waits for its ridge operation's entry stays at its instruction (R247, R318 step 1). -/
def Thread.unqueue (t : Thread) : Thread :=
  if t.park = .queued then { t with park := .ready, mark := false } else t

/-- The unit finishes its operations up to a block's last (R247); the first argument bounds them. -/
def State.finishMat (die core bid : Nat) : Nat → State → State
  | 0, s => s
  | n + 1, s =>
    if (s.mat die core).queue.any (·.bid == bid) then State.finishMat die core bid n (s.matComplete die core) else s

/-- Whether a waiting operation belongs to a block. -/
def MatWait.bid : MatWait → Nat
  | .conv b _ => b
  | .ridge _ b _ => b

/-- Steps 1 to 5 of R318. Copies and landings go on in the image, which is the block itself. -/
def State.quiesce (s : State) (b : Block) : State :=
  let s := s.modBlock b.bid (fun b => { b with threads := b.threads.map Thread.awaitCore })
  let s := s.drainBlock b.bid
  let s := State.finishMat b.die b.core b.bid matQueueSize s
  let s := s.modMat b.die b.core (fun u => { u with waiting := u.waiting.filter (fun w => w.bid != b.bid) })
  (s.modBlock b.bid (fun b => { b with threads := b.threads.map Thread.unqueue })).leaveSets b.bid

/-- What a block becomes once its image is written (R310, R320). -/
def savedAs : SaveCause → BlockStatus
  | .hot => .saved true
  | .suspend => .saved false
  | .drain => .saved false
  | .halt => .halted

def State.setStatus (s : State) (bid : Nat) (x : BlockStatus) : State := s.modBlock bid (fun b => { b with status := x })

/-- Save a resident block (R318, R319): with no slot free, or earlier saves waiting, it is stopped in place. -/
def State.saveBlock (s : State) (b : Block) (cause : SaveCause) : State :=
  let s := s.quiesce b
  if s.slotsUsed b.die < s.saveSlots b.die ∧ (s.saveQ.any (·.1 == b.die)) = false then s.setStatus b.bid (savedAs cause)
  else { s.setStatus b.bid (.stopped cause) with saveQ := s.saveQ ++ [(b.die, b.bid)] }

/-- Whether a block is halted, or stopped to be halted, or has ended (R310). -/
def Block.isHalted (b : Block) : Bool := b.status == .halted || b.status == .stopped .halt || b.status == .ended

/-- A block trap (R310): the block is stopped, saved and marked halted, and a report of kind 2 is due; one that is halted already
stays as it is. -/
def State.haltBlock (s : State) (bid : Nat) (code : TrapCode) (sub : Nat) : State :=
  match s.block? bid with
  | none => s
  | some b =>
    if b.isHalted then s else
    let s := s.report b.ctx { Report.plain 2 code sub b.die 0 (.block bid) with
      token := b.token, node := ((s.launch? b.lid).map (·.node)).getD 0 }
    match b.status with
    | .resident => s.saveBlock b .halt
    | .stopped _ => s.setStatus bid (.stopped .halt)
    | .saved _ => s.setStatus bid .halted
    | _ => s

/-- SAVE_SLOT_GRANT (R319): the next waiting save of the die runs its last steps. -/
def opSaveSlotGrant (die : Nat) (s : State) : State :=
  if s.slotsUsed die < s.saveSlots die then
    match s.saveQ.find? (·.1 == die) with
    | some e =>
      let s1 : State := { s with saveQ := dropFirst (· == e) s.saveQ }
      (match s1.block? e.2 with
       | some b => match b.status with
         | .stopped c => s1.setStatus e.2 (savedAs c)
         | _ => s1
       | none => s1)
    | none => s
  else s

/-! ### Restoring -/

/-- A restored thread with late failures waits for its pending set where it stands, and they are delivered there (R309, R320). One
that waits at an instruction, also one that has gone past it, will reissue it: its wait ends, which no rule states (DEDUCED,
notes/assumptions/76.md). Only the access of an SC page that a thread is parked for is first performed, as a result of the set. -/
def Thread.awaitLates (t : Thread) : Thread :=
  if t.lates = [] then t
  else match t.park with
  | .ready => { t with park := .marker }
  | .retry _ => { t with park := .marker }
  | .queued => { t with park := .marker }
  | .marker => t
  | .handler _ => t
  | .host _ _ => t
  | .sc _ => { t with mark := true }
  | _ => { t with pc := t.pc - BitVec.ofNat 64 t.back, park := .marker, mark := false }

/-- Change a barrier. -/
def State.modBar (s : State) (b : Block) (crew lv id : Nat) (f : Bar → Bar) : State :=
  match lv with
  | 1 => s.modBlock b.bid fun b => { b with crewBars := modAt b.crewBars crew (fun bs => modAt bs id f) }
  | 2 => s.modBlock b.bid fun b => { b with blockBars := modAt b.blockBars id f }
  | _ => { s with clusters := s.clusters.map (fun c => if c.cid = b.cid then { c with bars := modAt c.bars id f } else c) }

/-- A thread that will reissue its `bar` takes its arrival back (R86). -/
def State.unarrive (s : State) (bid ti : Nat) : State :=
  match s.block? bid, s.thread? bid ti with
  | some b, some t => (match t.park with
    | .bar lv id => if t.lates = [] then s else s.modBar b t.crew lv id (fun x => { x with arrived := x.arrived.filter (· != (bid, ti)) })
    | _ => s)
  | _, _ => s

/-- The parked threads of a restored block test their conditions again, and late failures wait for their delivery (R320). -/
def State.retest (s : State) (bid ti : Nat) : State :=
  match s.thread? bid ti with
  | some t =>
    (match t.park with
     | .waita _ => (s.waitaTurn bid ti false).modThread bid ti Thread.awaitLates
     | _ => (s.unarrive bid ti).modThread bid ti Thread.awaitLates)
  | none => s

/-- Resume issue of a block (R247, R319): its warps join the sets, and its COMPLETE operations become issuable in ascending
register number. -/
def State.resumeIssue (s : State) (b : Block) : State :=
  let s := (s.setStatus b.bid .resident).joinSets b
  let js := (List.range b.conv.length).filter (fun j => ((b.conv[j]?).map (·.st)) == some .complete)
  s.modMat b.die b.core (fun u => { u with waiting := u.waiting ++ js.map (MatWait.conv b.bid) })

/-- Resume a restored block (R320): it issues again, and its threads test their conditions. -/
def State.resumeBlock (s : State) (b : Block) : State :=
  (List.range b.threads.length).foldl (fun s ti => s.retest b.bid ti) (s.resumeIssue b)

/-- What a saved block asks of its core (R297, R320): where it kept its places only the blocks that stand there can be in its
way, not those that keep other places; where it gave them up it is placed as at its own priority. -/
def Block.restoreNeed (b : Block) : Need :=
  if b.status = .saved true then { b.need with prio := 0 } else b.need

/-- Whether a saved block can be restored (R320, R321): its own places are unused again. -/
def State.canRestore (s : State) (b : Block) : Bool :=
  (match b.status with
   | .saved _ => true
   | _ => false) &&
  ((s.ctx? b.ctx).map (fun c => !c.suspended)).getD false &&
  s.placesFit b.die b.core b.restoreNeed b.places (some b.bid)

end Sys2Proof.Machine
end

