-- ==== Sys2Proof/Machine/Join.lean ====
section
/-! DEFINITION. Convergence registers and `mma` (R225 to R233). -/

namespace Sys2Proof.Machine

open Sys2Proof

def Conv.idle : Conv :=
  { st := .idle, crews := 0, cnt := 0, members := [], joined := [], word := none, freeing := false }

/-- The convergence register that an instruction names (R226, R228, R232). -/
def convOf (x : FormX) : Nat := x.fld 63 60

def Block.convAt (b : Block) (j : Nat) : Conv := b.conv.getD j Conv.idle

def State.modConv (s : State) (bid j : Nat) (f : Conv → Conv) : State :=
  s.modBlock bid fun b => { b with conv := modAt b.conv j f }

/-- The members that a declaration names (R226): the threads of the crews by crew, lane and slot, which is the order of
their indices in the block. -/
def Block.crewThreads (b : Block) (crews : Nat) : List Nat :=
  (List.range b.threads.length).filter (fun ti => ((b.threads[ti]?).map (fun t => crews.testBit t.crew)).getD false)

def noOps (x : FormX) : List Opd := [noneAt x.d.toNat, noneAt x.a.toNat, noneAt x.b.toNat, noneAt x.c.toNat]

def jdeclSig (x : FormX) : Sig :=
  x.sig (x.fld 59 56 != 0 && x.fld 55 54 != 3 && x.fld 53 46 == 0) (noOps x)

/-- One thread's `jdecl` (R226). -/
def jdeclThread (x : FormX) (i : Iss) (ti : Nat) (s : State) : State :=
  match s.block? i.blk.bid with
  | none => s
  | some b =>
    let j := convOf x
    let c := b.convAt j
    let crews := x.fld 59 56
    let cnt := x.fld 55 54
    let ms := b.crewThreads crews
    if c.st = .idle then
      (if (List.range 4).any (fun k => crews.testBit k && b.ncrew ≤ k) ∨ ms.length < 64 * 2 ^ cnt then
        s.faultThread i ti .join 6
       else
        (s.modConv b.bid j (fun c =>
          { c with st := .declared, crews := BitVec.ofNat 4 crews, cnt := cnt, members := ms.take (64 * 2 ^ cnt),
                   joined := [], word := none })).pass (jdeclSig x) b.bid ti)
    else if c.crews.toNat = crews ∧ c.cnt = cnt then s.pass (jdeclSig x) b.bid ti
    else s.faultThread i ti .join 7

/-- `jdecl` (R226). -/
def opJdecl (x : FormX) (s : State) : State := s.runFold (jdeclSig x) (jdeclThread x)

def jfreeSig (x : FormX) : Sig := x.sig (x.fld 59 46 == 0) (noOps x)

/-- One thread's `jfree` (R228). -/
def jfreeThread (x : FormX) (i : Iss) (ti : Nat) (s : State) : State :=
  match s.block? i.blk.bid with
  | none => s
  | some b =>
    let j := convOf x
    match (b.convAt j).st with
    | .idle => s.pass (jfreeSig x) b.bid ti
    | .declared => (s.modConv b.bid j (fun _ => Conv.idle)).pass (jfreeSig x) b.bid ti
    | .joining => s.faultThread i ti .join 7
    | .complete =>
      (s.modConv b.bid j (fun c => { c with freeing := true })).modThread b.bid ti (·.parkPast (jfreeSig x).sw 8 (.conv j))

/-- `jfree` (R228). -/
def opJfree (x : FormX) (s : State) : State := s.runFold (jfreeSig x) (jfreeThread x)

/-! ### mma -/

/-- A fragment operand of `mma` (R232): its registers are checked at the join. -/
def frag (s : Nat) : Opd := { spec := s, w := false, z := false, n := 0, al := 8 }

def mmaSig (x : FormX) : Sig :=
  { x.sig (x.fld 59 58 != 3 && x.fld 57 56 != 3 && x.fld 48 46 == 0) [frag x.a.toNat, frag x.b.toNat] with
    specOk := handleOk x.d.toNat && (x.c.toNat == 0xFF || x.c.toNat == 0xC0 || x.c.toNat == 0xC8), noGuard := true }

/-- The checks of a first join (R233), in order; then a marked line of the accumulator window, where the old values are
read (R234, R336). -/
def firstJoinFate (b : Block) (x : FormX) : Option Trap :=
  let tr (code : TrapCode) (sub : Nat) (info : Nat := 0) : Option Trap :=
    some { code := code, sub := sub, addr := 0, info := BitVec.ofNat 32 info, late := false, tpc := 0, epc := 0 }
  let sa := slotOf b.slots (x.fld 55 53)
  let sb := slotOf b.slots (x.fld 52 50)
  let sh := mmaShape x b.slots
  let t := b.tile x.d.toNat
  match (fmtFate (some sa) [] true).or (fmtFate (some sb) [] true) with
  | some n => tr .format n
  | none =>
    if mmaPair (slotFmt sa) (slotFmt sb) = false then tr .format 8
    else if sh.block = decide (x.c.toNat = 0xFF) then tr .format 8
    else if t.st = .free then tr .tilestate 2
    else if t.st ≠ .engaged then tr .token 2
    else if t.kind ≠ 1 ∧ t.kind ≠ 2 then tr .tilestate 4
    else if t.rows < sh.m ∨ t.cols < sh.n then tr .tilebound 2
    else if (b.convAt (convOf x)).members.length ≠ max sh.m sh.n then tr .join 6
    else if x.fld 49 49 = 0 ∧ (t.windowLines sh.m sh.n).any (fun l => (t.line l).marked) then tr .dataerr 0 x.d.toNat
    else none

/-- The register checks of a join (R229, R336). Where several groups fail one check, `$tinfo` names the first in the order of R235:
R303 says "the specifier" (DESIGN CHOICE, notes/assumptions/72.md). -/
def joinRegFate (b : Block) (x : FormX) (t : Thread) (idx : Nat) : Option (TrapCode × Nat × Nat) :=
  let os := mmaReads x (mmaShape x b.slots) idx
  match os.find? (·.beyond t), os.find? (·.pending t), os.find? (·.marked [] t) with
  | some o, _, _ => some (.maxreg, 0, o.spec)
  | none, some o, _ => some (.hazard, 1, o.spec)
  | none, none, some o => some (.dataerr, 0, o.spec)
  | none, none, none => none

/-- What fixes an operation: the instruction word without its switch marker (R229). -/
def joinWord (x : FormX) : FormX := { x with sw := false }

/-- A thread that has passed every check joins; the last join makes the operation issuable (R224, R229). -/
def State.join (s : State) (b : Block) (ti j : Nat) (x : FormX) : State :=
  let c := b.convAt j
  let all := c.joined.length + 1 == c.members.length
  let s := s.modConv b.bid j (fun c =>
    { c with st := if all then .complete else .joining, word := some (joinWord x), joined := c.joined ++ [ti] })
  if all then s.modMat b.die b.core (fun u => { u with waiting := u.waiting ++ [.conv b.bid j] }) else s

/-- One thread's `mma` (R229). A first join of an operation with an exited member halts the block (R231). -/
def mmaThread (x : FormX) (i : Iss) (ti : Nat) (s : State) : State :=
  match s.block? i.blk.bid, s.thread? i.blk.bid ti with
  | some b, some t =>
    let j := convOf x
    let c := b.convAt j
    let finish (s : State) : State :=
      match joinRegFate b x t (c.members.idxOf ti) with
      | some (code, sub, spec) => s.faultThread i ti code sub 0 (BitVec.ofNat 32 spec)
      | none => (s.join b ti j x).pass (mmaSig x) b.bid ti
    if b.status ≠ .resident then s
    else if c.st = .idle then s.faultThread i ti .join 4
    else if c.members.contains ti = false then s.faultThread i ti .join 3
    else if c.st = .complete then s.waitThread b.bid ti (.convIdle j)
    else if c.st = .joining ∧ c.joined.contains ti then s.faultThread i ti .join 5
    else if c.st = .joining then
      (if c.word = some (joinWord x) then finish s else s.faultThread i ti .join 1)
    else if c.members.any (fun m => ((b.threads[m]?).map (·.exited)).getD true) then s.haltBlock b.bid .join 2
    else match firstJoinFate b x with
    | some tr => s.faultThread i ti tr.code tr.sub 0 tr.info
    | none => finish s
  | _, _ => s

/-- `mma` (R229 to R235). -/
def opMma (x : FormX) (s : State) : State := s.runFold (mmaSig x) (mmaThread x)

end Sys2Proof.Machine
end

