-- ==== Sys2Proof/Machine/Ctrl.lean ====
section
/-! DEFINITION. Control flow (R74 to R78), convergence of a warp (R72, R73, R84), barriers (R85 to R87), the end of a
thread (R77, R231), device-created work (R88) and registers on demand (R89, R90). -/

namespace Sys2Proof.Machine

open Sys2Proof

/-! ### Branches -/

/-- A target relative to the instruction's own address, in halfwords (R38). -/
def relTarget (pc : DWord) (off : Int) : DWord := pc + BitVec.ofInt 64 (2 * off)

def braSig (sw : Bool) : Sig := { sw := sw, alwaysUniform := true }

/-- `bra` (R74). -/
def opBra (sw : Bool) (off : BitVec 22) (s : State) : State :=
  s.runLocal (braSig sw) fun _ t => t.goto sw (relTarget t.pc off.toInt)

def bcSig (sw : Bool) (p : BitVec 3) : Sig := { sw := sw, predR := [p.toNat] }

/-- `bc` (R74). -/
def opBc (sw : Bool) (off : BitVec 18) (neg : Bool) (p : BitVec 3) (s : State) : State :=
  s.runLocal (bcSig sw p) fun _ t =>
    if readPred t p.toNat != neg then t.goto sw (relTarget t.pc off.toInt) else t.advance sw 4

/-! ### The return stack -/

/-- The address just past a thread's stack area (R299). -/
def stackTop (c : Context) (b : Block) (ti : Nat) : DWord :=
  c.stkbase + BitVec.ofNat 64 (((b.die * 2048 + b.token) * 4096 + ti + 1) * c.stkmax.toNat)

/-- Return entries that a thread holds on chip (R76). -/
def retOnChip : Nat := 8

/-- A thread pushes a return address (R76), and goes to the target, obeying the marker, where the push is permitted; where the
oldest entry goes to an SC page, it is parked there until that is performed (R218). -/
def State.push (s : State) (i : Iss) (ti : Nat) (addr : DWord) (sw : Bool) (target : DWord) : State :=
  match s.thread? i.blk.bid ti with
  | none => s
  | some t =>
    if t.ret.length < retOnChip then
      s.modThread i.blk.bid ti (fun t => ({ t with ret := addr :: t.ret } : Thread).goto sw target)
    else if i.blk.stack < 8 * (t.spilled + 1) then s.faultThread i ti .stack 1
    else
      let va := stackTop i.ctx i.blk ti - BitVec.ofNat 64 (8 * (t.spilled + 1))
      match s.reach i va accStore with
      | (s1, .inl e) => s1.memFault i ti e va
      | (s1, .inr p) =>
        s1.inOrder s1 i [(t, p)] s1.behindRed (·.fenced) ti p <|
        let e : StoreEnt := { ti := ti, cells := plainCells p.pa (toBytes 8 (t.ret.getLastD 0).toNat), sides := [], lines := [],
                              pay := [], nblk := 0 }
        ((s1.releaseAt i.blk t.fenced).storeOff i ti p va e).modThread i.blk.bid ti fun t =>
          let t := { t with ret := addr :: t.ret.dropLast, spilled := t.spilled + 1 }
          if s1.parksFor p then { t with pc := target, park := .sc none, mark := sw } else t.goto sw target

/-- Pop the return stack (R76), and go on with `f` where there is a good entry. -/
def State.pop (s : State) (i : Iss) (ti : Nat) (f : DWord → State → State) : State :=
  match s.thread? i.blk.bid ti with
  | none => s
  | some t =>
    match t.ret with
    | a :: rest => f a (s.modThread i.blk.bid ti (fun t => { t with ret := rest }))
    | [] =>
      if t.spilled = 0 then s.faultThread i ti .stack 2
      else
        let va := stackTop i.ctx i.blk ti - BitVec.ofNat 64 (8 * t.spilled)
        match s.reach i va accLoad with
        | (s1, .inl e) => s1.memFault i ti e va
        | (s1, .inr p) =>
          s1.inOrder s1 i [(t, p)] s1.behindRed (fun _ => none) ti p <|
          let s2 := (s1.beforeRead i.blk.bid ti p).touchRange p.pa 8
          match s2.lineFate p with
          | some f => s2.memFault i ti f va
          | none =>
            let es := ((s2.block? i.blk.bid).map (·.ownStores ti)).getD []
            let n := ownNum s2.mem es p.pa 8
            if n % 2 = 1 ∨ 2 ^ 53 ≤ n then s2.faultThread i ti .misalign 3 va
            else f (BitVec.ofNat 64 n) (s2.modThread i.blk.bid ti (fun t => { t with spilled := t.spilled - 1 }))

/-- Move a thread to an address, obeying the marker. -/
def State.goTo (s : State) (bid ti : Nat) (sw : Bool) (pc : DWord) : State := s.modThread bid ti (·.goto sw pc)

/-- `call` (R74). -/
def opCall (sw : Bool) (off : BitVec 22) (s : State) : State :=
  s.runFold (braSig sw) fun i ti s =>
    let pc := i.run.addr
    s.push i ti (pc + 4) sw (relTarget pc off.toInt)

/-- The signature of `jtab` and `ctab` with their target list (R48): a thread that does not take part goes past it. -/
def jtabSig (x : Gen) : Sig := { x.theSig with len := x.len + 4 * x.imm }

/-- One thread's `jtab` or `ctab` (R75). -/
def jtabThread (x : Gen) (call : Bool) (i : Iss) (ti : Nat) (s : State) : State :=
  match s.thread? i.blk.bid ti with
  | none => s
  | some t =>
    let n := ((t.rd i.warp.w).r x.a).toNat
    let pc := i.run.addr
    if x.imm ≤ n then s.faultThread i ti .badtarget 1 0 (BitVec.ofNat 32 n)
    else
      let va := pc + BitVec.ofNat 64 (x.len + 4 * n)
      let s1 := (s.noteFetch i.ctx i.blk.site va).noteFetch i.ctx i.blk.site (va + 2)
      match fetchHalves s i.ctx i.blk.site va 2 with
      | .inl (f, at_) => s1.memFault i ti f at_
      | .inr w =>
        let target := relTarget pc (sext 32 w)
        if call then s1.push i ti (pc + BitVec.ofNat 64 (jtabSig x).len) x.sw target
        else s1.goTo i.blk.bid ti x.sw target

/-- `jtab` and `ctab` (R75). -/
def genJtab (x : Gen) (s : State) : State := s.runFold (jtabSig x) (jtabThread x (x.major == 0x07))

/-! ### Barriers -/

def Bar.idle : Bar := { cnt := 0, arrived := [] }

/-- The level of a barrier, as `bar` names it (R85). -/
def State.barAt (s : State) (b : Block) (crew lv id : Nat) : Bar :=
  match lv with
  | 1 => (b.crewBars.getD crew []).getD id Bar.idle
  | 2 => b.blockBars.getD id Bar.idle
  | _ => (((s.clusters.find? (·.cid == b.cid)).map (·.bars)).getD []).getD id Bar.idle

/-- Live threads of a level (R86). -/
def State.liveAt (s : State) (b : Block) (crew lv : Nat) : Nat :=
  let live (b : Block) : Nat := (b.threads.filter (fun t => !t.exited)).length
  match lv with
  | 1 => (b.threads.filter (fun t => t.crew == crew && !t.exited)).length
  | 2 => live b
  | _ => ((s.blocks.filter (fun o => o.cid == b.cid && o.status != .ended)).map live).sum

/-- BARRIER_RELEASE (R86, R87): the round is complete when its arrivals reach the expected number. -/
def State.barCheck (s : State) (b : Block) (crew lv id : Nat) : State :=
  let x := s.barAt b crew lv id
  let expected := if x.cnt = 0 then s.liveAt b crew lv else 8 * x.cnt
  if x.arrived = [] ∨ x.arrived.length < expected then s
  else x.arrived.foldl (fun s a => s.modThread a.1 a.2 Thread.release) (s.modBar b crew lv id (fun _ => Bar.idle))

def barSig (sw : Bool) (lv : BitVec 2) (id : BitVec 6) : Sig := { sw := sw, resOk := lv != 0 && id.toNat < 16 }

/-- One thread arrives at a barrier (R86). Of two traps the arrival takes that of the live threads, an order which no rule
states (DESIGN CHOICE, notes/assumptions/69.md). -/
def barThread (sw : Bool) (lv cnt id : Nat) (i : Iss) (ti : Nat) (s : State) : State :=
  match s.block? i.blk.bid with
  | none => s
  | some b => match b.threads[ti]? with
    | none => s
    | some t =>
      let x := s.barAt b t.crew lv id
      if s.liveAt b t.crew lv < 8 * cnt then s.faultThread i ti .badtarget 2
      else if x.arrived ≠ [] ∧ x.cnt ≠ cnt then s.faultThread i ti .badtarget 3
      else s.afterReds b.bid ti <|
        let s := (s.drainOf b.bid ti).modThread b.bid ti (·.parkPast sw 4 (.bar lv id))
        (s.modBar b t.crew lv id (fun x => { cnt := cnt, arrived := x.arrived ++ [(b.bid, ti)] })).barCheck b t.crew lv id

/-- `bar` (R85 to R87): an arrival releases what the thread did before it. -/
def opBar (sw : Bool) (lv : BitVec 2) (cnt : BitVec 14) (id : BitVec 6) (s : State) : State :=
  s.runFold (barSig sw lv id) (barThread sw lv.toNat cnt.toNat id.toNat)

/-- Every barrier of a block's levels, checked again when a thread has exited (R86). -/
def State.barsAgain (s : State) (bid : Nat) : State :=
  match s.block? bid with
  | none => s
  | some b0 =>
    let check (s : State) (crew lv id : Nat) : State :=
      match s.block? bid with
      | some b => s.barCheck b crew lv id
      | none => s
    let s := (List.range b0.ncrew).foldl (fun s c => (List.range 16).foldl (fun s id => check s c 1 id) s) s
    (List.range 16).foldl (fun s id => check (check s 0 2 id) 0 3 id) s

/-! ### wsync -/

/-- The set of a thread parked at a `wsync` (R84). -/
def Thread.wsyncSet (t : Thread) : Option Nat :=
  match t.park with
  | .wsync m => some m.toNat
  | _ => none

/-- Whether a parked thread is releasable (R84): every live thread of its set is parked at a `wsync`. -/
def Block.wsyncReady (b : Block) (w : Warp) (t : Thread) : Bool :=
  match t.wsyncSet with
  | none => false
  | some m => b.threads.all (fun u => !(w.has u) || u.exited || !(m.testBit (w.posOf u)) || u.wsyncSet.isSome)

/-- WSYNC_RELEASE (R84): all the releasable threads of a warp, together; their stores leave the store queue. -/
def State.wsyncWarp (s : State) (bid wi : Nat) : State :=
  match s.block? bid with
  | none => s
  | some b => match b.warps[wi]? with
    | none => s
    | some w =>
      let ready (t : Thread) : Bool := w.has t && b.wsyncReady w t
      if b.threads.any ready then
        (s.drainWarp bid wi).modBlock bid fun b' =>
          { b' with threads := b'.threads.map (fun t => if w.has t && b.wsyncReady w t then t.release else t) }
      else s

/-- Check every warp of a block. -/
def State.wsyncAll (s : State) (bid : Nat) : State :=
  match s.block? bid with
  | none => s
  | some b => (List.range b.warps.length).foldl (fun s wi => s.wsyncWarp bid wi) s

/-- `wsync` (R84): each thread parks with its set, and then those that can be released are. -/
def genWsync (x : Gen) (s : State) : State :=
  s.withIss fun i0 =>
    (s.runLocal x.theSig fun i t =>
      let m : BitVec 64 := if x.minor = 0 then BitVec.allOnes 64
        else (t.rd i.warp.w).pair x.a ||| BitVec.ofNat 64 (2 ^ i.warp.posOf t)
      if t.reds = [] then t.parkPast x.sw x.len (.wsync m) else { t with park := .retry .redsDone }).wsyncAll i0.blk.bid

/-! ### wresize -/

/-- The first slot of the aligned group of `n` slots that holds a slot (R72). -/
def groupBase (n slot : Nat) : Nat := slot / n * n

/-- The threads of a crew in a group of slots of its lane. -/
def Block.inGroup (b : Block) (crew lane first n : Nat) : List Thread :=
  b.threads.filter (fun t => t.crew == crew && t.lane == lane && first ≤ t.slot && t.slot < first + n)

/-- The size that a thread's pending fuse asks for (R73). -/
def Thread.fuseSize (t : Thread) : Option Nat :=
  match t.park with
  | .fuse n _ => some n
  | _ => none

/-- The set of a split warp's thread, renumbered for its part (R84). -/
def Thread.splitSync (t : Thread) (w : Warp) (n : Nat) : Thread :=
  match t.park with
  | .wsync m => { t with park := .wsync (BitVec.ofNat 64 (bitsAt m.toNat (groupBase n t.slot - w.first) n)) }
  | _ => t

/-- The parts of a split warp (R72). Each keeps the warp's count of issue clocks, as a fused warp keeps that of the lowest it
joins, which no rule states (DESIGN CHOICE, notes/assumptions/67.md). -/
def Warp.parts (w : Warp) (n : Nat) : List Warp :=
  (List.range (w.size / n)).map (fun k => { w with first := w.first + n * k, size := n, stores := [] })

/-- The sets after a split (R69): the lowest part takes the warp's place; in the active set the others take free places, the
first ones first (DESIGN CHOICE, notes/assumptions/68.md), and the rest go to the head of the pending set. -/
def Sched.split (r : WarpRef) (ps : List WarpRef) (x : Sched) : Sched :=
  let low := ps.take 1
  let rest := ps.drop 1
  if x.active.contains (some r) then
    let free := (List.range x.active.length).filter (fun k => x.active[k]? == some none)
    { (free.zip rest).foldl (fun x y => x.put y.1 y.2)
        { x with active := x.active.map (fun q => if q = some r then low.head? else q) } with
      pending := rest.drop free.length ++ x.pending }
  else { x with pending := x.pending.flatMap (fun q => if q = r then ps else [q]) }

/-- The sets after a fuse of the warps `rs`, lowest first (R69): the new warp takes the place of the lowest one that
stands in a set, which a warp whose threads have all exited does not (R68). -/
def Sched.fuse (rs : List WarpRef) (r : WarpRef) (x : Sched) : Sched :=
  match rs.find? (fun q => x.active.contains (some q) || x.pending.contains q) with
  | none => x
  | some low =>
    let y := x.keep (fun q => q == low || !rs.contains q)
    let swap (q : WarpRef) : WarpRef := if q = low then r else q
    { y with active := y.active.map (·.map swap), pending := y.pending.map swap }

/-- Split a warp into parts of `n` slots (R72), its buffered stores performed first (DEDUCED, notes/assumptions/17.md). -/
def State.splitWarp (s : State) (b : Block) (w : Warp) (n : Nat) : State :=
  let s := s.drainWarp b.bid (b.warps.findIdx (· == w))
  let ps := w.parts n
  (s.modBlock b.bid fun b =>
    { b with warps := b.warps.flatMap (fun v =>
               if v.crew = w.crew ∧ v.lane = w.lane ∧ v.first = w.first then v.parts n else [v]),
             threads := b.threads.map (fun t => if w.has t then t.splitSync w n else t) }).modSched
    b.die b.core (b.partOf w.crew) (Sched.split (w.ref b.bid) (ps.map (·.ref b.bid)))

/-- FUSE_COMPLETE (R73): join the warps of a group into one, and release the arrived threads. -/
def State.fuseGroup (s : State) (b : Block) (crew lane first n : Nat) : State :=
  let ws := ((b.warps.filter (fun w => w.crew == crew && w.lane == lane && first ≤ w.first && w.first < first + n))).mergeSort
    (fun x y => x.first ≤ y.first)
  match ws with
  | [] => s
  | low :: _ =>
    let s := ws.foldl (fun s w => s.drainWarp b.bid (b.warps.findIdx (· == w))) s
    let new : Warp := { low with first := first, size := n, stores := [] }
    let go (t : Thread) : Thread :=
      match t.park with
      | .fuse k pd => if k = n then (t.writes (wrPred pd true)).release else t
      | _ => t
    (s.modBlock b.bid fun b =>
      { b with
        warps := b.warps.flatMap (fun v =>
          if v.crew = crew ∧ v.lane = lane ∧ first ≤ v.first ∧ v.first < first + n then
            (if v.first = low.first then [new] else [])
          else [v]),
        threads := b.threads.map (fun t =>
          if t.crew = crew ∧ t.lane = lane ∧ first ≤ t.slot ∧ t.slot < first + n then go t else t) }).modSched
      b.die b.core (b.partOf crew) (Sched.fuse (ws.map (·.ref b.bid)) (new.ref b.bid))

/-- The fuses that are complete (R73): every live thread of the group has arrived, and one at least has. -/
def State.fuseCheck (s : State) (bid ti : Nat) : State :=
  match s.block? bid with
  | none => s
  | some b => match b.threads[ti]? with
    | none => s
    | some t => match t.fuseSize with
      | none => s
      | some n =>
        let g := b.inGroup t.crew t.lane (groupBase n t.slot) n
        if g.all (fun u => u.exited || u.fuseSize == some n) then s.fuseGroup b t.crew t.lane (groupBase n t.slot) n else s

/-- Check every pending fuse of a block. -/
def State.fuseAll (s : State) (bid : Nat) : State :=
  match s.block? bid with
  | none => s
  | some b => (List.range b.threads.length).foldl (fun s ti => s.fuseCheck bid ti) s

/-- One thread's `wresize` (R72, R73). -/
def wresizeThread (x : Gen) (i : Iss) (ti : Nat) (s : State) : State :=
  let n := 8 * 2 ^ x.minor
  match s.block? i.blk.bid with
  | none => s
  | some b => match b.threads[ti]? with
    | none => s
    | some t => match b.warpOf? t with
      | none => s
      | some w =>
        let first := groupBase n t.slot
        let answer (s : State) (v : Bool) : State :=
          s.modThread b.bid ti (fun t => (t.writes (wrPred x.d v)).advance x.sw x.len)
        if n = w.size then answer s true
        else if n < w.size then answer (s.splitWarp b w n) true
        else if (b.inGroup t.crew t.lane first n).length < n then answer s false
        else if b.threads.any (fun u => u.crew == t.crew && u.lane == t.lane &&
            (match u.fuseSize with
             | some k => k != n && groupBase k u.slot == groupBase k t.slot
             | none => false)) then answer s false
        else s.modThread b.bid ti (·.parkPast x.sw x.len (.fuse n x.d))

/-- `wresize` (R72, R73). -/
def genWresize (x : Gen) (s : State) : State :=
  s.withIss fun i => ((s.runFold x.theSig (wresizeThread x)).fuseAll i.blk.bid).wsyncAll i.blk.bid

/-! ### The end of a thread -/

/-- What a thread leaves at its end (R77). -/
def Thread.exit (t : Thread) : Thread :=
  { t with exited := true, v := [], badRegs := [], pend := [], ret := [], spilled := 0, park := .ready, mark := false }

/-- What a thread's exit has to wait for or meets (R77, R231): nothing, a wait, or the trap of an orphaned join. -/
inductive ExitFate where
  | go
  | wait (c : Cond)
  | orphan
  deriving DecidableEq, Repr

def exitFate (b : Block) (t : Thread) (ti : Nat) : ExitFate :=
  if t.results ≠ [] ∨ t.lates ≠ [] then .wait .results
  else if b.conv.any (fun c => c.st == .joining && c.members.contains ti) then .orphan
  else match b.conv.findIdx? (fun c => c.st == .complete && c.members.contains ti) with
  | some j => .wait (.convIdle j)
  | none => .go

/-- One thread's exit, after `before` (R77, R88). -/
def exitThread (before : State → State) (i : Iss) (ti : Nat) (s : State) : State :=
  match s.block? i.blk.bid with
  | none => s
  | some b => match b.threads[ti]? with
    | none => s
    | some t =>
      if b.status ≠ .resident then s
      else match exitFate b t ti with
      | .wait c => s.waitThread b.bid ti c
      | .orphan => s.haltBlock b.bid .join 2
      | .go => (before s).modThread b.bid ti Thread.exit

/-- What an exit may complete: barriers, fuses and `wsync`s (R73, R84, R86). -/
def State.departed (s : State) (bid : Nat) : State := ((s.barsAgain bid).fuseAll bid).wsyncAll bid

/-- `ctrl.exit` (R77, R231). -/
def genExit (x : Gen) (s : State) : State :=
  s.withIss fun i => (s.runFold x.theSig (exitThread id)).departed i.blk.bid

/-! ### The other ctrl operations, and trap -/

/-- `ctrl.nop` (R77). -/
def genNop (x : Gen) (s : State) : State := s.runLocal x.theSig fun _ t => t.advance x.sw x.len

/-- `ctrl.ret` (R77). -/
def genRet (x : Gen) (s : State) : State :=
  s.runFold x.theSig fun i ti s => s.pop i ti fun a s => s.goTo i.blk.bid ti x.sw a

/-- `ctrl.yield` (R68, R77): the warp's run ends, and the warp is exchanged as by a park, where a thread performs
it (R42). -/
def genYield (x : Gen) (s : State) : State :=
  s.withIss fun i =>
    let part := i.blk.partOf i.run.crew
    let some_ := !(parts x.theSig s.tick i).isEmpty
    let s := s.runLocal x.theSig fun _ t => t.advance x.sw x.len
    if some_ = false then s else
    match (s.sched? i.blk.die i.blk.core part).bind (fun y => y.active.findIdx? (· == some (i.warp.ref i.blk.bid))) with
    | some k => s.exchange i.blk.die i.blk.core part k
    | none => s

/-- A trap that resumes at the next address (R77, R78, R306). -/
def Thread.faultNext (t : Thread) (c : Context) (code : TrapCode) (sub : Nat) (len : Nat) : Thread :=
  t.trap c { code := code, sub := sub, addr := 0, info := 0, late := false, tpc := t.pc,
             epc := t.pc + BitVec.ofNat 64 len }

/-- `ctrl.brk` (R77). -/
def genBrk (x : Gen) (s : State) : State :=
  s.runLocal x.theSig fun i t => t.faultNext i.ctx .brk 0 x.len

def trapSig (sw : Bool) : Sig := { sw := sw }

/-- `trap` (R78). -/
def opTrap (sw : Bool) (code : BitVec 16) (s : State) : State :=
  s.runLocal (trapSig sw) fun i t => t.faultNext i.ctx .swtrap code.toNat 4

/-! ### spawn -/

/-- One thread's record (R88): the trap or wait it meets, or the record. A bad entry traps before a pool of 0 bytes does, an
order which no rule states (DESIGN CHOICE, notes/assumptions/69.md); `spawnThread` asks for these before the exit of R231. -/
inductive SpawnFate where
  | trap (code : TrapCode) (sub : Nat)
  | wait
  | go (r : SpawnRec)
  deriving DecidableEq, Repr

def spawnFate (s : State) (b : Block) (r : Rd) (a : Nat) : SpawnFate :=
  let entry := Machine.pair (r.r a) (r.r (a + 1))
  let rc : SpawnRec := { entry := entry, args := (List.range 14).map (fun k => r.r (a + 2 + k)),
                         stamp := s.plat.clocks.getD (2 * b.die) 0 }
  if entry.toNat % 2 = 1 ∨ 2 ^ 53 ≤ entry.toNat then .trap .badtarget 4
  else match s.launch? b.lid with
  | none => .trap .prot 1
  | some l =>
    if l.rc.pool = 0 then .trap .prot 1
    else if l.poolSize ≤ l.poolUsed b.die then .wait
    else .go rc

/-- Put a record in a launch's pool on a die, after the thread's earlier accesses (R88, R301). -/
def State.putSpawn (s : State) (b : Block) (ti : Nat) (rc : SpawnRec) : State :=
  ((s.drainOf b.bid ti).release b 1).modLaunch b.lid fun l =>
    { l with pools := l.pools.map (fun p => if p.1 = b.die then (p.1, p.2 ++ [rc]) else p) }

/-- One thread's `spawn` or `spawn.exit` (R88, R231). No rule orders the fates of R88 and those of an exit of a member of a joining
register (R231); the model takes BADTARGET 4 and PROT 1 first, then the exit's: a `spawn.exit` that the exit halts or keeps
waiting has put no record in the pool yet, and one that the exit halts does so though the pool is full, without waiting for room
(DESIGN CHOICE, notes/assumptions/69.md). -/
def spawnThread (x : Gen) (i : Iss) (ti : Nat) (s : State) : State :=
  match s.block? i.blk.bid with
  | none => s
  | some b => match b.threads[ti]? with
    | none => s
    | some t =>
      match spawnFate s b (t.rd i.warp.w) x.a with
      | .trap c n => s.faultThread i ti c n
      | .wait =>
        if x.minor = 1 ∧ exitFate b t ti ≠ .go then exitThread id i ti s else s.waitThread b.bid ti .spawnRoom
      | .go rc => s.afterReds b.bid ti <|
        if x.minor = 1 then exitThread (·.putSpawn b ti rc) i ti s
        else (s.putSpawn b ti rc).pass x.theSig b.bid ti

/-- `spawn` and `spawn.exit` (R88). -/
def genSpawn (x : Gen) (s : State) : State :=
  s.withIss fun i =>
    let s := s.runFold x.theSig (spawnThread x)
    if x.minor = 1 then s.departed i.blk.bid else s

/-! ### Registers on demand -/

/-- A register count that R89 permits. -/
def regCountOk (n : Nat) : Bool := n % 8 == 0 && 8 ≤ n && n ≤ 128

def reggrowSig (sw : Bool) (n : BitVec 8) (d : BitVec 6) : Sig :=
  { sw := sw, resOk := regCountOk n.toNat && d.toNat < 8, predW := [d.toNat].filter (· != 7) }

/-- One thread's `reggrow` (R89). -/
def reggrowThread (sw : Bool) (n d : Nat) (i : Iss) (ti : Nat) (s : State) : State :=
  match s.block? i.blk.bid with
  | none => s
  | some b => match b.threads[ti]? with
    | none => s
    | some t =>
      let free := freeWords (s.holders b.die b.core b.prio none) (b.partOf t.crew) t.lane
      let more := n - t.v.length
      let ok := decide (more ≤ free)
      s.modThread b.bid ti fun t =>
        (({ t with v := if ok then t.v ++ List.replicate more 0 else t.v } : Thread).writes (wrPred d ok)).advance sw 4

/-- `reggrow` (R89): threads are served in order of position. -/
def opReggrow (sw : Bool) (n : BitVec 8) (d : BitVec 6) (s : State) : State :=
  s.runFold (reggrowSig sw n d) (reggrowThread sw n.toNat d.toNat)

def regshrinkSig (sw : Bool) (n : BitVec 8) : Sig := { sw := sw, resOk := regCountOk n.toNat }

/-- One thread's `regshrink` (R90, R230). Of several released registers that are pending, the free choice of log entry 5 says which
`$tinfo` names (DESIGN CHOICE, notes/assumptions/5.md). -/
def regshrinkThread (sw : Bool) (n : Nat) (i : Iss) (ti : Nat) (s : State) : State :=
  match s.block? i.blk.bid with
  | none => s
  | some b => match b.threads[ti]? with
    | none => s
    | some t =>
      let names := (List.range (t.v.length - n)).map (fun k => RegName.v (n + k))
      let held := names.filter (lentRegs b ti).contains
      if t.v.length ≤ n then s.modThread b.bid ti (·.advance sw 4)
      else match pickSpec s.tick ((List.range (t.v.length - n)).filterMap (fun k =>
          if t.pend.contains (.v (n + k)) then some (n + k) else none)) with
      | some k => s.faultThread i ti .hazard 2 0 (BitVec.ofNat 32 k)
      | none =>
        if held ≠ [] then s.waitThread b.bid ti (.notLent held)
        else s.modThread b.bid ti fun t =>
          ({ t with v := t.v.take n, badRegs := t.badRegs.filter (fun r => r < n || 0x80 ≤ r) } : Thread).advance sw 4

/-- `regshrink` (R90). -/
def opRegshrink (sw : Bool) (n : BitVec 8) (s : State) : State :=
  s.runFold (regshrinkSig sw n) (regshrinkThread sw n.toNat)

end Sys2Proof.Machine
end

