-- ==== Sys2Proof/Machine/Admit.lean ====
section
/-! DEFINITION. The front end's admission of clusters (R297 to R300), spawned crews (R301), the end of blocks (R302), and
its part in pre-emption (R317, R319, R320). -/

namespace Sys2Proof.Machine

open Sys2Proof

/-! ### Launches that wait -/

/-- Compute dies of a launch's die set (R296). -/
def Launch.dieSet (l : Launch) : List Nat := (List.range 8).filter (l.rc.dies.testBit ·)

/-- Granules of a block's tile reservation (R18). -/
def LaunchRec.grans (r : LaunchRec) : Nat := ceilDiv r.tiles 4096

/-- What a block of a launch asks of a core (R297). -/
def Launch.need (l : Launch) : Need :=
  { nthr := l.rc.crew, ncrew := l.rc.crews, grans := l.rc.grans, prio := l.prio,
    words := (List.range l.rc.crews).flatMap (fun _ => (List.range 4).map (fun k => laneThreads l.rc.crew k * l.rc.regs)) }

/-- The size of a spawned crew of `n` records (R301). -/
def spawnSize (n : Nat) : Nat := 8 * ceilDiv n 8

/-- What a spawned block of `n` records asks of a core (R300, R301). -/
def Launch.spawnNeed (l : Launch) (n : Nat) : Need :=
  { nthr := spawnSize n, ncrew := 1, grans := l.rc.grans, prio := l.prio,
    words := (List.range 4).map (fun k =>
      ((List.range n).filter (fun i => i / crewSlots (spawnSize n) == k)).length * l.rc.regs) }

/-- Whether a context may run work now (R289, R321). -/
def State.runs (s : State) (ctx : Nat) : Bool := ((s.ctx? ctx).map (fun c => !c.suspended && !c.destroying)).getD false

/-- Whether a launch has a cluster to admit (R297, R321). -/
def Launch.waiting (s : State) (l : Launch) : Bool := l.next < l.rc.clusters && s.runs l.ctx

/-- Whether a saved block waits to be restored to a core, before any admission of a priority (R320). -/
def State.restoreFirst (s : State) (die core prio : Nat) : Bool :=
  s.blocks.any (fun b => b.die == die && b.core == core && b.prio ≤ prio && s.runs b.ctx &&
    (match b.status with
     | .saved _ => true
     | _ => false))

/-- Bay positions whose core takes a block now (R297, R320). -/
def State.bayCores (s : State) (die bay : Nat) (n : Need) : List Nat :=
  (List.range 8).filter (fun p => (s.spots die (8 * bay + p) n).isSome && !(s.restoreFirst die (8 * bay + p) n.prio))

/-- The block tokens in use by a context on a die (R299). -/
def State.tokens (s : State) (ctx die : Nat) : List Nat :=
  (s.blocks.filter (fun b => b.ctx == ctx && b.die == die && b.status != .ended)).map (·.token)

/-- Tokens of a context on a die (R299). -/
def tokenCount : Nat := 2048

/-- Whether a bay takes `count` blocks of a context now (R297, R299). -/
def State.bayFits (s : State) (ctx die bay : Nat) (n : Need) (count : Nat) : Bool :=
  count ≤ (s.bayCores die bay n).length && (s.tokens ctx die).length + count ≤ tokenCount

/-- Cores of a die that could take a block (R297). -/
def State.freeCores (s : State) (die : Nat) (n : Need) : Nat :=
  ((List.range 48).filter (fun c => (s.spots die c n).isSome)).length

/-- The die with the most free cores, the lower where they tie (R297). -/
def State.mostFree (s : State) (n : Need) : List Nat → Option Nat
  | [] => none
  | d :: ds => some (ds.foldl (fun best e => if s.freeCores best n < s.freeCores e n then e else best) d)

/-! ### Pre-emption for priority 0 -/

/-- The blocks that could be saved in a bay, latest admitted first (R317). -/
def State.victims (s : State) (die bay : Nat) : List Block :=
  (s.blocks.filter (fun b => b.die == die && b.bay == bay && b.status == .resident && b.prio != 0)).mergeSort
    (fun x y => y.bid ≤ x.bid)

/-- The state with some blocks counted as saved in their places. -/
def State.asSaved (s : State) (bids : List Nat) : State :=
  { s with blocks := s.blocks.map (fun b => if bids.contains b.bid then { b with status := .saved true } else b) }

/-- The saves by which a bay makes room for `count` blocks of priority 0 (R317): the fewest, none where there is
none. -/
def State.savesFor (s : State) (ctx : Nat) (n : Need) (count die bay : Nat) : Option (List Nat) :=
  let vs := (s.victims die bay).map (·.bid)
  ((List.range (vs.length + 1)).find? (fun k => (s.asSaved (vs.take k)).bayFits ctx die bay n count)).map vs.take

/-- The die, the bay and the blocks to save for a priority-0 cluster that may go to some dies (R317): the fewest saves, then
the lower die, then the lower bay. -/
def State.hotPlanOn (s : State) (ctx : Nat) (dies : List Nat) (n : Need) (count : Nat) : Option (Nat × Nat × List Nat) :=
  let all := dies.flatMap (fun d => (List.range 6).filterMap (fun b => (s.savesFor ctx n count d b).map (fun v => (d, b, v))))
  match all with
  | [] => none
  | x :: xs => some (xs.foldl (fun best y => if y.2.2.length < best.2.2.length then y else best) x)

/-- The plan for a launch's next cluster (R317). -/
def State.hotPlan (s : State) (l : Launch) : Option (Nat × Nat × List Nat) := s.hotPlanOn l.ctx l.dieSet l.need l.rc.blocks

/-- The plans for the priority-0 clusters that wait: the next of each launch, and its spawned crews, each a cluster of one on
the die of its pool (R300, R301, R317). -/
def State.hotPlans (s : State) : List (Nat × Nat × List Nat) :=
  (s.launches.filter (fun l => l.prio == 0 && s.runs l.ctx)).flatMap fun l =>
    (if l.waiting s then (s.hotPlan l).toList else []) ++
      l.formed.filterMap (fun f => s.hotPlanOn l.ctx [f.1] (l.spawnNeed f.2.length) 1)

/-- The die that a launch's next cluster goes to, or waits on (R297, R317). -/
def State.targetDie (s : State) (l : Launch) : Option Nat :=
  match s.mostFree l.need l.dieSet with
  | none => none
  | some d =>
    if l.prio ≠ 0 ∨ (List.range 6).any (fun b => s.bayFits l.ctx d b l.need l.rc.blocks) then some d
    else match s.hotPlan l with
    | some (d', _, _) => some d'
    | none => some d

/-- Whether a cluster of a more urgent priority waits on a die (R297). -/
def State.higherWaits (s : State) (die prio : Nat) : Bool :=
  s.launches.any (fun l => l.prio < prio && s.runs l.ctx &&
    ((l.waiting s && s.targetDie l == some die) || l.formed.any (·.1 == die)))

/-- BLOCK_SAVE for a priority-0 cluster (R317, R319): the first block of its plan, once slots are free for all. -/
def State.hotVictim (s : State) (bid : Nat) : Bool :=
  s.hotPlans.any (fun (d, _, v) =>
    v.head? == some bid && v.length + s.slotsUsed d ≤ s.saveSlots d && !(s.saveQ.any (·.1 == d)))

/-- BLOCK_SAVE (R317 to R319): enabled by the cause it names. A block trap's save is part of the trap (R310). -/
def opBlockSave (bid : Nat) (cause : SaveCause) (s : State) : State :=
  match s.block? bid with
  | none => s
  | some b =>
    if b.status ≠ .resident then s
    else match cause with
    | .hot => if s.hotVictim bid then s.saveBlock b .hot else s
    | .suspend => if ((s.ctx? b.ctx).map (·.suspended)).getD false then s.saveBlock b .suspend else s
    | .drain => if s.plat.spares.draining.contains (b.die, b.core) then s.saveBlock b .drain else s
    | .halt => s

/-- Whether a priority-0 cluster is about to take places of a bay (R317, R320). -/
def State.hotComes (s : State) (die bay : Nat) : Bool :=
  s.hotPlans.any (fun (d, b, v) => d == die && b == bay && v == [])

/-- BLOCK_RESTORE (R320). -/
def opBlockRestore (bid : Nat) (s : State) : State :=
  match s.block? bid with
  | none => s
  | some b =>
    if s.canRestore b = false ∨ (b.prio ≠ 0 ∧ s.hotComes b.die b.bay) then s else s.resumeBlock b

/-! ### New blocks -/

/-- A thread as it starts (R300). -/
def Thread.start (crew tid lane slot : Nat) (pc : DWord) (v : List Word) (gone : Bool) : Thread :=
  { crew := crew, tid := tid, lane := lane, slot := slot, pc := pc, priv := false, exited := gone,
    v := if gone then [] else v, k := List.replicate 16 0, p := 0, badRegs := [], pend := [], results := [], lates := [],
    age := 0, ret := [], spilled := 0, shares := [], park := .ready, mark := false, tcause := 0, tpc := 0, epc := 0,
    taddr := 0, tinfo := 0 }

/-- The warps of a slot range (R61): the largest aligned groups, from the lowest slot up; the first argument bounds them. -/
def slotGroups : Nat → Nat → Nat → List (Nat × Nat)
  | 0, _, _ => []
  | n + 1, x, stop =>
    if stop ≤ x then []
    else
      let size := if x % 32 = 0 ∧ x + 32 ≤ stop then 32 else if x % 16 = 0 ∧ x + 16 ≤ stop then 16 else 8
      (x, size) :: slotGroups n (x + size) stop

/-- w registers of a warp (R41). -/
def wCount : Nat := 64

/-- The warps of a crew at its place (R61, R114). -/
def crewWarps (crew nthr : Nat) (p : CrewPlace) : List Warp :=
  (lanesOf nthr).flatMap fun l =>
    let base := p.bases.getD l 0
    (slotGroups 32 base (base + laneThreads nthr l)).map fun g =>
      { crew := crew, lane := l, first := g.1, size := g.2, w := List.replicate wCount 0, stores := [], issued := 0, parkTick := 0 }

/-- The threads of a crew at its place (R59). `init` gives each thread its entry and registers, none for one that has
exited. -/
def crewThreads (crew nthr : Nat) (p : CrewPlace) (init : Nat → Option (DWord × List Word)) : List Thread :=
  (List.range nthr).map fun i =>
    let l := i / crewSlots nthr
    let slot := p.bases.getD l 0 + i % crewSlots nthr
    match init i with
    | some (pc, v) => Thread.start crew i l slot pc v false
    | none => Thread.start crew i l slot 0 [] true

/-- `n` registers, the first of them given. -/
def regsFrom (n : Nat) (xs : List Word) : List Word := (List.range n).map (fun i => xs.getD i 0)

/-- A block as it is admitted (R59, R298 to R300). -/
def newBlock (l : Launch) (bid cid die bay : Nat) (pl : BlockPlace) (mask idx nblk nthr : Nat) (clus : Word)
    (init : Nat → Option (DWord × List Word)) : Block :=
  { bid := bid, lid := l.lid, cid := cid, ctx := l.ctx, die := die, bay := bay, pos := pl.pos, token := pl.token, clus := clus,
    blk := idx, nthr := nthr, ncrew := pl.crews.length, nblk := nblk, bmask := mask, prio := l.prio, grans := l.rc.grans,
    stack := l.rc.stack, seed := l.rc.seed, slots := l.rc.slots, places := pl.crews,
    threads := pl.crews.zipIdx.flatMap (fun (p, c) => crewThreads c nthr p init),
    warps := pl.crews.zipIdx.flatMap (fun (p, c) => crewWarps c nthr p),
    tiles := List.replicate 64 Tile.free, conv := List.replicate 16 Conv.idle, q := List.replicate 16 Counter.zero,
    crewBars := List.replicate pl.crews.length (List.replicate 16 Bar.idle), blockBars := List.replicate 16 Bar.idle,
    status := .resident }

/-- Whether a placement meets the checks of an admission (R17, R297 to R299, R320). -/
def State.placeOk (s : State) (l : Launch) (n : Need) (count : Nat) (pl : Placement) : Bool :=
  let cores := pl.blocks.map (fun b => 8 * pl.bay + b.pos)
  let toks := pl.blocks.map (·.token)
  pl.bay < 6 && pl.blocks.length == count && s.runs l.ctx && !(s.higherWaits pl.die l.prio) &&
    (pl.blocks.map (·.pos)).Pairwise (· < ·) && pl.blocks.all (·.pos < 8) &&
    toks.eraseDups == toks && toks.all (fun t => t < tokenCount && !((s.tokens l.ctx pl.die).contains t)) &&
    pl.blocks.all (fun b => s.placesFit pl.die (8 * pl.bay + b.pos) n b.crews) &&
    cores.all (fun c => !(s.restoreFirst pl.die c l.prio))

/-- Put the blocks of a new cluster on their cores (R69, R298). -/
def State.place (s : State) (l : Launch) (pl : Placement) (nthr : Nat) (clus : Word) (init : Nat → Option (DWord × List Word)) :
    State :=
  let (cid, s) := s.fresh
  let mask := (pl.blocks.map (fun b => 2 ^ b.pos)).sum
  let s : State := { s with clusters := s.clusters ++ [{ cid := cid, lid := l.lid, bars := List.replicate 16 Bar.idle }] }
  pl.blocks.zipIdx.foldl (fun s (bp, i) =>
    let (bid, s) := s.fresh
    let b := newBlock l bid cid pl.die pl.bay bp mask i pl.blocks.length nthr clus init
    ({ s with blocks := s.blocks ++ [b] }).joinSets b) s

/-- The registers of a launched thread (R300). -/
def launchInit (l : Launch) (_ : Nat) : Option (DWord × List Word) :=
  some (l.rc.entry, regsFrom l.rc.regs [loWord l.rc.params, hiWord l.rc.params])

/-- The registers of a spawned thread (R300); beyond the records the crew is padded (R301). -/
def spawnInit (l : Launch) (rs : List SpawnRec) (i : Nat) : Option (DWord × List Word) :=
  (rs[i]?).map (fun r => (r.entry, regsFrom l.rc.regs r.args))

/-- CLUSTER_ADMIT (R297 to R301): the next cluster of a launch on its die, or a spawned crew on the die of its pool; any
places that meet the checks. -/
def opClusterAdmit (lid : Nat) (pl : Placement) (s : State) : State :=
  match s.launch? lid with
  | none => s
  | some l =>
    if pl.spawned then
      match l.formed.find? (·.1 == pl.die) with
      | some (_, rs) =>
        if s.placeOk l (l.spawnNeed rs.length) 1 pl then
          (s.place l pl (spawnSize rs.length) 0xFFFFFFFF (spawnInit l rs)).modLaunch lid (fun l =>
            { l with formed := dropFirst (·.1 == pl.die) l.formed })
        else s
      | none => s
    else if l.waiting s ∧ s.targetDie l = some pl.die ∧ s.placeOk l l.need l.rc.blocks pl then
      (s.place l pl l.rc.crew (BitVec.ofNat 32 l.next) (launchInit l)).modLaunch lid (fun l => { l with next := l.next + 1 })
    else s

/-- Places that meet the checks of R297 for `count` blocks in a bay: the lowest positions and the lowest tokens. -/
def State.pickPlaces (s : State) (ctx die bay : Nat) (n : Need) (count : Nat) : List BlockPlace :=
  let free := (List.range tokenCount).filter (fun t => !((s.tokens ctx die).contains t))
  (((s.bayCores die bay n).take count).zip free).map fun (p, t) =>
    { pos := p, token := t, crews := (s.spots die (8 * bay + p) n).getD [] }

/-- One placement that the front end may choose for a launch, if there is one (R297). -/
def State.pickPlacement (s : State) (l : Launch) : Option Placement :=
  let at_ (spawned : Bool) (die : Nat) (n : Need) (count : Nat) : Option Placement :=
    ((List.range 6).find? (fun b => s.bayFits l.ctx die b n count)).map fun b =>
      { die := die, bay := b, spawned := spawned, blocks := s.pickPlaces l.ctx die b n count }
  let main := if l.waiting s then (s.targetDie l).bind (fun d => at_ false d l.need l.rc.blocks) else none
  let all := main.toList ++ l.formed.filterMap (fun f => at_ true f.1 (l.spawnNeed f.2.length) 1)
  all.find? (fun pl =>
    s.placeOk l (if pl.spawned then l.spawnNeed (((l.formed.find? (·.1 == pl.die)).map (·.2.length)).getD 0) else l.need)
      (if pl.spawned then 1 else l.rc.blocks) pl)

/-! ### Spawned crews -/

/-- The records of a pool on a die. -/
def Launch.poolAt (l : Launch) (die : Nat) : List SpawnRec := ((l.pools.find? (·.1 == die)).map (·.2)).getD []

/-- Take the first `n` records of an entry out of a pool, in their order. -/
def takeRecs (entry : DWord) : Nat → List SpawnRec → List SpawnRec × List SpawnRec
  | _, [] => ([], [])
  | n, r :: rs =>
    if r.entry = entry ∧ 0 < n then
      let x := takeRecs entry (n - 1) rs
      (r :: x.1, x.2)
    else
      let x := takeRecs entry n rs
      (x.1, r :: x.2)

/-- Form a crew of up to `n` records of an entry (R301). -/
def Launch.form (l : Launch) (die : Nat) (entry : DWord) (n : Nat) : Launch :=
  let x := takeRecs entry n (l.poolAt die)
  { l with pools := l.pools.map (fun p => if p.1 = die then (die, x.2) else p), formed := l.formed ++ [(die, x.1)] }

/-- SPAWN_CREW_FORM (R301). -/
def opSpawnCrewForm (lid die : Nat) (entry : DWord) (s : State) : State :=
  match s.launch? lid with
  | some l =>
    if l.rc.crew ≤ ((l.poolAt die).filter (·.entry == entry)).length ∧ l.rc.crew ≠ 0 then
      s.modLaunch lid (·.form die entry l.rc.crew)
    else s
  | none => s

/-- Clocks that a record waits before a crew is formed early (R301). -/
def gatherClocks : Nat := 4096

/-- SPAWN_GATHER_TIMEOUT (R301): the oldest record of a pool takes every record of its entry along. -/
def opSpawnGatherTimeout (lid die : Nat) (s : State) : State :=
  match s.launch? lid with
  | some l => match l.poolAt die with
    | r :: rs =>
      let n := ((r :: rs).filter (·.entry == r.entry)).length
      if r.stamp + gatherClocks ≤ s.plat.clocks.getD (2 * die) 0 ∧ n < l.rc.crew then s.modLaunch lid (·.form die r.entry n)
      else s
    | [] => s
  | none => s

/-! ### The end of a block -/

/-- A block ends (R302): its threads' accesses are performed (R295), its unmatched tile receives are cancelled (R285), its
handles, convergence registers and q counters go (R169, R248), its token is free, and its cluster may have ended.
`halted` counts it among the launch's halted blocks (R310, R312). -/
def State.endBlock (s : State) (b : Block) (halted : Bool) : State :=
  let s := ((s.drainBlock b.bid).release b 2).cancelTileRecvs b.bid
  let s := s.leaveSets b.bid
  let s := s.modMat b.die b.core (fun u => { u with waiting := u.waiting.filter (fun w => w.bid != b.bid) })
  let s : State := { s with saveQ := s.saveQ.filter (fun e => e.2 != b.bid) }
  let s := s.modBlock b.bid (fun x =>
    { x with status := .ended, threads := x.threads.map Thread.exit, conv := x.conv.map (fun _ => Conv.idle),
             q := x.q.map (fun _ => Counter.zero) })
  let s := s.barsAgain b.bid
  let over_ := !(s.blocks.any (fun x => x.cid == b.cid && x.status != .ended))
  let s := s.modLaunch b.lid (fun l =>
    { l with halted := l.halted + (if halted then 1 else 0),
             ended := l.ended + (if over_ ∧ b.clus ≠ 0xFFFFFFFF then 1 else 0) })
  let s : State := if over_ then { s with clusters := s.clusters.filter (fun c => c.cid != b.cid) } else s
  s.reapBlocks

/-- BLOCK_END (R302). -/
def opBlockEnd (bid : Nat) (s : State) : State :=
  match s.block? bid with
  | some b => if b.status = .resident ∧ b.threads.all (·.exited) then s.endBlock b false else s
  | none => s

end Sys2Proof.Machine
end

