-- ==== Sys2Proof/Machine/Graph.lean ====
section
/-! DEFINITION. Queues and graphs (R289 to R291), nodes (R292, R293), completion records (R294, R295, R373) and launches
(R296, R301, R302). -/

namespace Sys2Proof.Machine

open Sys2Proof

/-! ### Finding and changing -/

def State.queue? (s : State) (die q : Nat) : Option Queue := s.queues.find? (fun x => x.die == die && x.q == q)
def State.modQueue (s : State) (die q : Nat) (f : Queue → Queue) : State :=
  { s with queues := s.queues.map (fun x => if x.die = die ∧ x.q = q then f x else x) }
def State.modGraph (s : State) (die q : Nat) (f : Graph → Graph) : State :=
  s.modQueue die q (fun x => { x with graph := x.graph.map f })
def State.graph? (s : State) (die q : Nat) : Option Graph := (s.queue? die q).bind (·.graph)
def State.modNode (s : State) (die q idx : Nat) (f : Node → Node) : State :=
  s.modGraph die q (fun g => { g with nodes := g.nodes.map (fun n => if n.idx = idx then f n else n) })
def State.node? (s : State) (die q idx : Nat) : Option Node := (s.graph? die q).bind (fun g => g.nodes.find? (·.idx == idx))

/-- The fields of a queue's descriptor (R327). -/
def Queue.base (x : Queue) : Nat := field x.desc 0 8
def Queue.entries (x : Queue) : Nat := field x.desc 8 4
def Queue.ctx (x : Queue) : Nat := field x.desc 12 1
def Queue.prio (x : Queue) : Nat := field x.desc 13 1

/-- The fields of a node record (R292). -/
def Node.kind (n : Node) : Nat := field n.raw 0 1
def Node.preds (n : Node) : Nat := field n.raw 2 2
def Node.doneVa (n : Node) : DWord := BitVec.ofNat 64 (field n.raw 8 8)

/-! ### Reading memory for the front end -/

/-- Read pieces of virtual memory with a context's page table, each within one line; the first that faults stops. -/
def State.readPieces (s : State) (c : Context) (die : Nat) : List (DWord × Nat) → State × (CopyFault ⊕ List Byte)
  | [] => (s, .inr [])
  | (va, n) :: ps =>
    match s.reachAt c (engineSite die) va accLoad with
    | (s1, .inl f) => (s1, .inl ⟨f, va⟩)
    | (s1, .inr p) =>
      if s1.mem.marked (lineOf p.pa) then (s1, .inl ⟨⟨.dataerr, 0⟩, va⟩)
      else
        let s2 := s1.touchRange p.pa n
        match s2.readPieces c die ps with
        | (s3, .inl f) => (s3, .inl f)
        | (s3, .inr bs) => (s3, .inr (s2.mem.bytes p.pa n ++ bs))

/-- Pieces of `size` bytes from an address on. -/
def pieces (va : DWord) (size count : Nat) : List (DWord × Nat) :=
  (List.range count).map (fun i => (va + BitVec.ofNat 64 (size * i), size))

/-! ### Completion records -/

/-- A completion record (R294). -/
def doneRecord (status node ready start finish clusters halted : Nat) : List Byte :=
  toBytes 4 status ++ toBytes 4 node ++ toBytes 8 ready ++ toBytes 8 start ++ toBytes 8 finish ++ toBytes 4 clusters ++
    toBytes 4 halted ++ List.replicate 24 0

/-- The node number of a graph's record (R294). -/
def graphNode : Nat := 0xFFFFFFFF

/-- The report of a record that could not be written (R373). -/
def State.recordReport (s : State) (ctx die : Nat) (va : DWord) (f : MemFault) (node : Nat) (target : RepTarget) : State :=
  s.report ctx { Report.plain 1 f.code f.sub die va target with node := node }

/-! ### Graphs -/

/-- Nodes that a die's store holds (R12, R291). -/
def nodeStore : Nat := 65536

/-- Whether a front end is ready (R339). -/
def State.frontUp (s : State) (die : Nat) : Bool := s.plat.rdymap.toNat.testBit (27 + die)

/-- A graph descriptor that breaks R291. -/
def graphBad (d : List Byte) : Bool :=
  field d 8 4 == 0 || !(zeroAt d 12 4) || !(zeroAt d 24 8) || field d 0 8 % 128 != 0 || field d 16 8 % 64 != 0

/-- A graph at its queue's head. -/
def newGraph (d : List Byte) (now status : Nat) : Graph :=
  { nodesVa := BitVec.ofNat 64 (field d 0 8), count := field d 8 4,
    doneVa := if field d 16 8 % 64 = 0 then BitVec.ofNat 64 (field d 16 8) else 0, resident := false, ready := now, start := none, finish := none,
    nodes := [], status := status, ended := status != 0, held := false }

/-- GRAPH_FETCH (R290, R291): one graph at a time; one that can never be resident ends at once. -/
def opGraphFetch (die q : Nat) (s : State) : State :=
  match s.queue? die q with
  | none => s
  | some x => match s.ctx? x.ctx with
    | none => s
    | some c =>
      if x.enabled = false ∨ x.disabling.isSome ∨ x.graph.isSome ∨ x.head = x.tail ∨ s.frontUp die = false ∨ c.destroying then s
      else
        let va := BitVec.ofNat 64 (x.base + 32 * (x.head.toNat % x.entries))
        match s.readPieces c die [(va, 32)] with
        | (s1, .inl f) =>
          if f.f.isHold then s.askFor die f.f
          else s1.modQueue die q (fun x => { x with graph := some (newGraph [] s.plat.time 5) })
        | (s1, .inr d) =>
          let status := if graphBad d then 1 else if nodeStore < field d 8 4 then 4 else 0
          s1.modQueue die q (fun x => { x with graph := some (newGraph d s.plat.time status) })

/-- Nodes resident on a die. -/
def State.residentNodes (s : State) (die : Nat) : Nat :=
  ((s.queues.filter (·.die == die)).map (fun x => match x.graph with
    | some g => if g.resident then g.count else 0
    | none => 0)).sum

/-- A node as it comes to the store (R291, R293): READY when it has no predecessors. -/
def newNode (idx : Nat) (raw : List Byte) (now seq : Nat) : Node :=
  let preds := field raw 2 2
  { idx := idx, raw := raw, remaining := preds, early := 0, chain := [], st := if preds = 0 then .ready else .waiting, readySeq := seq, ready := now,
    start := 0, finish := none, status := 0, worst := 0, second := false, held := false, workDone := false, lid := none }

/-- Cut a node array into records. -/
def nodeRecords : Nat → List Byte → List (List Byte)
  | 0, _ => []
  | n + 1, bs => bs.take 128 :: nodeRecords n (bs.drop 128)

/-- GRAPH_RESIDENT (R291): the nodes are read once the store has room; nodes that cannot be read end the graph. -/
def opGraphResident (die q : Nat) (s : State) : State :=
  match s.queue? die q, s.graph? die q with
  | some x, some g =>
    (match s.ctx? x.ctx with
    | none => s
    | some c =>
      if g.resident ∨ g.ended ∨ nodeStore < s.residentNodes die + g.count then s
      else match s.readPieces c die (pieces g.nodesVa 128 g.count) with
      | (s1, .inl f) =>
        if f.f.isHold then s.askFor die f.f else s1.modGraph die q (fun g => { g with ended := true, status := 5 })
      | (s1, .inr bs) =>
        let ns := (nodeRecords g.count bs).zipIdx.map (fun (r, i) => newNode i r s.plat.time (s.nextId + i))
        { s1.modGraph die q (fun g => { g with resident := true, ready := s.plat.time, nodes := ns }) with
          nextId := s1.nextId + g.count })
  | _, _ => s

/-- Whether a graph has nothing left to run (R294). -/
def Graph.over_ (g : Graph) : Bool :=
  g.ended || (g.resident && g.nodes.all (fun n => n.st != .ready && n.st != .running))

/-- The graph leaves its queue, whose head advances (R290). -/
def State.graphGone (s : State) (die q : Nat) : State :=
  s.modQueue die q (fun x => { x with graph := none, head := x.head + 1 })

/-- A graph's status (R294). -/
def Graph.finalStatus (g : Graph) : Nat := g.nodes.foldl (fun m n => max m n.worst) g.status

/-- Write a graph's completion record and end the graph, once the record is performed (R294, R295, R373). -/
def State.finishGraph (s : State) (x : Queue) (g : Graph) : State :=
  let now := g.finish.getD s.plat.time
  let start := g.start.getD now
  let s := s.modGraph x.die x.q (fun g => { g with finish := some now })
  if g.doneVa = 0 then s.graphGone x.die x.q
  else match s.writeRecord x.ctx x.die g.doneVa (doneRecord g.finalStatus graphNode g.ready start now 0 0)
      (.graph x.die x.q) with
  | (s1, none) =>
    if s1.writesOpen (.graph x.die x.q) then s1.modGraph x.die x.q (fun g => { g with out := true }) else s1.graphGone x.die x.q
  | (s1, some f) =>
    if f.isHold then s.askFor x.die f
    else (s1.modGraph x.die x.q (fun g => { g with held := true })).recordReport x.ctx x.die g.doneVa f graphNode
      (.graphRec x.die x.q)

/-- GRAPH_END (R294). -/
def opGraphEnd (die q : Nat) (s : State) : State :=
  match s.queue? die q with
  | some x => match x.graph with
    | some g =>
      if g.out then (if s.writesOpen (.graph die q) then s else s.graphGone die q)
      else if g.over_ ∧ g.held = false then s.finishGraph x g else s
    | none => s
  | none => s

/-! ### The launch record -/

/-- The bits that a counter binding keeps zero (R296). -/
def bindingOk (b : Nat) : Bool := bitsAt b 12 4 == 0 && bitsAt b 19 13 == 0

/-- Whether a launch record meets the limits of R296 for a queue. -/
def launchRecOk (r : List Byte) (q : Nat) (stkmax : Word) : Bool :=
  let entry := field r 0 8
  let crew := field r 8 2
  let regs := field r 12 1
  entry % 2 == 0 && entry < 2 ^ 53 && 8 ≤ crew && crew ≤ 1024 && crew % 8 == 0 &&
    1 ≤ field r 10 1 && field r 10 1 ≤ 4 && 1 ≤ field r 11 1 && field r 11 1 ≤ 8 &&
    8 ≤ regs && regs ≤ 128 && regs % 8 == 0 && zeroAt r 14 2 && field r 20 4 ≤ 1048576 &&
    field r 24 4 % 16 == 0 && field r 24 4 ≤ stkmax.toNat && field r 28 4 % 64 == 0 &&
    (field r 48 1 == 0 || field r 48 1 == q + 1) && field r 49 1 ≤ 3 && zeroAt r 50 6 && zeroAt r 160 96 &&
    (List.range 4).all (fun k => bindingOk (field r (128 + 8 * k) 8))

/-- A launch record, decoded (R296). -/
def parseLaunch (r : List Byte) (die : Nat) : LaunchRec :=
  { entry := BitVec.ofNat 64 (field r 0 8), crew := field r 8 2, crews := field r 10 1, blocks := field r 11 1,
    regs := field r 12 1, dies := if field r 13 1 = 0 then 2 ^ die else field r 13 1,
    clusters := if field r 16 4 = 0 then 2 ^ 32 else field r 16 4, tiles := field r 20 4, stack := field r 24 4,
    pool := field r 28 4, seed := BitVec.ofNat 64 (field r 32 8), params := BitVec.ofNat 64 (field r 40 8),
    queue := field r 48 1, prio := field r 49 1, done := BitVec.ofNat 64 (field r 56 8),
    slots := (List.range 8).map (fun k => BitVec.ofNat 64 (field r (64 + 8 * k) 8)),
    bindings := (List.range 4).map (fun k => BitVec.ofNat 64 (field r (128 + 8 * k) 8)) }

/-- Whether a cluster could be admitted on some idle die of the set (R297): its crews fit empty lanes, and some bay still
has cores enough. -/
def State.everFits (s : State) (l : Launch) : Bool :=
  (l.need.words).all (· ≤ laneWords) &&
    l.dieSet.any (fun d => (List.range 6).any (fun b =>
      l.rc.blocks ≤ ((List.range 8).filter (fun p => !(s.plat.spares.lost.contains (d, 8 * b + p)))).length))

/-- The spawn store of a die, and what launches have set aside of it (R301, R328). -/
def State.spawnStore (s : State) (die : Nat) : Nat :=
  ((s.plat.carves.find? (·.die == die)).map (·.spawnSize)).getD 0
def State.spawnUsed (s : State) (die : Nat) : Nat :=
  ((s.launches.filter (fun l => l.pools.any (·.1 == die))).map (·.rc.pool)).sum

/-- What the start of a launch node comes to (R296, R301): status 4, a wait for its pools, or a launch. -/
inductive LaunchPlan where
  | never
  | wait
  | go
  deriving DecidableEq, Repr

def State.launchPlan (s : State) (l : Launch) : LaunchPlan :=
  if s.everFits l = false then .never
  else if l.rc.pool = 0 then .go
  else if l.dieSet.all (fun d => s.spawnStore d < l.rc.pool) then .never
  else if l.dieSet.all (fun d => s.spawnUsed d + l.rc.pool ≤ s.spawnStore d) then .go
  else .wait

/-- A launch as its node starts. -/
def newLaunch (s : State) (x : Queue) (n : Node) (r : List Byte) : Launch :=
  let rc := parseLaunch r x.die
  { lid := s.nextId, ctx := x.ctx, die := x.die, q := x.q, node := n.idx, rc := rc, prio := max rc.prio x.prio, next := 0,
    pools := [], formed := [], ended := 0, halted := 0, status := 0, recordHeld := false }

/-! ### The start of a node -/

/-- Body bytes that no field of the kind covers are zero (R292). -/
def bodyOk (raw : List Byte) : Bool :=
  match field raw 0 1 with
  | 0 => zeroAt raw 40 88
  | 1 => zeroAt raw 113 7
  | 2 => zeroAt raw 46 2 && zeroAt raw 64 64
  | 3 => zeroAt raw 34 6 && zeroAt raw 48 80
  | 4 => zeroAt raw 34 2 && zeroAt raw 44 84
  | _ => zeroAt raw 52 76

/-- Whether a node record is well formed as it stands (R292): its kind, reserved and unlisted bytes, the multiples that its
addresses keep, and its counter number. -/
def nodeOk (raw : List Byte) : Bool :=
  field raw 0 1 < 7 && zeroAt raw 1 1 && zeroAt raw 4 4 && zeroAt raw 28 4 && bodyOk raw &&
    field raw 8 8 % 64 == 0 && field raw 16 8 % 4 == 0 &&
    (match field raw 0 1 with
     | 0 => field raw 32 8 % 256 == 0
     | 2 => 1 ≤ field raw 40 4 && field raw 40 4 ≤ 8192 && field raw 44 2 < 4096
     | 3 => field raw 32 2 < 4096
     | 4 => field raw 32 2 < 4096
     | 5 => field raw 32 8 % 4 == 0 && field raw 40 8 % 4 == 0
     | 6 => field raw 32 8 % 4 == 0 && field raw 40 8 % 4 == 0
     | _ => true)

/-- A node starts (R293): its count is reloaded, and the decrements that reached it while it was READY count after that. -/
def Node.begin_ (n : Node) (now : Nat) : Node :=
  { n with st := .running, start := now, finish := none, remaining := n.preds - n.early, early := 0, chain := [], status := 0,
           second := false, workDone := false, lid := none }

/-- A node's work is over with a status. -/
def State.nodeOver (s : State) (x : Queue) (n : Node) (status : Nat) : State :=
  s.modNode x.die x.q n.idx (·.endWork status s.plat.time)

/-- A copy node (R292): the plan of R181 with the records of the node, or the status that ends it. -/
def State.copyNode (s : State) (x : Queue) (n : Node) (c : Context) : State × (Option Nat ⊕ (Place × List Nat × List Dst × Xf)) :=
  let rec_ (at_ : Nat) : DWord := BitVec.ofNat 64 (field n.raw at_ 8)
  let o (at_ : Nat) : List Nat := (List.range 7).map (fun k => field n.raw (at_ + 4 * k) 4)
  match s.readPieces c x.die [(rec_ 40, 128), (rec_ 32, 128)] with
  | (s1, .inl f) => (s1, .inl (if f.f.isHold then none else some 5))
  | (s1, .inr bs) =>
    let xf := match field n.raw 112 1 with
      | 0 => some Xf.raw
      | 1 => some Xf.cvt
      | 2 => some Xf.rhad
      | _ => none
    match xf, parseLayout (bs.take 128), parseLayout (bs.drop 128) with
    | some xf, .inr ls, .inr ld =>
      if field n.raw 32 8 % 128 ≠ 0 ∨ field n.raw 40 8 % 128 ≠ 0 then (s1, .inl (some 1))
      else (match ggPlan xf (BitVec.ofNat 64 (field n.raw 104 8)) ls ld (o 48) (o 76) with
        | .go src box dsts _ => (s1, .inr (src, box, dsts, xf))
        | _ => (s1, .inl (some 1)))
    | _, _, _ => (s1, .inl (some 1))

/-- The entries of a chain, each with its threshold and the chain's counter (R292). -/
def chainEntries (x : Queue) (n : Node) (es : List WorkEnt) : List WorkEnt :=
  es.zipIdx.map (fun (e, i) =>
    { e with die := x.die, ctx := x.ctx, node := some (x.die, x.q, n.idx), slot := 0, key := 0,
             threshold := BitVec.ofNat 64 (field n.raw 48 8 + i * field n.raw 56 8), ctr := { net := true, num := field n.raw 44 2 } })

/-- Post the entries of a chain one by one, as many as the store has room for now (R271, R292): each takes the next number of
the counter; the others wait until entries free. -/
def State.postChain (s : State) (x : Queue) (n : Node) (es : List WorkEnt) : State :=
  let k := workLimit - s.worksAt x.die
  let s := (es.take k).foldl (fun s e =>
    let (num, s) := s.takeNum x.ctx x.die none e.ctr
    let (eid, s) := s.fresh
    s.modFab fun f => { f with entries := f.entries ++ [{ e with eid := eid, num := num }] }) s
  s.modNode x.die x.q n.idx (fun n => { n with chain := es.drop k })

/-- The records of a chain, when all are well formed (R270, R292). -/
def parseChain (s : State) : Nat → List Byte → Option (List WorkEnt)
  | 0, _ => some []
  | n + 1, bs =>
    match parseEntry s (bs.take 64), parseChain s n (bs.drop 64) with
    | some e, some es => some (e :: es)
    | _, _ => none

/-- What the start of a READY node does (R292, R295, R296): the state, or none while the node has to wait. -/
def State.startNode (s : State) (x : Queue) (n : Node) (c : Context) : Option State :=
  let s0 := (s.modNode x.die x.q n.idx (·.begin_ s.plat.time)).modGraph x.die x.q (fun g =>
    { g with start := some (g.start.getD s.plat.time) })
  let va (at_ : Nat) : DWord := BitVec.ofNat 64 (field n.raw at_ 8)
  if nodeOk n.raw = false then
    some (s0.nodeOver x n 1)
  else match n.kind with
  | 0 =>
    (match s0.readPieces c x.die (pieces (va 32) 128 2) with
     | (s1, .inl f) => if f.f.isHold then none else some (s1.nodeOver x n 5)
     | (s1, .inr r) =>
       if launchRecOk r x.q c.stkmax = false then some (s1.nodeOver x n 1)
       else
         let l := newLaunch s1 x n r
         let add (l : Launch) : State :=
           { s1.modNode x.die x.q n.idx (fun n => { n with lid := some l.lid }) with
             launches := s1.launches ++ [l], nextId := s1.nextId + 1 }
         match s1.launchPlan l with
         | .never => some (add { l with next := l.rc.clusters, status := 4 })
         | .wait => none
         | .go => some (add { l with pools := if l.rc.pool = 0 then [] else l.dieSet.map (fun d => (d, [])) }))
  | 1 =>
    (match s0.copyNode x n c with
     | (s1, .inl (some k)) => some (s1.nodeOver x n k)
     | (_, .inl none) => none
     | (s1, .inr (src, box, dsts, xf)) =>
       let (cid, s2) := s1.fresh
       some (s2.startCopy
         { cid := cid, clus := 0, handle := none, die := x.die, bay := 0, core := 48, bid := none, lid := none, ctx := x.ctx,
           owner := .node x.die x.q n.idx, key := va 120, slot := va 104, xf := xf, src := src, box := box, dsts := dsts,
           ctr := none, num := 0, stalled := false, abandoned := false, short := false }))
  | 2 =>
    let count := field n.raw 40 4
    (match s0.readPieces c x.die (pieces (va 32) 64 count) with
     | (s1, .inl f) => if f.f.isHold then none else some (s1.nodeOver x n 5)
     | (s1, .inr bs) => match parseChain s1 count bs with
       | some es => some (s1.postChain x n (chainEntries x n es))
       | none => some (s1.nodeOver x n 1))
  | 3 => some s0
  | 4 =>
    let ep := field n.raw 36 4
    if s0.epOk ep then some (s0.advanceAt
      { aid := 0, job := c.jobid, ctx := x.ctx, die := x.die, node := some n.idx, ep := ep, ctr := field n.raw 32 2,
        amount := field n.raw 40 4, owner := some (x.die, x.q, n.idx) })
    else some (s0.nodeOver x n 1)
  | _ =>
    (match s0.readPieces c x.die [(va 32, 4)] with
     | (s1, .inl f) => if f.f.isHold then none else some (s1.nodeOver x n 5)
     | (s1, .inr w) => some ((s1.modNode x.die x.q n.idx (fun n => { n with second := fromBytes w == 0 })).nodeOver x n 0))

/-- The READY nodes of a die in the order in which they start (R293), each with its queue. -/
def State.readyNodes (s : State) (die : Nat) : List (Queue × Node) :=
  ((s.queues.filter (fun x => x.die == die && s.runs x.ctx)).flatMap (fun x => match x.graph with
    | some g => (g.nodes.filter (fun n => n.st == .ready)).map (fun n => (x, n))
    | none => [])).mergeSort (fun a b => a.1.prio < b.1.prio || (a.1.prio == b.1.prio && a.2.readySeq ≤ b.2.readySeq))

/-- The first READY node that can start, and what its start does (R293). -/
def State.firstStart (s : State) : List (Queue × Node) → Option (Queue × Node × State)
  | [] => none
  | (x, n) :: rest =>
    match (s.ctx? x.ctx).bind (s.startNode x n) with
    | some s1 => some (x, n, s1)
    | none => s.firstStart rest

/-- What the start of a node reads of memory first: the addresses and lengths (R292, R296). -/
def Node.reads (n : Node) : List (DWord × Nat) :=
  let va (at_ : Nat) : DWord := BitVec.ofNat 64 (field n.raw at_ 8)
  match n.kind with
  | 0 => pieces (va 32) 128 2
  | 1 => [(va 40, 128), (va 32, 128)]
  | 2 => pieces (va 32) 64 (field n.raw 40 4)
  | 5 | 6 => [(va 32, 4)]
  | _ => []

/-- A node whose start waits for a line of another package has it asked for (R252). -/
def State.startAsks (s : State) (die q node : Nat) : State :=
  match (s.readyNodes die).find? (fun y => y.1.q == q && y.2.idx == node) with
  | some (x, n) => match (s.ctx? x.ctx).map (fun c => (s.readPieces c x.die n.reads).2) with
    | some (.inl f) => s.askFor x.die f.f
    | _ => s
  | none => s

/-- NODE_START (R293). -/
def opNodeStart (die q node : Nat) (s : State) : State :=
  match s.firstStart (s.readyNodes die) with
  | some (x, n, s1) => if x.q = q ∧ n.idx = node then s1 else s.startAsks die q node
  | none => s.startAsks die q node

/-! ### The end of a node -/

/-- Whether a running node's work has ended (R292, R295). -/
def State.workOver (s : State) (x : Queue) (n : Node) : Bool :=
  n.workDone ||
    (match n.kind with
     | 2 => n.chain.isEmpty && !(s.fab.entries.any (fun e => e.node == some (x.die, x.q, n.idx)))
     | 3 => match s.ctx? x.ctx with
       | some c => field n.raw 40 8 ≤ (c.netCtr x.die (field n.raw 32 2)).c.toNat
       | none => false
     | 4 => !(s.fab.advances.any (fun a => a.owner == some (x.die, x.q, n.idx)))
     | _ => false)

/-- The list that a node releases (R292, R293): its address and length. -/
def Node.list (n : Node) : DWord × Nat :=
  if n.second then (BitVec.ofNat 64 (field n.raw 40 8), field n.raw 48 4)
  else (BitVec.ofNat 64 (field n.raw 16 8), field n.raw 24 4)

/-- A decrement reaches a node (R293). -/
def Node.decrement (n : Node) (now seq : Nat) : Node :=
  if n.preds = 0 then n
  else if n.st = .ready then { n with early := n.early + 1 }
  else
    let n := { n with remaining := n.remaining - 1 }
    if n.st = .waiting ∧ n.remaining ≤ 0 then { n with st := .ready, ready := now, readySeq := seq } else n

/-- Decrement the nodes of a released list, in its order. -/
def State.decrements (s : State) (die q : Nat) (is : List Nat) : State :=
  is.foldl (fun s i =>
    let (seq, s) := s.fresh
    s.modNode die q i (·.decrement s.plat.time seq)) s

/-- Where a node goes when its run is done (R293). -/
def Node.settle (n : Node) (now seq : Nat) : Node :=
  if n.preds = 0 then { n with st := .done }
  else if n.remaining ≤ 0 then { n with st := .ready, ready := now, readySeq := seq }
  else { n with st := .waiting }

/-- The launch of a node leaves once the node's record is written. -/
def State.dropLaunch (s : State) (lid : Option Nat) : State :=
  match lid with
  | some l => { s with launches := s.launches.filter (·.lid != l) }
  | none => s

/-- The end of a node once its record is written or skipped (R293, R294, R373). -/
def State.nodeGone (s : State) (x : Queue) (n : Node) (status : Nat) (skipped : Bool) (is : List Nat) : State :=
  let s := (s.modNode x.die x.q n.idx (fun n =>
    { n with worst := max n.worst (if skipped then max 5 status else status), held := false, out := none })).dropLaunch n.lid
  let s := s.decrements x.die x.q (if status = 0 then is else [])
  let (seq, s) := s.fresh
  s.modNode x.die x.q n.idx (·.settle s.plat.time seq)

/-- Finish a node whose work has ended (R293 to R295): read its list, write its record, then release once the record is
performed. `skip` leaves the record out (R373). -/
def State.finishNode (s : State) (x : Queue) (n : Node) (c : Context) (skip : Bool) : State :=
  let now := n.finish.getD s.plat.time
  let s := s.modNode x.die x.q n.idx (fun n => { n with finish := some now })
  let (s1, status, is) :=
    if n.status ≠ 0 then (s, some n.status, [])
    else match s.readPieces c x.die (pieces n.list.1 4 n.list.2) with
    | (s1, .inl f) => if f.f.isHold then (s.askFor x.die f.f, none, []) else (s1, some 5, [])
    | (s1, .inr bs) =>
      let is := (List.range n.list.2).map (fun k => field bs (4 * k) 4)
      let count := ((s.graph? x.die x.q).map (·.count)).getD 0
      if is.all (· < count) then (s1, some 0, is) else (s1, some 1, [])
  let l := n.lid.bind s.launch?
  match status with
  | none => s1
  | some status =>
    if n.doneVa.toNat % 64 ≠ 0 ∨ n.doneVa = 0 ∨ skip then s1.nodeGone x n status skip is
    else match s1.writeRecord x.ctx x.die n.doneVa (doneRecord status n.idx n.ready n.start now
        ((l.map (·.ended)).getD 0) ((l.map (·.halted)).getD 0)) (.node x.die x.q n.idx) with
    | (s2, none) =>
      if s2.writesOpen (.node x.die x.q n.idx) then s2.modNode x.die x.q n.idx (fun n => { n with out := some (status, is) })
      else s2.nodeGone x n status false is
    | (s2, some f) =>
      if f.isHold then s.askFor x.die f
      else (s2.modNode x.die x.q n.idx (fun n => { n with held := true })).recordReport x.ctx x.die n.doneVa f n.idx
        (.nodeRec x.die x.q n.idx)

/-- NODE_DONE (R293). A chain with entries still to post posts what the store now has room for; a node whose record is on its way
waits for it (R295). -/
def opNodeDone (die q node : Nat) (s : State) : State :=
  match s.queue? die q, s.node? die q node with
  | some x, some n => match s.ctx? x.ctx with
    | some c =>
      (match n.out with
       | some (status, is) => if s.writesOpen (.node die q node) then s else s.nodeGone x n status false is
       | none =>
         if n.st = .running ∧ n.chain ≠ [] then s.postChain x n n.chain
         else if n.st = .running ∧ n.held = false ∧ s.workOver x n then s.finishNode x n c false
         else s)
    | none => s
  | _, _ => s

/-! ### The end of a launch -/

/-- Whether the homes in other packages have acknowledged what a launch's threads wrote, also those of blocks that are gone (R252,
R295). -/
def State.launchAcked (s : State) (lid : Nat) : Bool :=
  let mine (bid : Nat) : Bool := ((s.block? bid).map (fun b => b.lid == lid)).getD true
  !(s.fab.peer.writes.any (fun w => match w.owner with
    | .thread bid _ => mine bid
    | _ => false)) && !(s.fab.peer.atoms.any (fun a => a.waiters.any (fun w => mine w.bid)))

/-- Whether everything that a launch started is complete (R295, R302). -/
def State.launchOver (s : State) (l : Launch) : Bool :=
  let mine (bid : Nat) : Bool := ((s.block? bid).map (fun b => b.lid == l.lid)).getD false
  l.next == l.rc.clusters && l.pools.all (·.2 == []) && l.formed == [] &&
    !(s.blocks.any (fun b => b.lid == l.lid && b.status != .ended)) &&
    !(s.copies.any (fun c => c.lid == some l.lid)) && !(s.fab.msgs.any (fun m => m.lid == some l.lid && !m.sent)) &&
    !(s.fab.reds.any (fun r => r.lid == some l.lid)) && !(s.fab.contribs.any (fun c => c.lid == some l.lid)) &&
    !(s.mats.any (fun u => u.queue.any (fun o => mine o.bid))) && s.launchAcked l.lid

/-- A launch's status (R294, R302). -/
def Launch.endStatus (l : Launch) : Nat := if l.status ≠ 0 then l.status else if l.halted = 0 then 0 else 2

/-- COUNTER_BINDING_ADVANCE (R296): one binding. -/
def State.bind1 (s : State) (ctx : Nat) (b : DWord) : State :=
  s.modCtx ctx (fun c => c.modNet (bitsAt b.toNat 16 3) (bitsAt b.toNat 0 12) (·.advance (b >>> 32)))

/-- Once a launch's record is written or skipped (R296, R373): its bindings, then its node's work is over. -/
def State.launchGone (s : State) (l : Launch) (skipped : Bool) : State :=
  let s := l.rc.bindings.foldl (fun (s : State) (b : DWord) => if b >>> 32 = 0 then s else s.bind1 l.ctx b) s
  let s := s.modLaunch l.lid (fun l => { l with recordHeld := false, out := false, pools := [] })
  s.modNode l.die l.q l.node (fun n =>
    { n.endWork l.endStatus s.plat.time with worst := if skipped then max n.worst 5 else n.worst })

/-- Write a launch's own completion record (R296), then its bindings advance, once the record is performed. -/
def State.finishLaunch (s : State) (l : Launch) : State :=
  match s.node? l.die l.q l.node with
  | none => s
  | some n =>
    let now := n.finish.getD s.plat.time
    let s := s.modNode l.die l.q l.node (fun n => { n with finish := some now })
    if l.rc.done = 0 then s.launchGone l false
    else match s.writeRecord l.ctx l.die l.rc.done
        (doneRecord l.endStatus n.idx n.ready n.start now l.ended l.halted) (.launch l.lid) with
    | (s1, none) =>
      if s1.writesOpen (.launch l.lid) then s1.modLaunch l.lid (fun l => { l with out := true }) else s1.launchGone l false
    | (s1, some f) =>
      if f.isHold then s.askFor l.die f
      else (s1.modLaunch l.lid (fun l => { l with recordHeld := true })).recordReport l.ctx l.die l.rc.done f n.idx
        (.launchRec l.lid)

/-- LAUNCH_END (R302). -/
def opLaunchEnd (lid : Nat) (s : State) : State :=
  match s.launch? lid with
  | some l =>
    let open_ := ((s.node? l.die l.q l.node).map (fun n => n.st == .running && !n.workDone)).getD false
    if l.out then (if s.writesOpen (.launch lid) then s else s.launchGone l false)
    else if open_ ∧ l.recordHeld = false ∧ s.launchOver l then s.finishLaunch l else s
  | none => s

end Sys2Proof.Machine
end

