-- ==== Sys2Proof/Machine/Crypto.lean ====
section
/-! DEFINITION. SHA-512, MGF1 and RSASSA-PSS as the boot ROM uses them (R333). R333 names the algorithms; their steps
are those of FIPS 180-4 and RFC 8017 (notes/assumptions/44.md). -/

namespace Sys2Proof.Machine

open Sys2Proof

/-! ### SHA-512 -/

/-- The first 80 primes. -/
def primes80 : List Nat :=
  [2, 3, 5, 7, 11, 13, 17, 19, 23, 29, 31, 37, 41, 43, 47, 53, 59, 61, 67, 71,
   73, 79, 83, 89, 97, 101, 103, 107, 109, 113, 127, 131, 137, 139, 149, 151, 157, 163, 167, 173,
   179, 181, 191, 193, 197, 199, 211, 223, 227, 229, 233, 239, 241, 251, 257, 263, 269, 271, 277, 281,
   283, 293, 307, 311, 313, 317, 331, 337, 347, 349, 353, 359, 367, 373, 379, 383, 389, 397, 401, 409]

/-- The largest number below 2^n whose k-th power is at most x, found bit by bit. -/
def rootBits (k x : Nat) : Nat → Nat → Nat
  | 0, r => r
  | n + 1, r => if (r + 2 ^ n) ^ k ≤ x then rootBits k x n (r + 2 ^ n) else rootBits k x n r

/-- The first 64 bits of the fraction of a prime's k-th root. -/
def rootFraction (k p : Nat) : DWord := BitVec.ofNat 64 (rootBits k (p * 2 ^ (64 * k)) 72 0)

/-- The round constants and the initial hash value of SHA-512. -/
def shaK : List DWord := primes80.map (rootFraction 3)
def shaInit : List DWord := (primes80.take 8).map (rootFraction 2)

/-- A big-endian number from bytes, highest first. -/
def fromBe (bs : List Byte) : Nat := fromBytes bs.reverse

/-- `n` bytes of a number, highest first. -/
def toBe (n x : Nat) : List Byte := (toBytes n x).reverse

/-- The message schedule, latest word first: from 16 words on by `n` more. -/
def shaSchedule : Nat → List DWord → List DWord
  | 0, ws => ws
  | n + 1, ws =>
    let s0 (x : DWord) : DWord := x.rotateRight 1 ^^^ x.rotateRight 8 ^^^ (x >>> 7)
    let s1 (x : DWord) : DWord := x.rotateRight 19 ^^^ x.rotateRight 61 ^^^ (x >>> 6)
    shaSchedule n ((s1 (ws.getD 1 0) + ws.getD 6 0 + s0 (ws.getD 14 0) + ws.getD 15 0) :: ws)

/-- One round of SHA-512 on the eight working words. -/
def shaRound (h : List DWord) (kw : DWord × DWord) : List DWord :=
  let g (i : Nat) : DWord := h.getD i 0
  let e := g 4
  let a := g 0
  let t1 := g 7 + (e.rotateRight 14 ^^^ e.rotateRight 18 ^^^ e.rotateRight 41) + ((e &&& g 5) ^^^ (~~~e &&& g 6)) + kw.1 + kw.2
  let t2 := (a.rotateRight 28 ^^^ a.rotateRight 34 ^^^ a.rotateRight 39) + ((a &&& g 1) ^^^ (a &&& g 2) ^^^ (g 1 &&& g 2))
  [t1 + t2, a, g 1, g 2, g 3 + t1, e, g 5, g 6]

/-- The compression of one block of 128 bytes. -/
def shaBlock (h : List DWord) (b : List Byte) : List DWord :=
  let ws := (List.range 16).map (fun i => BitVec.ofNat 64 (fromBe ((b.drop (8 * i)).take 8)))
  let sched := (shaSchedule 64 ws.reverse).reverse
  ((shaK.zip sched).foldl shaRound h).zipWith (· + ·) h

/-- The compression of a padded message, block by block; the first argument bounds the blocks. -/
def shaBlocks : Nat → List DWord → List Byte → List DWord
  | 0, h, _ => h
  | n + 1, h, bs => shaBlocks n (shaBlock h (bs.take 128)) (bs.drop 128)

/-- SHA-512. -/
def sha512 (m : List Byte) : List Byte :=
  let n := m.length
  let pad := m ++ 0x80 :: (List.replicate ((256 - 17 - n % 128) % 128) 0 ++ toBe 16 (8 * n))
  (shaBlocks (pad.length / 128) shaInit pad).flatMap (fun w => toBe 8 w.toNat)

/-! ### RSASSA-PSS -/

/-- x^e modulo n, on the lowest `k` bits of e, from the highest down. -/
def powMod (x e n : Nat) : Nat → Nat → Nat
  | 0, r => r
  | k + 1, r => powMod x e n k (let y := r * r % n; if e.testBit k then y * x % n else y)

/-- MGF1 with SHA-512. -/
def mgf1 (seed : List Byte) (n : Nat) : List Byte :=
  ((List.range (ceilDiv n 64)).flatMap (fun i => sha512 (seed ++ toBe 4 i))).take n

/-- EMSA-PSS verification for an RSA-4096 modulus: 4,095 bits, a 64-byte salt. -/
def pssOk (em hash : List Byte) : Bool :=
  let masked := em.take 447
  let h := (em.drop 447).take 64
  let db := masked.zipWith (· ^^^ ·) (mgf1 h 447)
  let db := (db.headD 0 &&& 0x7F) :: db.drop 1
  let salt := db.drop 383
  em.getD 511 0 == 0xBC && (masked.headD 0).toNat < 128 && (db.take 382).all (· == 0) && db.getD 382 0 == 1 &&
    sha512 (List.replicate 8 0 ++ hash ++ salt) == h

/-- RSASSA-PSS verification with SHA-512 (R333): modulus, exponent, signature, message. -/
def rsaOk (n e s : Nat) (message : List Byte) : Bool :=
  0 < n && s < n && pssOk (toBe 512 (powMod s e n 32 1)) (sha512 message)

end Sys2Proof.Machine
end

