-- ==== Sys2Proof/Machine/Sys.lean ====
section
/-! DEFINITION. Control registers (R303 to R305), the system instructions (R313 to R316), reports and their answers (R311,
R312, R373), contexts (R321, R325) and the watchdog (R322). -/

namespace Sys2Proof.Machine

open Sys2Proof

/-! ### Control registers -/

/-- Control registers that only reads reach, and those that only writes reach (R303). -/
def ctlReadOnly (n : Nat) : Bool := [0, 1, 3, 4, 17, 22, 23, 25].contains n
def ctlWriteOnly (n : Nat) : Bool := n == 27 || n == 28

/-- Whether a context's register takes a value (R305). -/
def winbaseOk (v : Nat) : Bool := v == 0 || (v % 64 == 0 && bitsAt v 52 2 == 0)
def ctlOk (c : Context) (n v : Nat) : Bool :=
  match n with
  | 16 => v == 0 || (v % 8192 == 0 && bitsAt v 52 2 == 0)
  | 18 => v == 0 || (v % 2 == 0 && v < 2 ^ 53)
  | 20 => v % 16 == 0 && v < 2 ^ 53
  | 21 => v % 16 == 0
  | 24 => (c.reptail - BitVec.ofNat 32 v).toNat ≤ c.repsize.toNat
  | 26 => bitsAt v 12 3 == 0 && bitsAt v 16 16 == 0
  | 27 => bitsAt v 17 15 == 0
  | 32 => winbaseOk v
  | _ => true

/-- The value of a context's register, as a thread or the host of a die reads it (R303). -/
def State.ctlGet (s : State) (c : Context) (die n : Nat) : DWord :=
  match n with
  | 16 => c.root
  | 17 => c.jobid.setWidth 64
  | 18 => c.handler
  | 19 => c.route.setWidth 64
  | 20 => c.stkbase
  | 21 => c.stkmax.setWidth 64
  | 22 => c.repbase
  | 23 => c.repsize.setWidth 64
  | 24 => c.rephead.setWidth 64
  | 25 => c.reptail.setWidth 64
  | 26 => (c.repctr.getD die 0).setWidth 64
  | 32 => s.plat.winbase
  | _ => 0

/-- The value that a thread reads (R303, R313); write-only registers read as 0. -/
def State.ctlRead (s : State) (c : Context) (die : Nat) (t : Thread) (n : Nat) : DWord :=
  match n with
  | 0 => t.tcause.setWidth 64
  | 1 => t.tpc
  | 2 => t.epc
  | 3 => t.taddr
  | 4 => t.tinfo.setWidth 64
  | _ => s.ctlGet c die n

/-- Write a context's register that has no behaviour of its own (R303). -/
def Context.ctlSet (c : Context) (die n : Nat) (v : DWord) : Context :=
  match n with
  | 16 => { c with root := v }
  | 18 => { c with handler := v }
  | 19 => { c with route := loWord v }
  | 20 => { c with stkbase := v }
  | 21 => { c with stkmax := loWord v }
  | 24 => { c with rephead := loWord v }
  | 26 => { c with repctr := setAt c.repctr die (loWord v) }
  | _ => c

/-- The threads of a context that stand in `idle` go on while reports wait (R315). -/
def State.idleCheck (s : State) (ctx : Nat) : State :=
  match s.ctx? ctx with
  | some c => if c.reptail = c.rephead then s else s.wakeIdle ctx
  | none => s

/-- Write a register of a context or of the package (R303); reduction writes held for want of room in the once-tag set are
tried again by their own step. -/
def State.ctlSet (s : State) (ctx die n : Nat) (v : DWord) : State :=
  if n = 32 then s.modPlat (fun p => { p with winbase := v })
  else if n = 28 then s.modCtx ctx (fun c => { c with once := c.once.filter (·.ep != s.endpoint die) })
  else
    let s := s.modCtx ctx (fun c => c.ctlSet die n v)
    if n = 24 then s.idleCheck ctx else s

/-! ### Suspension and resumption -/

/-- A context is suspended (R321): its queues start no node and its launches admit nothing; BLOCK_SAVE saves its blocks. -/
def State.suspend (s : State) (ctx : Nat) : State := s.modCtx ctx (fun c => { c with suspended := true })

/-- A block stopped in place by a suspension resumes on its core (R319). -/
def State.resumeStopped (s : State) (b : Block) : State :=
  if b.status = .stopped .suspend then
    ({ s with saveQ := s.saveQ.filter (fun e => e.2 != b.bid) }).resumeIssue b
  else s

/-- A context resumes (R319, R321): its blocks stopped in place issue again, and the saved ones wait to be restored. -/
def State.resume (s : State) (ctx : Nat) : State :=
  let s := s.modCtx ctx (fun c => { c with suspended := false })
  (s.blocks.filter (·.ctx == ctx)).foldl State.resumeStopped s

/-! ### Reports -/

/-- The kind-0 report of a thread that awaits delivery (R308, R311). -/
def State.threadReport (s : State) (b : Block) (ti : Nat) (tr : Trap) : Report :=
  { kind := 0, code := tr.code, sub := tr.sub, die := b.die, token := b.token, addr := tr.addr, ctr := 0xFFFF, num := 0,
    pc := tr.tpc, thread := ti, node := ((s.launch? b.lid).map (·.node)).getD 0, target := .thread b.bid ti }

/-- The reports of a context that wait to be written: those of operations, then those of threads. -/
def State.waitingReports (s : State) (c : Context) : List Report :=
  c.held ++ (s.blocks.filter (·.ctx == c.num)).flatMap (fun b => b.threads.zipIdx.filterMap (fun (t, ti) =>
    match t.park with
    | .host tr none => some (s.threadReport b ti tr)
    | _ => none))

/-- The bytes of a report (R311). -/
def Report.bytes (r : Report) (now : Nat) : List Byte :=
  toBytes 1 r.kind ++ toBytes 1 (trapNum r.code) ++ toBytes 2 r.sub ++ toBytes 1 r.die ++ toBytes 1 0 ++ toBytes 2 r.token ++
    toBytes 8 r.addr.toNat ++ toBytes 2 r.ctr ++ toBytes 6 0 ++ toBytes 8 r.num.toNat ++ toBytes 8 r.pc.toNat ++
    toBytes 4 r.thread ++ toBytes 4 r.node ++ toBytes 8 now ++ toBytes 8 0

/-- The ring place of the next report (R311). -/
def Context.ringIndex (c : Context) : Nat := c.reptail.toNat % c.repsize.toNat

/-- Whether the next place of the ring may be written (R311). -/
def Context.ringFree (c : Context) : Bool :=
  c.reptail - c.rephead != c.repsize && !(c.open_.any (·.1 == c.ringIndex))

/-- What writing a report leaves of its wait: an operation's report is no longer held, a thread knows its place. -/
def State.reportPlaced (s : State) (ctx : Nat) (r : Report) (idx : Nat) : State :=
  match r.target with
  | .thread bid ti => s.modThread bid ti (fun t => match t.park with
    | .host tr none => { t with park := .host tr (some idx) }
    | _ => t)
  | _ => s.modCtx ctx (fun c => { c with held := dropFirst (· == r) c.held })

/-- Where the next report of a context stands (R311). -/
def Context.ringAddr (c : Context) : Nat := c.repbase.toNat + 64 * c.ringIndex

/-- Whether a die's report has to wait for its place: behind a peer's stack that is not ready (R339), or for the return of a line
that another package holds (R252). -/
def State.reportWaits (s : State) (c : Context) (die : Nat) : Bool :=
  s.stackWaits (engineSite die) c.ringAddr || !(s.lineHolders (lineOf c.ringAddr) true none).isEmpty

/-- Write one report (R311): the record, the tail, the die's counter, the interrupt. A report that asks for no action is
resolved at once. -/
def State.putReport (s : State) (c : Context) (r : Report) : State :=
  let idx := c.ringIndex
  let s := s.engineStore r.die .engine (plainCells c.ringAddr (r.bytes s.plat.time))
  let s := s.reportPlaced c.num r idx
  let s := s.modCtx c.num (fun c => { c with
    reptail := c.reptail + 1, open_ := if r.target = .none then c.open_ else c.open_ ++ [(idx, r.target)] })
  let k := (c.repctr.getD r.die 0).toNat
  let s := if k.testBit 15 then s.modCtx c.num (fun c => c.modNet r.die (bitsAt k 0 12) (·.advance 1)) else s
  let s := if c.route.toNat.testBit (trapNum r.code) ∨ r.kind = 0 ∨ r.kind = 3 then (s.intBit c.num 0).irq c.num 0 else s
  s.idleCheck c.num

/-- REPORT_WRITE (R311): a full ring, a place whose report is unresolved, or one that cannot be reached yet (R339), holds it. -/
def opReportWrite (ctx : Nat) (s : State) : State :=
  match s.ctx? ctx with
  | some c => match s.waitingReports c with
    | r :: _ => if c.ringFree ∧ s.reportWaits c r.die = false then s.putReport c r else s
    | [] => s
  | none => s

/-! ### Answers to reports -/

/-- A thread whose trap went to the host resumes (R312): the entry of R307 without privilege, at `$epc`. A trap taken in
privileged mode leaves the registers of the first (R308). -/
def Thread.hostResume (t : Thread) : Thread :=
  match t.park with
  | .host tr (some _) =>
    let t := if t.priv then t else t.setTrap tr
    ({ t with priv := false, pc := t.epc, park := .ready, mark := false } : Thread).marker
  | _ => t

/-- The landing or entry copies of an operation go on from their faulting line (R167). -/
def State.unstall (s : State) (owner : CopyOwner) : State :=
  { s with copies := s.copies.map (fun c => if c.owner = owner then { c with stalled := false } else c) }

/-- A stalled work entry goes on (R167, R272). -/
def State.resumeEntry (s : State) (eid : Nat) : State :=
  let s := s.unstall (.entry eid)
  let s := s.modFab fun f => { f with msgs := f.msgs.map (fun m => if m.entry = some eid then { m with stalled := false } else m) }
  match s.ent? eid with
  | some e => match s.ctx? e.ctx with
    | some c =>
      if e.st = .stalled then
        State.entryBlocks (e.len / 128) (s.modEnt eid (fun e => { e with st := .running })) c { e with st := .running }
      else s
    | none => s
  | none => s

/-- Action 0 on what a report is about (R312, R373). -/
def State.resumeTarget (s : State) (ctx : Nat) (t : RepTarget) : State :=
  match t with
  | .none => s
  | .access => s
  | .thread bid ti => s.modThread bid ti Thread.hostResume
  | .copy cid => s.modCopy cid (fun c => { c with stalled := false })
  | .msg mid => s.modMsg mid (fun m => { m with stalled := false })
  | .recv rid => match s.recv? rid with
    | some r => if r.st = .recordHeld then s.recvRecord r else s.unstall (.landing rid)
    | none => s
  | .entry eid => s.resumeEntry eid
  | .reduction rid => s.modRed rid (fun r => { r with held := false })
  | .round .. => s
  | .advance _ => s
  | .block _ => s
  | .watchdog _ => s.resume ctx
  | .nodeRec die q node => s.modNode die q node (fun n => { n with held := false })
  | .launchRec lid => s.modLaunch lid (fun l => { l with recordHeld := false })
  | .graphRec die q => s.modGraph die q (fun g => { g with held := false })

/-- Abandon the copies of an operation. -/
def State.abandonCopies (s : State) (owner : CopyOwner) : State :=
  (s.copies.filter (·.owner == owner)).foldl (fun s c => s.abandonCopy c.cid) s

/-- A work entry is abandoned (R272): its copy and its message end, and its reducing writes not yet sent to a home go; a round of a
window goes on, since others have contributed to it. -/
def State.abandonEntry (s : State) (eid : Nat) : State :=
  let s := s.abandonCopies (.entry eid)
  let s := (s.fab.msgs.filter (fun m => m.entry == some eid && m.stalled)).foldl State.cutMsg s
  (s.modFab fun f => { f with reds := f.reds.filter (fun r => r.entry != some eid || r.away || r.group.isSome) }).modEnt eid
    (fun e => { e with abandoned := true })

/-- The work entries that made some contributions are abandoned (R272). -/
def State.abandonContribs (s : State) (cs : List Contrib) : State :=
  (cs.filterMap (·.entry)).foldl (fun s eid => s.modEnt eid (fun e => { e with abandoned := true })) s

/-- A round is abandoned (R272, R336): the work entries that contributed to it are. -/
def State.abandonRound (s : State) (cs : List Contrib) : State := (s.roundDone cs).abandonContribs cs

/-- A reducing write that is held at its final hop is abandoned (R272, R336): it is not applied there, and the work entries whose
values it carries are abandoned. -/
def State.abandonRed (s : State) (r : Reduction) : State :=
  match r.group, r.entry with
  | some g, _ => (s.abandonContribs (s.fab.contribs.filter (·.gid == g))).redGone r
  | none, some eid => s.abandonEntry eid
  | none, none => s.redGone r

/-- Whether a block stands saved, or stopped to be saved. -/
def Block.isSaved (b : Block) : Bool :=
  match b.status with
  | .saved _ => true
  | .stopped _ => true
  | _ => false

/-- Action 1 on what a report is about (R310, R312, R373). -/
def State.abandonTarget (s : State) (ctx : Nat) (t : RepTarget) : State :=
  match t with
  | .none => s
  | .access => s
  | .thread bid ti => match s.thread? bid ti with
    | some th => match th.park with
      | .host tr (some _) => s.haltBlock bid tr.code tr.sub
      | _ => s
    | none => s
  | .copy cid => s.abandonCopy cid
  | .msg mid => match s.msg? mid with
    | some m => s.cutMsg m
    | none => s
  | .recv rid => match s.recv? rid with
    | some r => if r.st = .recordHeld then s.recvGone r else s.abandonCopies (.landing rid)
    | none => s
  | .entry eid => s.abandonEntry eid
  | .reduction rid => match s.red? rid with
    | some r => s.abandonRed r
    | none => s
  | .round win off k => s.abandonRound (s.fab.contribs.filter (fun c => c.win == win && c.off == off && c.round == k))
  | .advance aid => s.modFab fun f => { f with advances := f.advances.filter (·.aid != aid) }
  | .block bid => match s.block? bid with
    | some b => if b.status = .ended then s else s.endBlock b true
    | none => s
  | .watchdog die => (s.blocks.filter (fun b => b.ctx == ctx && b.die == die && b.isSaved)).foldl (fun s b => s.endBlock b true) s
  | .nodeRec die q node => match s.queue? die q, s.node? die q node, s.ctx? ctx with
    | some x, some n, some c => s.finishNode x n c true
    | _, _, _ => s
  | .launchRec lid => match s.launch? lid with
    | some l => s.launchGone l true
    | none => s
  | .graphRec die q => s.graphGone die q

/-- Answer a report (R312): an index of no unresolved report is ignored, and so is a resume of a halted block. -/
def State.repact (s : State) (ctx idx : Nat) (abandon : Bool) : State :=
  match s.ctx? ctx with
  | none => s
  | some c => match c.open_.find? (·.1 == idx) with
    | none => s
    | some (_, t) =>
      match t, abandon with
      | .block _, false => s
      | _, _ =>
        let s := s.modCtx ctx (fun c => { c with open_ := dropFirst (·.1 == idx) c.open_ })
        if abandon then s.abandonTarget ctx t else s.resumeTarget ctx t

/-- REPACT_RESUME and REPACT_ABANDON (R312). -/
def opRepactResume (ctx idx : Nat) (s : State) : State := s.repact ctx idx false
def opRepactAbandon (ctx idx : Nat) (s : State) : State := s.repact ctx idx true

/-! ### System instructions -/

/-- `ctlrd` (R313). A wide `ctlrd` into a w register writes it once (R43); of a register that each thread has of its
own it takes the first participant's, which no rule states (DEDUCED, notes/assumptions/59.md). -/
def genCtlrd (x : Gen) (s : State) : State :=
  s.runAlu x.theSig fun i _ t =>
    let v := s.ctlRead i.ctx i.blk.die t x.imm
    if ctl64 x.imm then wrPair x.d v else wr x.d (loWord v)

/-- One thread's `ctlwr` (R303, R305, R313). -/
def ctlwrThread (x : Gen) (i : Iss) (ti : Nat) (s : State) : State :=
  match s.thread? i.blk.bid ti, s.ctx? i.ctx.num with
  | some t, some c =>
    let r := t.rd i.warp.w
    let v : DWord := if ctl64 x.imm then r.pair x.a else (r.r x.a).setWidth 64
    if ctlReadOnly x.imm then s.faultThread i ti .priv 2
    else if ctlOk c x.imm v.toNat = false then s.faultThread i ti .priv 3
    else
      let s := s.pass x.theSig i.blk.bid ti
      (match x.imm with
       | 2 => s.modThread i.blk.bid ti (fun t => { t with epc := v })
       | 27 => s.repact c.num (bitsAt v.toNat 0 16) (v.toNat.testBit 16)
       | _ => s.ctlSet c.num i.blk.die x.imm v)
  | _, _ => s

/-- `ctlwr` (R313). -/
def genCtlwr (x : Gen) (s : State) : State := s.runFold x.theSig (ctlwrThread x)

/-- `eret` (R314): first the wait of a switch marker. -/
def genEret (x : Gen) (s : State) : State :=
  s.runLocal x.theSig fun _ t =>
    if t.results = [] ∧ t.lates = [] then t.eret else { t with park := .retry .results }

/-- Clocks that `idle` lasts at most (R315). -/
def idleClocks : Nat := 2 ^ 20

/-- `idle` (R315). -/
def genIdle (x : Gen) (s : State) : State :=
  s.runLocal x.theSig fun i t =>
    if i.ctx.reptail ≠ i.ctx.rephead then t.advance x.sw x.len
    else t.parkPast x.sw x.len (.idle (s.clockOf i.blk + idleClocks))

/-- Whether a cached translation goes (R316): all of the context, or those of the page that holds an address. -/
def TlbEntry.hit (e : TlbEntry) (ctx : Nat) (va : Option DWord) : Bool :=
  e.ctx == ctx && (match va with
    | some a => e.vbase == a.toNat >>> offBits e.level
    | none => true)

/-- One thread's `pginv` (R316): its earlier writes are performed for package scope, it waits as at a marker, and the translations
go. -/
def pginvThread (x : Gen) (i : Iss) (ti : Nat) (s : State) : State :=
  match s.thread? i.blk.bid ti with
  | none => s
  | some t =>
    let s := (s.drainOf i.blk.bid ti).release i.blk 2
    if t.results ≠ [] ∨ t.lates ≠ [] then s.waitThread i.blk.bid ti .results
    else s.afterAll i.blk.bid ti (some 2) <|
      let va := if x.minor = 0 then some ((t.rd i.warp.w).pair x.a) else none
      let s : State := { s with tlb := s.tlb.filter (fun e => !(e.hit i.ctx.num va)) }
      (s.modThread i.blk.bid ti (fun t => { t with pend := [] })).pass x.theSig i.blk.bid ti

/-- `pginv.page` and `pginv.context` (R316). -/
def genPginv (x : Gen) (s : State) : State := s.runFold x.theSig (pginvThread x)

/-! ### Contexts -/

/-- A context as the host creates it (R304). -/
def newContext (n : Nat) (job : Word) (p : FnPage) : Context :=
  { num := n, suspended := false, destroying := false, jobid := job, root := 0, handler := 0, route := 0, stkbase := 0,
    stkmax := 0, repbase := p.repbase, repsize := p.repsize, rephead := 0, reptail := 0, repctr := List.replicate 8 0,
    nctrs := [], once := [], stats := [], held := [], open_ := [], watch := [] }

/-- CTX_CREATE (R304, R325): only the physical function commands. -/
def opCtxCreate (fn ctx : Nat) (job : Word) (s : State) : State :=
  if fn ≠ 0 ∨ (s.ctx? ctx).isSome then s
  else match s.plat.pages.find? (·.fn == ctx) with
  | none => s
  | some p =>
    if s.ctxs.any (·.jobid == job) ∨ isPow2In 64 65536 p.repsize.toNat = false ∨ p.repbase.toNat % 64 ≠ 0 then s.intBit 0 1
    else { s with ctxs := s.ctxs ++ [newContext ctx job p] }

/-- CTX_SUSPEND and CTX_RESUME (R321, R325). -/
def opCtxSuspend (fn ctx : Nat) (s : State) : State := if fn ≠ 0 then s else s.suspend ctx
def opCtxResume (fn ctx : Nat) (s : State) : State := if fn ≠ 0 then s else s.resume ctx

/-- The records that a destruction writes for a graph (R294, R296, R321): status 3 for every launch that runs and every node
then RUNNING, then the graph's. A record that cannot be written is left out, and one already on its way stands. -/
def State.destroyGraph (s : State) (x : Queue) (g : Graph) : State :=
  let now := s.plat.time
  let s := (g.nodes.filter (fun n => n.st == .running && !n.workDone)).foldl (fun s n => match n.lid.bind s.launch? with
    | some l =>
      if l.rc.done = 0 ∨ l.out then s
      else (s.writeRecord x.ctx x.die l.rc.done (doneRecord 3 n.idx n.ready n.start (n.finish.getD now) l.ended l.halted)).1
    | none => s) s
  let runs (n : Node) : Bool := n.st == .running && n.out.isNone
  let s := (g.nodes.filter (fun n => runs n && n.doneVa != 0 && n.doneVa.toNat % 64 == 0)).foldl (fun s n =>
    let l := n.lid.bind s.launch?
    (s.writeRecord x.ctx x.die n.doneVa (doneRecord 3 n.idx n.ready n.start (n.finish.getD now) ((l.map (·.ended)).getD 0)
      ((l.map (·.halted)).getD 0))).1) s
  let status := if g.nodes.any runs then max 3 g.finalStatus else g.finalStatus
  let start := g.start.getD now
  let s := if g.doneVa = 0 ∨ g.out then s
    else (s.writeRecord x.ctx x.die g.doneVa (doneRecord status graphNode g.ready start now 0 0)).1
  s.graphGone x.die x.q

/-- A contribution of a context that is destroyed stands, since its round is not this context's alone, and completes no number
(R321; DESIGN CHOICE, notes/assumptions/77.md). -/
def Contrib.orphan (c : Contrib) : Contrib := { c with ctx := noCtx, bid := none, lid := none, ctr := none, num := 0, entry := none }

/-- CTX_DESTROY (R321, R325): operations are abandoned, posted receives cancelled, graphs ended; then the context is gone. -/
def opCtxDestroy (fn ctx : Nat) (s : State) : State :=
  if fn ≠ 0 then s
  else match s.ctx? ctx with
  | none => s
  | some c =>
    let s := s.modCtx ctx (fun c => { c with destroying := true })
    let mine := (s.blocks.filter (·.ctx == ctx)).map (·.bid)
    let s := mine.foldl State.drainBlock s
    let s := (s.fab.recvs.filter (fun r => r.ctx == ctx && r.st == .posted)).foldl State.cancelRecv s
    let s := s.queues.foldl (fun s x => if x.ctx = ctx then (match x.graph with
      | some g => s.destroyGraph x g
      | none => s) else s) s
    let s := mine.foldl State.leaveSets s
    let dead (bid : Nat) : Bool := mine.contains bid
    let s := s.modFab fun f => { f with
      msgs := f.msgs.filter (fun m => m.ctx != ctx && !(m.job == c.jobid && m.st == .unexpected)),
      recvs := f.recvs.filter (·.ctx != ctx), entries := f.entries.filter (·.ctx != ctx),
      advances := f.advances.filter (·.ctx != ctx), contribs := f.contribs.map (fun k => if k.ctx = ctx then k.orphan else k),
      reds := f.reds.filter (fun r => r.ctx != ctx || r.group.isSome) }
    { s with
      blocks := s.blocks.filter (·.ctx != ctx), launches := s.launches.filter (·.ctx != ctx),
      clusters := s.clusters.filter (fun k => s.blocks.any (fun b => b.cid == k.cid && b.ctx != ctx)),
      copies := s.copies.filter (·.ctx != ctx), tlb := s.tlb.filter (·.ctx != ctx),
      mats := s.mats.map (fun u => { u with queue := u.queue.filter (fun o => !(dead o.bid)),
                                            waiting := u.waiting.filter (fun w => !(dead w.bid)) }),
      saveQ := s.saveQ.filter (fun e => !(dead e.2)), ctxs := s.ctxs.filter (·.num != ctx) }

/-! ### The watchdog -/

/-- Whether bytes of memory belong to the tensor that a posted receive lands in (R281). -/
def Recv.inTensor (r : Recv) (va : DWord) (n : Nat) : Bool :=
  match r.lay with
  | none => false
  | some l => (List.range (boxRows l.win)).any fun row => (List.range (l.win.headD 0)).any fun i =>
    match l.coords r.origin (i :: rowIx l.win.tail row) with
    | some cs => let e := l.elem cs
      decide (e.va < va.toNat + n ∧ va.toNat < e.va + e.span (fmtWidth l.fmt))
    | none => false

/-- Whether a result comes from a stream of a tile (R174). -/
def ResultKind.streams (k : ResultKind) (h : Nat) : Bool :=
  match k with
  | .stream g _ _ _ _ _ _ => g == h
  | _ => false

/-- Whether a result is of an access to memory outside the die (R322). -/
def ResultKind.far (k : ResultKind) : Bool := k == .load true || k == .away

/-- Whether a thread waits on a source outside its die (R322): an outstanding load or atomic, host or peer memory, a network
counter, the tile or the tensor of a receive that any block of its context has posted, `idle`, or the host. -/
def State.waitsOutside (s : State) (b : Block) (t : Thread) : Bool :=
  let rs := s.fab.recvs.filter (·.ctx == b.ctx)
  let target (h : Nat) : Bool := rs.any (fun r => r.bid == b.bid && r.tile == some h)
  let streams : Bool := rs.any (fun r => r.bid == b.bid && r.tile.any (fun h => t.results.any (fun x => x.kind.streams h)))
  t.results.any (·.kind.far) ||
    (match t.park with
     | .waita w => s.farPa b.die w.pa || rs.any (fun r => r.inTensor w.va (widthOf w.b64))
     | .marker => streams
     | .retry .results => streams
     | .handler _ => streams
     | .retry (.lineHere _) => true
     | .retry (.answered _) => true
     | .retry (.stackReady _) => true
     | .retry (.counter r _) => r.net
     | .retry (.tileNot h _) => target h
     | .retry (.fillRoom h) => target h
     | .idle _ => true
     | .host _ _ => true
     | _ => false)

/-- Whether the watchdog of a context counts on a die (R319, R322). -/
def State.watchCounts (s : State) (c : Context) (die : Nat) : Bool :=
  let bs := s.blocks.filter (fun b => b.ctx == c.num && b.die == die)
  bs.any (·.status == .resident) && !(bs.any (·.status == .stopped .drain)) &&
    !(bs.any (fun b => b.status == .resident && b.threads.any (fun t => !t.exited && s.waitsOutside b t)))

/-- The clock of a die's half-die 0 (R322). -/
def State.dieClock (s : State) (die : Nat) : Nat := s.plat.clocks.getD (2 * die) 0

/-- The watchdogs of a context after a step (R322): where one counts it keeps its start, else it is held at 0. -/
def State.watchList (s : State) (c : Context) : List Watch :=
  (List.range 8).filterMap fun d =>
    if s.watchCounts c d then some ((c.watch.find? (·.die == d)).getD { die := d, since := s.dieClock d }) else none

/-- Every watchdog after a step. -/
def State.watchAll (s : State) : State := { s with ctxs := s.ctxs.map (fun c => { c with watch := s.watchList c }) }

/-- Activity of a context on a die starts its count again (R322). -/
def State.active (s : State) (ctx die : Nat) : State :=
  s.modCtx ctx (fun c => { c with watch := c.watch.filter (·.die != die) })

/-- Clocks at which the watchdog fires (R322). -/
def watchLimit : Nat := 2 ^ 32

/-- WATCHDOG_EXPIRE (R322). -/
def opWatchdogExpire (ctx die : Nat) (s : State) : State :=
  match s.ctx? ctx with
  | none => s
  | some c => match c.watch.find? (·.die == die) with
    | none => s
    | some w =>
      if s.watchCounts c die ∧ w.since + watchLimit ≤ s.dieClock die then
        ((s.active ctx die).report ctx (Report.plain 3 .watchdog 0 die 0 (.watchdog die))).suspend ctx
      else s

end Sys2Proof.Machine
end

