-- ==== Sys2Proof/Machine/Platform.lean ====
section
/-! DEFINITION. The host's function pages, queues, carve records and aperture (R323 to R328), time (R329), power (R331,
R332), the boot ROM and attestation (R333, R334), errors and spares (R335 to R338), readiness and reset (R339). -/

namespace Sys2Proof.Machine

open Sys2Proof

/-! ### Function pages -/

def State.page? (s : State) (fn : Nat) : Option FnPage := s.plat.pages.find? (·.fn == fn)
def State.modPage (s : State) (fn : Nat) (f : FnPage → FnPage) : State :=
  s.modPlat fun p => { p with pages := p.pages.map (fun g => if g.fn = fn then f g else g) }

/-- A readiness bit, and setting one, which a function that failed for good never does again (R339). -/
def State.rdy (s : State) (n : Nat) : Bool := s.plat.rdymap.toNat.testBit n
def State.setRdy (s : State) (n : Nat) : State :=
  if s.plat.dead.contains n then s else s.modPlat fun p => { p with rdymap := p.rdymap ||| BitVec.ofNat 64 (2 ^ n) }

/-- WAKE (R315, R324). -/
def opWake (fn : Nat) (s : State) : State := s.wakeIdle fn

/-- INTSTAT_CLEAR (R324). -/
def opIntstatClear (fn : Nat) (val : DWord) (s : State) : State :=
  s.modPage fn (fun p => { p with intstat := p.intstat &&& ~~~val })

/-- SVCREQ_CLEAR (R324, R338): on the physical function only. -/
def opSvcreqClear (fn : Nat) (val : DWord) (s : State) : State :=
  if fn = 0 then s.modPlat (fun p => { p with svcreq := p.svcreq &&& ~~~val }) else s

/-- Bytes of the aperture (R323). -/
def apertureSize : Nat := 2 ^ 34

/-- WINVA_WRITE (R324). -/
def opWinvaWrite (fn : Nat) (val : DWord) (s : State) : State :=
  if val.toNat % apertureSize = 0 ∧ val.toNat < 2 ^ 53 then s.modPage fn (fun p => { p with winva := val }) else s.intBit fn 1

/-- ONCECLR (R303, R324): the set of one compute die, or of all. -/
def opOnceclr (fn : Nat) (die : Option Nat) (s : State) : State :=
  s.modCtx fn (fun c => { c with once := c.once.filter (fun o => match die with
    | some d => o.ep != s.endpoint d
    | none => !(s.isLocal o.ep)) })

/-- The host's write of a control register of a created context (R303, R305, R324). -/
def State.hostCtl (s : State) (c : Context) (num : Nat) (die : Option Nat) (v : DWord) : State :=
  let v : DWord := if ctl64 num then v else (loWord v).setWidth 64
  if num ∉ [16, 18, 19, 20, 21, 24, 26, 27, 28] then s
  else if ctlOk c num v.toNat = false then s.intBit c.num 1
  else if num = 27 then s.repact c.num (bitsAt v.toNat 0 16) (v.toNat.testBit 16)
  else match die with
  | some d => s.ctlSet c.num d num v
  | none =>
    if num = 26 ∨ num = 28 then (List.range 8).foldl (fun s d => s.ctlSet c.num d num v) s else s.ctlSet c.num 0 num v

/-- CTL_REG_WRITE (R303, R305, R324): registers 17, 22 and 23 only while the context is not created, the package's `$winbase`
always, and of one die only `$repctr` and `$onceclr`. -/
def opCtlRegWrite (fn num : Nat) (die : Option Nat) (val : DWord) (s : State) : State :=
  if die.any (fun d => 8 ≤ d || (num != 26 && num != 28)) then s
  else if num = 32 then
    (if winbaseOk val.toNat then s.modPlat (fun p => { p with winbase := val }) else s.intBit fn 1)
  else match s.ctx? fn with
  | some c => s.hostCtl c num die val
  | none =>
    match num with
    | 17 => s.modPage fn (fun p => { p with jobid := loWord val })
    | 22 => s.modPage fn (fun p => { p with repbase := val })
    | 23 => s.modPage fn (fun p => { p with repsize := loWord val })
    | _ => s

/-! ### Queues and carve records -/

/-- DOORBELL (R290, R327, R339). -/
def opDoorbell (fn die q : Nat) (tail : Word) (s : State) : State :=
  match s.queue? die q with
  | some x =>
    if x.ctx ≠ fn then s
    else if x.enabled = false ∨ s.frontUp die = false ∨ x.entries < (tail - x.head).toNat then s.intBit fn 1
    else s.modQueue die q (fun x => { x with tail := tail })
  | none => s.intBit fn 1

/-- The fields that the enabling write checks (R327). -/
def queueDescOk (d : List Byte) : Bool :=
  isPow2In 16 65536 (field d 8 4) && field d 12 1 ≤ 63 && field d 13 1 ≤ 3 && field d 0 8 % 32 == 0 && field d 0 8 < 2 ^ 53 &&
    field d 14 1 == 1 && zeroAt d 15 17

/-- A descriptor with its enable bit cleared. -/
def descOff (d : List Byte) : List Byte := modAt d 14 (fun b => b &&& 0xFE)

/-- QUEUE_DESC_WRITE (R327): by the physical function. A write that clears enable waits for QUEUE_DISABLE. -/
def opQueueDescWrite (fn die q : Nat) (desc : List Byte) (s : State) : State :=
  if fn ≠ 0 ∨ 8 ≤ die ∨ 64 ≤ q ∨ desc.length ≠ 32 then s
  else
    let on := (field desc 14 1).testBit 0
    let x := (s.queue? die q).getD
      { die := die, q := q, desc := List.replicate 32 0, enabled := false, disabling := none, head := 0, tail := 0, graph := none }
    let put (s : State) (y : Queue) : State :=
      { s with queues := s.queues.filter (fun z => !(z.die == die && z.q == q)) ++ [y] }
    if x.enabled then (if on then s else put s { x with disabling := some desc })
    else if on = false then put s { x with desc := desc }
    else if queueDescOk desc then put s { x with desc := desc, enabled := true }
    else put (s.intBit 0 1) { x with desc := descOff desc }

/-- QUEUE_DISABLE (R327): the clearing write takes effect once no graph runs. -/
def opQueueDisable (die q : Nat) (s : State) : State :=
  match s.queue? die q with
  | some x => match x.disabling, x.graph with
    | some d, none => s.modQueue die q (fun x => { x with desc := d, enabled := false, disabling := none })
    | _, _ => s
  | none => s

/-- Bytes of a die's HBM (R27). -/
def dieBytes : Nat := 2 ^ 37

/-- A carve record that is accepted (R328). -/
def parseCarve (die : Nat) (r : List Byte) : Option Carve :=
  let f (k : Nat) : Nat := field r (8 * k) 8
  let spans := (List.range 3).map (fun k => (f (2 * k), f (2 * k) + f (2 * k + 1)))
  let apart (a b : Nat × Nat) : Bool := a.1 == a.2 || b.1 == b.2 || a.2 ≤ b.1 || b.2 ≤ a.1
  if r.length = 64 ∧ (List.range 6).all (fun k => f k % 2 ^ 21 == 0) ∧ f 1 ≤ 2 ^ 30 ∧ spans.all (fun x => x.2 ≤ dieBytes) ∧
      field r 48 1 = 1 ∧ zeroAt r 49 15 ∧ spans.Pairwise (fun a b => apart a b = true) then
    some { die := die, ubufBase := f 0, ubufSize := f 1, saveBase := f 2, saveSize := f 3, spawnBase := f 4, spawnSize := f 5 }
  else none

/-- A carve record with its valid bit cleared. -/
def carveOff (r : List Byte) : List Byte := modAt r 48 (fun b => b &&& 0xFE)

/-- Bytes written into a record at an offset. -/
def putBytes (r : List Byte) (off : Nat) (bs : List Byte) : List Byte := r.take off ++ bs ++ r.drop (off + bs.length)

/-- CARVE_WRITE (R328): bytes of the record's register, only while the die's front end is not ready. A write that leaves
valid set is accepted whole, or leaves valid clear; while valid is clear no record is in force. -/
def opCarveWrite (fn die off : Nat) (bytes : List Byte) (s : State) : State :=
  if fn ≠ 0 ∨ 8 ≤ die ∨ s.frontUp die ∨ 64 < off + bytes.length then s
  else
    let r := putBytes (s.plat.carveRegs.getD die []) off bytes
    let rest := s.plat.carves.filter (·.die != die)
    let c := parseCarve die r
    s.modPlat fun p => { p with
      carveRegs := setAt p.carveRegs die (if c.isSome then r else carveOff r), carves := rest ++ c.toList }

/-! ### The aperture -/

/-- Bytes of the boot staging area (R333). -/
def stageSize : Nat := 2 ^ 26

/-- Whether an aperture access goes to the staging area (R333): the physical function's, until the firmware runs. -/
def State.staged (s : State) (fn off : Nat) : Bool := fn == 0 && off < stageSize && !(s.rdy 1)

/-- The pieces of an aperture access: one, when it is naturally aligned, else its bytes. -/
def aperturePieces (va : DWord) (off size : Nat) : List (DWord × Nat) :=
  if 0 < size ∧ size ≤ 8 ∧ off % size = 0 ∧ 8 % size = 0 then [(va, size)] else pieces va 1 size

/-- All ones of a size. -/
def onesOf (size : Nat) : List Byte := List.replicate size 0xFF

/-- The die at whose walkers the host's accesses are translated. -/
def hostDie : Nat := 0

/-- What the host has read. -/
def State.answerHost (s : State) (bs : List Byte) : State := s.modPlat fun p => { p with hostRead := bs }

/-- APERTURE_READ (R326): what it returns stands in `hostRead`. One that fails sets neither accessed nor dirty bits (R188). -/
def opApertureRead (fn off size : Nat) (s : State) : State :=
  if s.staged fn off then
    s.answerHost ((List.range size).map (fun i => cellGet s.plat.boot.stage (off + i)))
  else
    let fail : State := (s.intBit fn 2).answerHost (onesOf size)
    match s.page? fn, s.ctx? fn with
    | some g, some c =>
      if apertureSize < off + size then fail
      else (match s.readPieces c hostDie (aperturePieces (g.winva + BitVec.ofNat 64 off) off size) with
        | (_, .inl f) => if f.f.isHold then s.askFor hostDie f.f else fail
        | (s1, .inr bs) => s1.answerHost bs)
    | _, _ => fail

/-- Reach the pieces of an aperture write: a fault, or the physical addresses of the bytes. -/
def State.aperturePas (s : State) (c : Context) : List (DWord × Nat) → State × (MemFault ⊕ List (List Nat))
  | [] => (s, .inr [])
  | (va, n) :: ps =>
    match s.reachAt c (engineSite hostDie) va accStore with
    | (s1, .inl f) => (s1, .inl f)
    | (s1, .inr p) => match s1.aperturePas c ps with
      | (s2, .inl f) => (s2, .inl f)
      | (s2, .inr rest) => (s2, .inr ((List.range n).map (fun i => targets s1 (p.pa + i)) ++ rest))

/-- APERTURE_WRITE (R326). One that fails writes nothing and sets neither accessed nor dirty bits (R188). -/
def opApertureWrite (fn off : Nat) (bs : List Byte) (s : State) : State :=
  let size := bs.length
  if s.staged fn off then
    s.modPlat fun p => { p with boot := { p.boot with
      stage := bs.zipIdx.foldl (fun m (b, i) => cellSet m (off + i) b) p.boot.stage } }
  else match s.page? fn, s.ctx? fn with
  | some g, some c =>
    if apertureSize < off + size then s.intBit fn 2
    else (match s.aperturePas c (aperturePieces (g.winva + BitVec.ofNat 64 off) off size) with
      | (_, .inl f) => if f.isHold then s.askFor hostDie f else s.intBit fn 2
      | (s1, .inr pas) => s1.engineStore hostDie .engine ((pas.zip bs).flatMap (fun (ps, b) => ps.map (fun pa =>
          { addr := pa, mask := 0xFF, val := b }))))
  | _, _ => s.intBit fn 2

/-! ### Time -/

/-- Offsets from here on are stepped (R329), in nanoseconds. -/
def stepOffset : Int := 1000000000

/-- PTP_MESSAGE (R329): a positive offset of 1 s or more is stepped at once, any other is left to slewing. -/
def opPtpMessage (offset : Int) (s : State) : State :=
  (s.setRdy 2).modPlat fun p =>
    if stepOffset ≤ offset then { p with time := p.time + offset.toNat, slewLeft := 0 } else { p with slewLeft := offset }

/-! ### Power -/

/-- Compute islands (R330). -/
def computeIslands : Nat := 16

/-- Change an island. -/
def State.modIsland (s : State) (k : Nat) (f : Island → Island) : State :=
  s.modPlat fun p => { p with islands := modAt p.islands k f }

/-- Whether a limit holds for an island (R332). -/
def State.limited (s : State) (k : Nat) : Bool := s.plat.powerLimit || ((s.plat.islands[k]?).map (·.limited)).getD false

/-- A clock that R331 permits. -/
def mhzOk (n : Nat) : Bool := 600 ≤ n && n ≤ 1000 && n % 25 == 0

/-- ISLCTL_WRITE (R331, R332): the reserved and the read-only bits of the value are ignored (R5). -/
def opIslctlWrite (fn island : Nat) (val : DWord) (s : State) : State :=
  let hi := bitsAt val.toNat 16 16
  let lo := bitsAt val.toNat 0 16
  if fn ≠ 0 ∨ computeIslands ≤ island ∨ mhzOk hi = false ∨ mhzOk lo = false ∨ hi < lo then s
  else s.modIsland island (fun i =>
    { i with max := hi, min := lo, cur := if s.limited island then max lo (min hi i.cur) else hi })

/-- Whether every compute island runs at its floor. -/
def State.allAtMin (s : State) : Bool := (s.plat.islands.take computeIslands).all (fun i => i.cur ≤ i.min)

/-- POWER_SAMPLE (R332): currents in amperes, the microseconds for which the core rails have been above 15 kA, the averages
over 1 ms, what each compute island draws, and the islands with a junction above 105 °C, which alone are limited for that
until the next sample (notes/assumptions/45.md). -/
def opPowerSample (coreAmps above15us : Nat) (avg : PowerAvg) (isl : IslandSample) (s : State) : State :=
  let lim := decide (15000 < avg.amps ∨ 10000 < avg.watts)
  let floor := (lim || isl.hot != []) && s.allAtMin
  let s := if isl.hot.any (fun k => (s.plat.islands[k]?).any (fun i => !i.limited)) then s.svc 7 else s
  s.modPlat fun p => { p with
    powerLimit := lim,
    islands := p.islands.zipIdx.map (fun (i, k) => { i with limited := isl.hot.contains k, draw := isl.draws.getD k 0 }),
    throttled := floor || decide (20000 < coreAmps ∨ (15000 < coreAmps ∧ 200 ≤ above15us)) || (p.throttled && decide (15000 ≤ coreAmps)) }

/-- Whether an island's clock can still fall, and whether no other such island draws more (R332). -/
def Island.canFall (i : Island) : Bool := i.min + 25 ≤ i.cur
def State.drawsMost (s : State) (k : Nat) : Bool :=
  (s.plat.islands[k]?).any (fun i => i.canFall &&
    (s.plat.islands.take computeIslands).all (fun o => !o.canFall || o.draw ≤ i.draw))

/-- CLOCK_STEP_DOWN and CLOCK_STEP_UP (R332), by 25 MHz: down for the islands that draw most under a limit of the package,
and for an island whose junction is too hot. -/
def opClockStepDown (island : Nat) (s : State) : State :=
  let hot := (s.plat.islands[island]?).any (·.limited)
  if island < computeIslands ∧ (hot ∨ (s.plat.powerLimit ∧ s.drawsMost island)) then
    s.modIsland island (fun i => if i.canFall then { i with cur := i.cur - 25 } else i)
  else s
def opClockStepUp (island : Nat) (s : State) : State :=
  if island < computeIslands ∧ s.limited island = false then
    s.modIsland island (fun i => if i.cur + 25 ≤ i.max then { i with cur := i.cur + 25 } else i)
  else s

/-- THERMAL_SHUTDOWN (R332): the whole package stops. -/
def opThermalShutdown (_island : Nat) (s : State) : State := s.modPlat fun p => { p with stopped := true }

/-- JUNCTION_ABOVE_105 (R332, R338). -/
def opJunctionAbove105 (island : Nat) (s : State) : State := (s.modIsland island (fun i => { i with limited := true })).svc 7

/-! ### Boot and attestation -/

/-- The image in the staging area. -/
def Boot.bytes (b : Boot) (at_ n : Nat) : List Byte := (List.range n).map (fun i => cellGet b.stage (at_ + i))

/-- The head of an image with its signature taken as zero (R333). -/
def imageHead (h : List Byte) : List Byte := h.take 532 ++ List.replicate 512 0 ++ h.drop 1044

/-- The first check of R333 that an image fails; 0 when it passes. -/
def bootCheck (f : Fuses) (h : List Byte) (body : List Byte) : Nat :=
  if field h 0 4 ≠ 0x39574644 ∨ 2 ^ 26 - 2048 < field h 4 4 ∨ zeroAt h 12 4 = false ∨ zeroAt h 1044 1004 = false then 1
  else if sha512 ((h.drop 16).take 516) ≠ f.vendorDigest then 2
  else if rsaOk (fromBe ((h.drop 16).take 512)) (field h 528 4) (fromBe ((h.drop 532).take 512)) (imageHead h ++ body) = false then 3
  else if field h 8 4 < f.minVersion then 4
  else 0

/-- The running firmware asks for a fused minimum version, which never falls (R333). -/
def State.askMinVersion (s : State) (ask : Nat) : State :=
  if s.rdy 1 then s.modPlat fun p => { p with fuses := { p.fuses with minVersion := max p.fuses.minVersion (ask % 2 ^ 32) } } else s

/-- BOOT_VERIFY (R333): the write of 1 to the boot register, while the firmware does not run. Firmware that failed for good
does not run again before reset (R339). -/
def opBootVerify (s : State) : State :=
  if s.rdy 1 ∨ s.plat.dead.contains 1 then s
  else
    let b := s.plat.boot
    let h := b.bytes 0 2048
    let body := if 2 ^ 26 - 2048 < field h 4 4 then [] else b.bytes 2048 (field h 4 4)
    match bootCheck s.plat.fuses h body with
    | 0 => (s.setRdy 1).modPlat fun p => { p with boot :=
        { p.boot with running := true, imageDigest := sha512 (h ++ body), version := field h 8 4 } }
    | n => s.modPlat fun p => { p with boot := { p.boot with bootReg := n } }

/-- ATTEST_REQUEST (R334): ignored while a report is being made; the running firmware answers. -/
def opAttestRequest (nonce : List Byte) (s : State) : State :=
  if s.plat.boot.running = false ∨ s.plat.boot.attest = 1 ∨ nonce.length ≠ 64 then s
  else s.modPlat fun p => { p with boot := { p.boot with attest := 1, nonce := nonce } }

/-- The bytes of an attestation report that its signature covers (R334). -/
def attestBody (p : Platform) : List Byte :=
  p.boot.nonce ++ p.boot.imageDigest ++ toBytes 4 p.boot.version ++ toBytes 4 p.fuses.minVersion ++ toBytes 8 p.svcreq.toNat

/-- ATTEST_COMPLETE (R334): the signature is 512 bytes. -/
def opAttestComplete (s : State) : State :=
  if s.plat.boot.attest ≠ 1 then s
  else s.modPlat fun p => { p with boot := { p.boot with
    attest := 2, report := attestBody p ++ toBytes 512 (Config.attestSignature (attestBody p) p.boot.requests), requests := p.boot.requests + 1 } }

/-! ### Errors and spares -/

/-- Change the record of spares. -/
def State.modSpares (s : State) (f : Spares → Spares) : State := s.modPlat fun p => { p with spares := f p.spares }

/-- The errors of a line's HBM row (R338). -/
def State.noteRow (s : State) (line : Nat) (corrected : Bool) : State :=
  let row := Config.rowOf line
  let same (r : RowErrs) : Bool := r.stack == stackAt line && r.bank == row.1 && r.row == row.2
  s.modSpares fun x =>
    let r := (x.rowErrs.find? same).getD { stack := stackAt line, bank := row.1, row := row.2, n := 0, bad := false }
    { x with rowErrs := { r with n := if corrected then r.n + 1 else r.n, bad := r.bad || !corrected } ::
        x.rowErrs.filter (fun o => !(same o)) }

/-- UNCORRECTABLE_ERROR (R335, R338): the line is marked, and service is asked for. -/
def State.badLine (s : State) (line : Nat) : State := (({ s with mem := s.mem.mark line }).noteRow line false).svc 0

/-- A corrected error is counted (R335). -/
def State.countError (s : State) : State := s.modPlat fun p => { p with corrected := p.corrected + 1 }

/-- A corrected error of a line. -/
def State.lineCorrected (s : State) (line : Nat) : State := s.countError.noteRow line true

/-- SCRUB (R335): what the daily read of a line finds. -/
def opScrub (line : Nat) (error : Option Bool) (s : State) : State :=
  match error with
  | none => s
  | some true => s.lineCorrected line
  | some false => s.badLine line

/-- Nanoseconds of a day. -/
def dayNs : Nat := 86400000000000

/-- The corrected errors of a core within a day (R338; notes/assumptions/42.md). -/
def State.coreErrs (s : State) (die core : Nat) : Nat :=
  match s.plat.spares.coreErrs.find? (fun e => e.die == die && e.core == core) with
  | some e => if s.plat.time < e.since + dayNs then e.n else 0
  | none => 0
def State.coreCorrected (s : State) (die core : Nat) : State :=
  s.modSpares fun x =>
    let old := x.coreErrs.find? (fun e => e.die == die && e.core == core && s.plat.time < e.since + dayNs)
    let e : CoreErrs := old.getD { die := die, core := core, n := 0, since := s.plat.time }
    { x with coreErrs := { e with n := e.n + 1 } :: x.coreErrs.filter (fun o => !(o.die == die && o.core == core)) }

/-- CORE_FAIL (R14, R338): for an uncorrectable error in its logic, or more than 1,000 corrected errors in a day, the core
takes no more blocks, and BLOCK_SAVE drains it. An uncorrectable error asks for service also where the core drains already. -/
def opCoreFail (die core : Nat) (logic : Bool) (s : State) : State :=
  let x := s.plat.spares
  if 8 ≤ die ∨ 48 ≤ core ∨ x.lost.contains (die, core) then s
  else
    let s1 := if x.draining.contains (die, core) ∨ (logic = false ∧ s.coreErrs die core ≤ 1000) then s
      else s.modSpares fun x => { x with draining := x.draining ++ [(die, core)] }
    if logic then s1.svc 0 else s1

/-- The core whose arrays an error lies in. -/
def State.siteCore (s : State) (site : ErrorSite) : Option (Nat × Nat) :=
  let ofBlock (bid : Nat) : Option (Nat × Nat) := (s.block? bid).map (fun b => (b.die, b.core))
  match site with
  | .register bid .. => ofBlock bid
  | .kRegister bid .. => ofBlock bid
  | .pRegister bid .. => ofBlock bid
  | .wRegister bid .. => ofBlock bid
  | .tileLine bid .. => ofBlock bid
  | .core d c => some (d, c)
  | .memLine _ => none
  | .other => none

/-- A thread's register is marked: v by its number, k from 0xC0, p from 0xE0 (R335). -/
def Thread.markReg (t : Thread) (r : Nat) : Thread :=
  if t.badRegs.contains r then t else { t with badRegs := r :: t.badRegs }

/-- A w register of a thread's warp is marked (R335). -/
def Block.markW (b : Block) (ti w : Nat) : Block :=
  match b.threads[ti]? with
  | some t => { b with warps := b.warps.map (fun x => if x.has t ∧ x.badW.contains w = false then { x with badW := w :: x.badW } else x) }
  | none => b

/-- What an uncorrectable error marks (R335); in a core's logic it fails the core (R338). -/
def State.markSite (s : State) (site : ErrorSite) : State :=
  match site with
  | .memLine l => s.badLine l
  | .register bid ti v => (s.modThread bid ti (fun t => if v < t.v.length then t.markReg v else t)).svc 0
  | .kRegister bid ti k => (s.modThread bid ti (fun t => if k < 16 then t.markReg (0xC0 + k) else t)).svc 0
  | .pRegister bid ti p => (s.modThread bid ti (fun t => if p < 8 then t.markReg (0xE0 + p) else t)).svc 0
  | .wRegister bid ti w => (s.modBlock bid (fun b => if w < 64 then b.markW ti w else b)).svc 0
  | .tileLine bid h l => (s.modTile bid h (fun t => t.modLine l (fun x => { x with marked := true }))).svc 0
  | .core d c => opCoreFail d c true s
  | .other => s.svc 0

/-- SOFT_ERROR (R335): corrected and counted, of a core or of a row also there (R338), or marked. -/
def opSoftError (site : ErrorSite) (corrected : Bool) (s : State) : State :=
  if corrected = false then s.markSite site
  else match site, s.siteCore site with
  | .memLine l, _ => s.lineCorrected l
  | _, some c => s.countError.coreCorrected c.1 c.2
  | _, none => s.countError

/-- Whether a core holds no block that stands on it (R14, R319). -/
def State.drained (s : State) (die core : Nat) : Bool :=
  !(s.blocks.any (fun b => b.die == die && b.core == core && (match b.status with
    | .resident => true
    | .stopped _ => true
    | _ => false)))

/-- SPARE_ENGAGE (R13, R14, R338): the half-die's spare takes a drained core's number, with no error counted yet; with the
spare in use the core is lost. Of two drained cores of a half-die the one that failed first takes the spare: R13 names no order
(DESIGN CHOICE, notes/assumptions/75.md). -/
def opSpareEngage (die half : Nat) (s : State) : State :=
  match s.plat.spares.draining.find? (fun c => c.1 == die && c.2 / 24 == half && s.drained c.1 c.2) with
  | none => s
  | some c =>
    if s.plat.spares.used.contains (die, half) then
      (s.modSpares fun x => { x with draining := x.draining.filter (· != c), lost := x.lost ++ [c] }).svc 2
    else
      (s.modSpares fun x => { x with draining := x.draining.filter (· != c), used := x.used ++ [(die, half)],
                                     coreErrs := x.coreErrs.filter (fun e => !(e.die == c.1 && e.core == c.2)) }).svc 1

/-- Whether a row's errors ask for a spare row: two corrected ones, or one uncorrectable (R338). -/
def RowErrs.asks (r : RowErrs) : Bool := r.bad || 2 ≤ r.n

/-- Spare rows of a bank in use (R338). -/
def Spares.rowsIn (x : Spares) (stack bank : Nat) : Nat := (x.rowsUsed.filter (· == (stack, bank))).length

/-- HBM_ROW_REMAP (R338): of a row that asks for it, while its bank has a spare row left. Data and marks are copied, so only
the spare rows fall. -/
def opHbmRowRemap (stack bank row : Nat) (s : State) : State :=
  let x := s.plat.spares
  let this (r : RowErrs) : Bool := r.stack == stack && r.bank == bank && r.row == row
  if x.rowErrs.any (fun r => this r && r.asks) = false ∨ Config.spareRows ≤ x.rowsIn stack bank then s
  else
    let s := s.modSpares fun x =>
      { x with rowsUsed := x.rowsUsed ++ [(stack, bank)], rowErrs := x.rowErrs.filter (fun r => !(this r)) }
    if 9 * Config.spareRows < 10 * s.plat.spares.rowsIn stack bank then s.svc 3 else s

/-- CHANNEL_FAIL (R338): the stack's spare channel takes over, or the memory behind the channel reads as marked. -/
def opChannelFail (stack channel : Nat) (s : State) : State :=
  if s.plat.spares.channelsUsed.contains stack then
    ({ s with mem := { s.mem with lost := s.mem.lost ++ [(16 * s.plat.fuses.pkg + stack, channel)] } }).svc 4
  else (s.modSpares fun x => { x with channelsUsed := x.channelsUsed ++ [stack] }).svc 4

/-! ### Readiness and reset -/

/-- A function fails for good (R339): its bit is cleared, never to be set again before reset, and service is asked for. -/
def State.functionFails (s : State) (bit : Nat) : State :=
  (s.modPlat fun p => { p with
    rdymap := p.rdymap &&& ~~~(BitVec.ofNat 64 (2 ^ bit)), dead := bit :: p.dead,
    boot := if bit = 1 then { p.boot with running := false } else p.boot }).svc (Config.failBit bit % 8)

/-- A function finishes training (R339): dies, stacks, front ends after their carve record, Skimmers, and the fabric. -/
def State.functionReady (s : State) (bit : Nat) : State :=
  if 3 ≤ bit ∧ bit < 27 then s.setRdy bit
  else if 27 ≤ bit ∧ bit < 35 then (if s.plat.carves.any (·.die == bit - 27) then s.setRdy bit else s)
  else if 35 ≤ bit ∧ bit < 43 then s.setRdy bit
  else if bit = 43 ∧ s.plat.ports.any Port.routes then s.setRdy bit
  else s

/-- FUNCTION_READY (R339): a function is ready, or fails for good; or the running firmware asks for a fused minimum version
(R333; notes/assumptions/40.md). -/
def opFunctionReady (w : FnWord) (s : State) : State :=
  match w with
  | .ready bit => s.functionReady bit
  | .failed bit => if bit < 44 ∧ s.plat.dead.contains bit = false then s.functionFails bit else s
  | .minVersion ask => s.askMinVersion ask

/-- RESET (R332, R333, R339): all but the fuses, the spares and the cores and channels that have failed, and what the host has
read; the errors of a day are counted anew, as the time base restarts (notes/assumptions/46.md). -/
def opReset (s : State) : State :=
  { State.reset with
    mem := { State.reset.mem with lost := s.mem.lost }
    plat := { Platform.reset with fuses := s.plat.fuses, spares := { s.plat.spares with coreErrs := [] }, hostRead := s.plat.hostRead },
    agenda := s.agenda, nextId := s.nextId, tick := s.tick }

end Sys2Proof.Machine
end

