-- ==== Sys2Proof/Machine/HostView.lean ====
section
/-! DEFINITION. What the host reads: the registers of its function page (R324), and the read-back window (R337). Nothing here
changes the machine but for what the host has read. -/

namespace Sys2Proof.Machine

open Sys2Proof

/-! ### The function page -/

/-- `CTXSTAT` (R324). -/
def ctxStat (c : Option Context) : Nat :=
  match c with
  | some c => 1 + (if c.suspended then 2 else 0) + (if c.destroying then 4 else 0)
  | none => 0

/-- A control register as the page shows it (R303, R324): before the create the three that await it, and `$winbase`. -/
def State.pageCtl (s : State) (fn : Nat) (g : FnPage) (num : Nat) : Nat :=
  match s.ctx? fn with
  | some c => (s.ctlGet c 0 num).toNat
  | none =>
    match num with
    | 17 => g.jobid.toNat
    | 22 => g.repbase.toNat
    | 23 => g.repsize.toNat
    | 32 => s.plat.winbase.toNat
    | _ => 0

/-- `$repctr` of a die as the page shows it; `$onceclr`, at odd places, reads 0 (R324). -/
def State.pageRepctr (s : State) (fn k : Nat) : Nat :=
  if k % 2 = 1 then 0 else ((s.ctx? fn).map (fun c => (c.repctr.getD (k / 2) 0).toNat)).getD 0

/-- The 64-bit registers of a function page (R324); write-only ones, and offsets without a register, read 0. The boot register
stands at offset 0 until the firmware runs (R333). -/
def State.pageReg (s : State) (fn off : Nat) : Nat :=
  match s.page? fn with
  | none => 0
  | some g =>
    if off = 0x0000 then (if fn = 0 ∧ s.rdy 1 = false then s.plat.boot.bootReg else 0)
    else if off = 0x0008 then ctxStat (s.ctx? fn)
    else if off = 0x0018 then g.intstat.toNat
    else if off = 0x0028 then g.winva.toNat
    else if off = 0x0030 then s.plat.rdymap.toNat
    else if off = 0x0038 then (if fn = 0 then s.plat.svcreq.toNat else 0)
    else if 0x0100 ≤ off ∧ off < 0x0300 then s.pageCtl fn g ((off - 0x0100) / 8)
    else if 0x0300 ≤ off ∧ off < 0x0380 then s.pageRepctr fn ((off - 0x0300) / 8)
    else 0

/-- `ISLCTL` (R331). -/
def Island.reg (i : Island) : Nat := i.cur * 2 ^ 32 + i.max * 2 ^ 16 + i.min

/-- The attestation buffer (R334): the report once it is made, before that the nonce; the state of the request at 0xA400. -/
def Boot.attestByte (b : Boot) (k : Nat) : Byte :=
  if k = 0x400 then BitVec.ofNat 8 b.attest
  else (if b.attest = 2 then b.report else b.nonce).getD k 0

/-- A queue descriptor as it is stored (R327). -/
def State.descByte (s : State) (k : Nat) : Byte :=
  match s.queue? (k / 32 / 64) (k / 32 % 64) with
  | some x => x.desc.getD (k % 32) 0
  | none => 0

/-- The rows of the physical function that are held as bytes (R324). -/
def State.pfByte (s : State) (off : Nat) : Byte :=
  if off < 0x8000 then s.descByte (off - 0x4000)
  else if off < 0x8200 then (s.plat.carveRegs.getD ((off - 0x8000) / 64) []).getD (off % 64) 0
  else if 0x9000 ≤ off ∧ off < 0x90C0 then
    BitVec.ofNat 8 (((s.plat.islands[(off - 0x9000) / 8]?).map Island.reg).getD 0 >>> (8 * (off % 8)))
  else if 0xA000 ≤ off ∧ off < 0xA408 then s.plat.boot.attestByte (off - 0xA000)
  else if 0xB000 ≤ off ∧ off < 0xC000 then s.plat.fuses.cert.getD (off - 0xB000) 0
  else 0

/-- A byte of a function page (R324). The other functions read 0 in the rows of the physical one. -/
def State.pageByte (s : State) (fn off : Nat) : Byte :=
  if off < 0x4000 then BitVec.ofNat 8 (s.pageReg fn (off / 8 * 8) >>> (8 * (off % 8)))
  else if fn = 0 then s.pfByte off
  else 0

/-! ### The read-back window -/

/-- What the directory of the read-back window lists, as kind, die and unit (R337): the numbers of the kinds are the model's
(notes/assumptions/40.md), in the order of the rule. -/
def readbackUnits : List (Nat × Nat × Nat) :=
  let dies := List.range 8
  let per (kind n : Nat) : List (Nat × Nat × Nat) := dies.flatMap fun d => (List.range n).map fun u => (kind, d, u)
  per 1 48 ++ per 2 48 ++ per 3 1 ++ per 4 1 ++ (List.range 64).map (fun c => (5, 0, c)) ++ per 6 1 ++ per 7 1 ++ per 8 16 ++
    [(9, 0, 0), (10, 0, 0), (11, 0, 0)]

/-- A piece of state as the window shows it: the word at an offset of its span (R337). -/
def readbackOf (α : Type) (k : Nat × Nat × Nat) (x : α) (off : Nat) : DWord := Config.readback α k.1 k.2.1 k.2.2 x off

/-- A word of the state of a kind, die and unit (R337): core registers and tile stores, tile tables, counters, save images,
control registers, Skimmer lists, work entries, directory and once-tag sets, fuses and spare maps, island state, and the
domain extent and leaf numbers with the readiness of the ports (R339). -/
def State.readbackWord (s : State) (k : Nat × Nat × Nat) (off : Nat) : DWord :=
  let die := k.2.1
  let unit := k.2.2
  let here := s.blocks.filter (fun b => b.die == die && b.core == unit && b.holds 0)
  match k.1 with
  | 1 => readbackOf _ k (here.map (fun b => (b.bid, b.threads, b.warps, b.tiles.map (·.lines)))) off
  | 2 => readbackOf _ k (here.map (fun b => (b.bid, b.tiles))) off
  | 3 => readbackOf _ k ((s.blocks.filter (·.die == die)).map (fun b => (b.bid, b.q)),
      s.ctxs.map (fun c => (c.num, c.nctrs.filter (·.die == die)))) off
  | 4 => readbackOf _ k (s.blocks.filter (fun b => b.die == die && b.status != .resident)) off
  | 5 => readbackOf _ k ((s.ctx? unit).map (fun c => (List.range 33).map (s.ctlGet c 0)), (s.ctx? unit).map (·.repctr)) off
  | 6 => readbackOf _ k (s.fab.msgs.filter (fun m => m.dst == s.endpoint die), s.fab.recvs.filter (·.die == die)) off
  | 7 => readbackOf _ k (s.fab.entries.filter (·.die == die)) off
  | 8 => readbackOf _ k (s.dir.filter (fun d => d.line >>> 30 == 8 * s.plat.fuses.pkg + die && homeSlice d.line == unit),
      s.ctxs.map (fun c => (c.num, c.once.filter (fun o => o.ep == s.endpoint die && homeSlice (o.pa / 128) == unit)))) off
  | 9 => readbackOf _ k (s.plat.fuses, s.plat.spares) off
  | 10 => readbackOf _ k s.plat.islands off
  | _ => readbackOf _ k (s.plat.fuses.domain, s.plat.fuses.leaves, s.plat.ports.map Port.routes) off

/-- The directory entry of a piece of state, 32 bytes (R337). -/
def readbackEntry (k : Nat × Nat × Nat) : List Byte :=
  let span := Config.readbackSpan k.1 k.2.1 k.2.2
  toBytes 2 k.1 ++ toBytes 1 k.2.1 ++ toBytes 1 0 ++ toBytes 4 k.2.2 ++ toBytes 8 span.1 ++ toBytes 8 span.2 ++ toBytes 8 0

/-- Whether a piece of state stands at an offset of the window. -/
def spanHolds (off : Nat) (k : Nat × Nat × Nat) : Bool :=
  let span := Config.readbackSpan k.1 k.2.1 k.2.2
  span.1 ≤ off && off < span.1 + span.2

/-- The bytes of the directory, which ends at an entry of kind 0 (R337). -/
def directoryBytes : Nat := 32 * (readbackUnits.length + 1)

/-- An aligned word of the read-back window (R337): the directory, a piece of state, or 0. -/
def State.windowWord (s : State) (off : Nat) : DWord :=
  if off < directoryBytes then
    (match readbackUnits[off / 32]? with
     | some k => BitVec.ofNat 64 (fromBytes (((readbackEntry k).drop (off % 32)).take 8))
     | none => 0)
  else match readbackUnits.find? (spanHolds off) with
    | some k => s.readbackWord k (off - (Config.readbackSpan k.1 k.2.1 k.2.2).1)
    | none => 0

/-- READBACK_READ (R337), and the host's reads of its function page (R324). -/
def opReadbackRead (rd : HostRead) (s : State) : State :=
  match rd with
  | .window off => s.answerHost (toBytes 8 (s.windowWord (off / 8 * 8)).toNat)
  | .page fn off size => s.answerHost ((List.range size).map (fun i => s.pageByte fn (off + i)))

end Sys2Proof.Machine
end

