-- ==== Sys2Proof/Machine/Engines.lean ====
section
/-! DEFINITION. The meanings of the steps that engines, the front end, the host and the package take
(spec/95_what_each_step_holds.md). A step that is not possible in a state leaves it as it is. -/

namespace Sys2Proof.Machine

open Sys2Proof

/-- DECODE_TRAP (R47): every thread of the issuing run takes the trap; at a word of a privileged major a thread
outside privileged mode meets PRIV first. -/
def opDecodeTrap (f : FetchFault) (s : State) : State :=
  s.withIss fun i => s.modBlock i.blk.bid fun b =>
    { b with threads := b.threads.map (fun t =>
        if i.run.has t then
          (if f.sys ∧ t.priv = false then t.fault i.ctx .priv 1 else t.fault i.ctx f.code f.sub f.addr)
        else t) }

/-- RESULT_WRITEBACK (R50). -/
def execResultWriteback (bid ti rid : Nat) (s : State) : Host.Outcome State Fault Refusal :=
  .next (opResultWriteback bid ti rid s)

/-- WARP_EXCHANGE (R68). -/
def execWarpExchange (die core part idx : Nat) (s : State) : Host.Outcome State Fault Refusal :=
  .next (opWarpExchange die core part idx s)

/-- WARP_QUANTUM_EXPIRE (R68). -/
def execWarpQuantumExpire (die core part idx : Nat) (s : State) : Host.Outcome State Fault Refusal :=
  .next (opWarpQuantumExpire die core part idx s)

/-- WAITA_WAKE (R210). -/
def execWaitaWake (bid ti : Nat) (s : State) : Host.Outcome State Fault Refusal := .next (opWaitaWake bid ti s)

/-- WAITA_DEADLINE (R209). -/
def execWaitaDeadline (bid ti : Nat) (s : State) : Host.Outcome State Fault Refusal :=
  .next (opWaitaDeadline bid ti s)

/-- WATCH_FILTER_CLEAR (R210). -/
def execWatchFilterClear (slice : SliceRef) (bay : Nat) (s : State) : Host.Outcome State Fault Refusal :=
  .next (opWatchFilterClear slice.die slice.slice bay s)

/-- IDLE_TIMEOUT (R315). -/
def execIdleTimeout (bid ti : Nat) (s : State) : Host.Outcome State Fault Refusal := .next (opIdleTimeout bid ti s)

/-- CHURN_MERGE (R206). -/
def execChurnMerge (line : Nat) (s : State) : Host.Outcome State Fault Refusal := .next (opChurnMerge line s)

/-- MC_ARRIVAL (R166). -/
def execMcArrival (cid dst : Nat) (s : State) : Host.Outcome State Fault Refusal := .next (opMcArrival cid dst s)

/-- LANDING_ACCEPT_AFTER_DRAIN (R166). -/
def execLandingAcceptAfterDrain (cid dst : Nat) (s : State) : Host.Outcome State Fault Refusal :=
  .next (opLandingAccept cid dst s)

/-- COPY_COMPLETE (R163). -/
def execCopyComplete (cid : Nat) (s : State) : Host.Outcome State Fault Refusal := .next (opCopyComplete cid s)

/-- MATRIX_QUEUE_ENTER (R224). -/
def execMatrixQueueEnter (die core : Nat) (s : State) : Host.Outcome State Fault Refusal :=
  .next (opMatrixQueueEnter die core s)

/-- MATRIX_OP_COMPLETE (R223). -/
def execMatrixOpComplete (die core : Nat) (s : State) : Host.Outcome State Fault Refusal :=
  .next (opMatrixOpComplete die core s)

/-- FLIT_RECEIVE (R257). -/
def execFlitReceive (port : Nat) (flit : RxFlit) (s : State) : Host.Outcome State Fault Refusal :=
  .next (opFlitReceive port flit.bytes flit.spoiler s)

/-- LANE_RETRAIN (R258). -/
def execLaneRetrain (port lane : Nat) (trained : Bool) (s : State) : Host.Outcome State Fault Refusal :=
  .next (opLaneRetrain port lane trained s)

/-- PACKET_DELIVER (R260). -/
def execPacketDeliver (pkt : Packet) (s : State) : Host.Outcome State Fault Refusal := .next (opPacketDeliver pkt s)

/-- DIR_INVALIDATE (R253). -/
def execDirInvalidate (line ep : Nat) (s : State) : Host.Outcome State Fault Refusal :=
  .next (opDirInvalidate line ep s)

/-- REDUCTION_HOP (R265). -/
def execReductionHop (win off round : Nat) (leaf : Option Nat) (s : State) : Host.Outcome State Fault Refusal :=
  .next (opReductionHop win off round leaf s)

/-- FINAL_HOP (R266). -/
def execFinalHop (rid : Nat) (s : State) : Host.Outcome State Fault Refusal := .next (opFinalHop rid s)

/-- COUNTER_ADVANCE_ARRIVE (R219). -/
def execCounterAdvanceArrive (aid : Nat) (s : State) : Host.Outcome State Fault Refusal :=
  .next (opCounterAdvanceArrive aid s)

/-- WORK_ENTRY_FIRE (R272). -/
def execWorkEntryFire (eid : Nat) (s : State) : Host.Outcome State Fault Refusal := .next (opWorkEntryFire eid s)

/-- WORK_ENTRY_DONE (R272). -/
def execWorkEntryDone (eid : Nat) (s : State) : Host.Outcome State Fault Refusal := .next (opWorkEntryDone eid s)

/-- MSG_ARRIVE (R279). -/
def execMsgArrive (mid : Nat) (s : State) : Host.Outcome State Fault Refusal := .next (opMsgArrive mid s)

/-- MSG_RETRY (R276). -/
def execMsgRetry (mid : Nat) (s : State) : Host.Outcome State Fault Refusal := .next (opMsgRetry mid s)

/-- RENDEZVOUS_PULL (R280). -/
def execRendezvousPull (mid : Nat) (s : State) : Host.Outcome State Fault Refusal := .next (opRendezvousPull mid s)

/-- RECEIVE_COMPLETE (R283). -/
def execReceiveComplete (rid : Nat) (s : State) : Host.Outcome State Fault Refusal := .next (opReceiveComplete rid s)

/-- SEND_COMPLETE (R275). -/
def execSendComplete (mid : Nat) (s : State) : Host.Outcome State Fault Refusal := .next (opSendComplete mid s)

/-- RCANCEL_ANSWER (R286). -/
def execRcancelAnswer (bid ti : Nat) (s : State) : Host.Outcome State Fault Refusal :=
  .next (opRcancelAnswer bid ti s)

/-- GRAPH_FETCH (R290). -/
def execGraphFetch (die q : Nat) (s : State) : Host.Outcome State Fault Refusal := .next (opGraphFetch die q s)

/-- GRAPH_RESIDENT (R291). -/
def execGraphResident (die q : Nat) (s : State) : Host.Outcome State Fault Refusal := .next (opGraphResident die q s)

/-- NODE_START (R293). -/
def execNodeStart (die q node : Nat) (s : State) : Host.Outcome State Fault Refusal :=
  .next (opNodeStart die q node s)

/-- NODE_DONE (R293). -/
def execNodeDone (die q node : Nat) (s : State) : Host.Outcome State Fault Refusal := .next (opNodeDone die q node s)

/-- GRAPH_END (R294). -/
def execGraphEnd (die q : Nat) (s : State) : Host.Outcome State Fault Refusal := .next (opGraphEnd die q s)

/-- CLUSTER_ADMIT (R297). -/
def execClusterAdmit (launch : Nat) (pl : Placement) (s : State) : Host.Outcome State Fault Refusal :=
  .next (opClusterAdmit launch pl s)

/-- BLOCK_END (R302). -/
def execBlockEnd (bid : Nat) (s : State) : Host.Outcome State Fault Refusal := .next (opBlockEnd bid s)

/-- LAUNCH_END (R302). -/
def execLaunchEnd (launch : Nat) (s : State) : Host.Outcome State Fault Refusal := .next (opLaunchEnd launch s)

/-- SPAWN_CREW_FORM (R301). -/
def execSpawnCrewForm (launch die : Nat) (entry : DWord) (s : State) : Host.Outcome State Fault Refusal :=
  .next (opSpawnCrewForm launch die entry s)

/-- SPAWN_GATHER_TIMEOUT (R301). -/
def execSpawnGatherTimeout (launch die : Nat) (s : State) : Host.Outcome State Fault Refusal :=
  .next (opSpawnGatherTimeout launch die s)

/-- BLOCK_SAVE (R318). -/
def execBlockSave (bid : Nat) (cause : SaveCause) (s : State) : Host.Outcome State Fault Refusal :=
  .next (opBlockSave bid cause s)

/-- SAVE_SLOT_GRANT (R319). -/
def execSaveSlotGrant (die : Nat) (s : State) : Host.Outcome State Fault Refusal := .next (opSaveSlotGrant die s)

/-- BLOCK_RESTORE (R320). -/
def execBlockRestore (bid : Nat) (s : State) : Host.Outcome State Fault Refusal := .next (opBlockRestore bid s)

/-- WATCHDOG_EXPIRE (R322). -/
def execWatchdogExpire (ctx die : Nat) (s : State) : Host.Outcome State Fault Refusal :=
  .next (opWatchdogExpire ctx die s)

/-- HANDLER_ENTRY (R307). -/
def execHandlerEntry (bid ti : Nat) (s : State) : Host.Outcome State Fault Refusal := .next (opHandlerEntry bid ti s)

/-- LATE_FAILURE_DELIVERY (R309). -/
def execLateFailureDelivery (bid ti : Nat) (s : State) : Host.Outcome State Fault Refusal :=
  .next (opLateFailureDelivery bid ti s)

/-- REPORT_WRITE (R311). -/
def execReportWrite (ctx : Nat) (s : State) : Host.Outcome State Fault Refusal := .next (opReportWrite ctx s)

/-- REPACT_RESUME (R312). -/
def execRepactResume (ctx idx : Nat) (s : State) : Host.Outcome State Fault Refusal :=
  .next (opRepactResume ctx idx s)

/-- REPACT_ABANDON (R312). -/
def execRepactAbandon (ctx idx : Nat) (s : State) : Host.Outcome State Fault Refusal :=
  .next (opRepactAbandon ctx idx s)

/-- CTX_CREATE (R325). -/
def execCtxCreate (fn ctx : Nat) (job : Word) (s : State) : Host.Outcome State Fault Refusal :=
  .next (opCtxCreate fn ctx job s)

/-- CTX_DESTROY (R325). -/
def execCtxDestroy (fn ctx : Nat) (s : State) : Host.Outcome State Fault Refusal := .next (opCtxDestroy fn ctx s)

/-- CTX_SUSPEND (R321). -/
def execCtxSuspend (fn ctx : Nat) (s : State) : Host.Outcome State Fault Refusal := .next (opCtxSuspend fn ctx s)

/-- CTX_RESUME (R321). -/
def execCtxResume (fn ctx : Nat) (s : State) : Host.Outcome State Fault Refusal := .next (opCtxResume fn ctx s)

/-- WAKE (R324). -/
def execWake (fn : Nat) (s : State) : Host.Outcome State Fault Refusal := .next (opWake fn s)

/-- INTSTAT_CLEAR (R324). -/
def execIntstatClear (fn : Nat) (val : DWord) (s : State) : Host.Outcome State Fault Refusal :=
  .next (opIntstatClear fn val s)

/-- SVCREQ_CLEAR (R338). -/
def execSvcreqClear (fn : Nat) (val : DWord) (s : State) : Host.Outcome State Fault Refusal :=
  .next (opSvcreqClear fn val s)

/-- WINVA_WRITE (R324). -/
def execWinvaWrite (fn : Nat) (val : DWord) (s : State) : Host.Outcome State Fault Refusal :=
  .next (opWinvaWrite fn val s)

/-- DOORBELL (R327). -/
def execDoorbell (fn die q : Nat) (tail : Word) (s : State) : Host.Outcome State Fault Refusal :=
  .next (opDoorbell fn die q tail s)

/-- QUEUE_DESC_WRITE (R327). -/
def execQueueDescWrite (fn die q : Nat) (desc : List Byte) (s : State) : Host.Outcome State Fault Refusal :=
  .next (opQueueDescWrite fn die q desc s)

/-- QUEUE_DISABLE (R327). -/
def execQueueDisable (die q : Nat) (s : State) : Host.Outcome State Fault Refusal := .next (opQueueDisable die q s)

/-- CARVE_WRITE (R328). -/
def execCarveWrite (fn die : Nat) (rec : ByteWrite) (s : State) : Host.Outcome State Fault Refusal :=
  .next (opCarveWrite fn die rec.off rec.bytes s)

/-- ISLCTL_WRITE (R331). -/
def execIslctlWrite (fn island : Nat) (val : DWord) (s : State) : Host.Outcome State Fault Refusal :=
  .next (opIslctlWrite fn island val s)

/-- ONCECLR (R303). -/
def execOnceclr (fn : Nat) (die : Option Nat) (s : State) : Host.Outcome State Fault Refusal :=
  .next (opOnceclr fn die s)

/-- CTL_REG_WRITE (R305). -/
def execCtlRegWrite (fn num : Nat) (die : Option Nat) (val : DWord) (s : State) : Host.Outcome State Fault Refusal :=
  .next (opCtlRegWrite fn num die val s)

/-- APERTURE_READ (R326). -/
def execApertureRead (fn off size : Nat) (s : State) : Host.Outcome State Fault Refusal :=
  .next (opApertureRead fn off size s)

/-- APERTURE_WRITE (R326). -/
def execApertureWrite (fn off size val : Nat) (s : State) : Host.Outcome State Fault Refusal :=
  .next (opApertureWrite fn off (toBytes size val) s)

/-- READBACK_READ (R337). -/
def execReadbackRead (rd : HostRead) (s : State) : Host.Outcome State Fault Refusal :=
  .next (opReadbackRead rd s)

/-- RESET (R339). -/
def execReset (s : State) : Host.Outcome State Fault Refusal := .next (opReset s)

/-- BOOT_VERIFY (R333). -/
def execBootVerify (s : State) : Host.Outcome State Fault Refusal :=
  .next (opBootVerify s)

/-- ATTEST_REQUEST (R334). -/
def execAttestRequest (nonce : List Byte) (s : State) : Host.Outcome State Fault Refusal :=
  .next (opAttestRequest nonce s)

/-- ATTEST_COMPLETE (R334). -/
def execAttestComplete (s : State) : Host.Outcome State Fault Refusal := .next (opAttestComplete s)

/-- PTP_MESSAGE (R329). -/
def execPtpMessage (offset : Int) (s : State) : Host.Outcome State Fault Refusal := .next (opPtpMessage offset s)

/-- POWER_SAMPLE (R332). -/
def execPowerSample (coreAmps above15us : Nat) (avg : PowerAvg) (isl : IslandSample) (s : State) : Host.Outcome State Fault Refusal :=
  .next (opPowerSample coreAmps above15us avg isl s)

/-- CLOCK_STEP_DOWN (R332). -/
def execClockStepDown (island : Nat) (s : State) : Host.Outcome State Fault Refusal :=
  .next (opClockStepDown island s)

/-- CLOCK_STEP_UP (R332). -/
def execClockStepUp (island : Nat) (s : State) : Host.Outcome State Fault Refusal := .next (opClockStepUp island s)

/-- THERMAL_SHUTDOWN (R332). -/
def execThermalShutdown (island : Nat) (s : State) : Host.Outcome State Fault Refusal :=
  .next (opThermalShutdown island s)

/-- SCRUB (R335). -/
def execScrub (line : Nat) (error : Option Bool) (s : State) : Host.Outcome State Fault Refusal :=
  .next (opScrub line error s)

/-- CORE_FAIL (R338). -/
def execCoreFail (core : CoreRef) (logic : Bool) (s : State) : Host.Outcome State Fault Refusal :=
  .next (opCoreFail core.die core.core logic s)

/-- SPARE_ENGAGE (R14). -/
def execSpareEngage (die half : Nat) (s : State) : Host.Outcome State Fault Refusal :=
  .next (opSpareEngage die half s)

/-- HBM_ROW_REMAP (R338). -/
def execHbmRowRemap (stack bank row : Nat) (s : State) : Host.Outcome State Fault Refusal :=
  .next (opHbmRowRemap stack bank row s)

/-- CHANNEL_FAIL (R338). -/
def execChannelFail (stack channel : Nat) (s : State) : Host.Outcome State Fault Refusal :=
  .next (opChannelFail stack channel s)

/-- FUNCTION_READY (R339). -/
def execFunctionReady (word : FnWord) (s : State) : Host.Outcome State Fault Refusal :=
  .next (opFunctionReady word s)

/-- DECODE_TRAP (R47). -/
def execDecodeTrap (fault : FetchFault) (s : State) : Host.Outcome State Fault Refusal := .next (opDecodeTrap fault s)

/-- LINE_LANDED (R152). -/
def execLineLanded (cid dst : Nat) (unit : Nat) (s : State) : Host.Outcome State Fault Refusal :=
  .next (opLineLanded cid dst unit s)

/-- STORE_QUEUE_DRAIN (R213). -/
def execStoreQueueDrain (bid wi : Nat) (s : State) : Host.Outcome State Fault Refusal :=
  .next (opStoreQueueDrain bid wi s)

/-- SOFT_ERROR (R335). -/
def execSoftError (site : ErrorSite) (corrected : Bool) (s : State) : Host.Outcome State Fault Refusal :=
  .next (opSoftError site corrected s)

/-- JUNCTION_ABOVE_105 (R332). -/
def execJunctionAbove105 (island : Nat) (s : State) : Host.Outcome State Fault Refusal :=
  .next (opJunctionAbove105 island s)

end Sys2Proof.Machine
end

