-- ==== Sys2Proof/Machine/Narrow.lean ====
section
/-! DEFINITION. The meanings of the W32 instructions (chapters 3 to 7 and 10), each over the
operation of its class. -/

namespace Sys2Proof.Machine

open Sys2Proof

/-- BRA (R74). -/
def execBra (sw : Bool) (off : BitVec 22) (s : State) : Host.Outcome State Fault Refusal := .next (opBra sw off s)

/-- CALL (R74). -/
def execCall (sw : Bool) (off : BitVec 22) (s : State) : Host.Outcome State Fault Refusal := .next (opCall sw off s)

/-- BC (R74). -/
def execBc (sw : Bool) (off : BitVec 18) (neg : Bool) (p : BitVec 3) (s : State) : Host.Outcome State Fault Refusal :=
  .next (opBc sw off neg p s)

/-- CTRL_NOP (R77). -/
def execCtrlNop (sw : Bool) (s : State) : Host.Outcome State Fault Refusal :=
  .next (genNop { major := 0x04, minor := 0, sw := sw } s)

/-- CTRL_RET (R77). -/
def execCtrlRet (sw : Bool) (s : State) : Host.Outcome State Fault Refusal :=
  .next (genRet { major := 0x04, minor := 1, sw := sw } s)

/-- CTRL_EXIT (R77). -/
def execCtrlExit (sw : Bool) (s : State) : Host.Outcome State Fault Refusal :=
  .next (genExit { major := 0x04, minor := 2, sw := sw } s)

/-- CTRL_YIELD (R77). -/
def execCtrlYield (sw : Bool) (s : State) : Host.Outcome State Fault Refusal :=
  .next (genYield { major := 0x04, minor := 3, sw := sw } s)

/-- CTRL_BRK (R77). -/
def execCtrlBrk (sw : Bool) (s : State) : Host.Outcome State Fault Refusal :=
  .next (genBrk { major := 0x04, minor := 4, sw := sw } s)

/-- TRAP (R78). -/
def execTrap (sw : Bool) (code : BitVec 16) (s : State) : Host.Outcome State Fault Refusal := .next (opTrap sw code s)

/-- JTAB (R75). -/
def execJtab (sw : Bool) (n : BitVec 10) (a : BitVec 6) (s : State) : Host.Outcome State Fault Refusal :=
  .next (genJtab { major := 0x06, imm := n.toNat, a := a.toNat, sw := sw } s)

/-- CTAB (R75). -/
def execCtab (sw : Bool) (n : BitVec 10) (a : BitVec 6) (s : State) : Host.Outcome State Fault Refusal :=
  .next (genJtab { major := 0x07, imm := n.toNat, a := a.toNat, sw := sw } s)

/-- PLOG (R79). -/
def execPlog (f : FormA) (s : State) : Host.Outcome State Fault Refusal := .next (genPlog (Gen.ofA 0x08 f) s)

/-- VOTE (R81). -/
def execVote (f : FormU) (s : State) : Host.Outcome State Fault Refusal := .next (genVote (Gen.ofU 0x09 f) s)

/-- MATCH (R82). -/
def execMatchPeers (f : FormA) (s : State) : Host.Outcome State Fault Refusal := .next (genMatch (Gen.ofA 0x0A f) s)

/-- ELECT (R83). -/
def execElect (sw : Bool) (d : BitVec 6) (s : State) : Host.Outcome State Fault Refusal :=
  .next (genElect { major := 0x0B, d := d.toNat, sw := sw } s)

/-- WRESIZE (R72). -/
def execWresize (sw : Bool) (m : BitVec 2) (d : BitVec 6) (s : State) : Host.Outcome State Fault Refusal :=
  .next (genWresize { major := 0x0C, minor := m.toNat, d := d.toNat, sw := sw } s)

/-- WSYNC_WARP (R84). -/
def execWsyncWarp (sw : Bool) (s : State) : Host.Outcome State Fault Refusal :=
  .next (genWsync { major := 0x0D, minor := 0, sw := sw } s)

/-- WSYNC_MASK (R84). -/
def execWsyncMask (sw : Bool) (a : BitVec 6) (s : State) : Host.Outcome State Fault Refusal :=
  .next (genWsync { major := 0x0D, minor := 1, a := a.toNat, sw := sw } s)

/-- BAR (R86). -/
def execBar (sw : Bool) (lv : BitVec 2) (cnt : BitVec 14) (id : BitVec 6) (s : State) : Host.Outcome State Fault Refusal :=
  .next (opBar sw lv cnt id s)

/-- SPAWN (R88). -/
def execSpawn (sw : Bool) (a : BitVec 6) (s : State) : Host.Outcome State Fault Refusal :=
  .next (genSpawn { major := 0x0F, minor := 0, a := a.toNat, sw := sw } s)

/-- SPAWN_EXIT (R88). -/
def execSpawnExit (sw : Bool) (a : BitVec 6) (s : State) : Host.Outcome State Fault Refusal :=
  .next (genSpawn { major := 0x0F, minor := 1, a := a.toNat, sw := sw } s)

/-- REGGROW (R89). -/
def execReggrow (sw : Bool) (n : BitVec 8) (d : BitVec 6) (s : State) : Host.Outcome State Fault Refusal :=
  .next (opReggrow sw n d s)

/-- REGSHRINK (R90). -/
def execRegshrink (sw : Bool) (n : BitVec 8) (s : State) : Host.Outcome State Fault Refusal :=
  .next (opRegshrink sw n s)

/-- MOVS (R91). -/
def execMovs (sw : Bool) (num : BitVec 10) (d : BitVec 6) (s : State) : Host.Outcome State Fault Refusal :=
  .next (genMovs { major := 0x12, imm := num.toNat, d := d.toNat, sw := sw } s)

/-- IADD (R94). -/
def execIadd (f : FormA) (s : State) : Host.Outcome State Fault Refusal := .next (genIadd (Gen.ofA 0x20 f) s)

/-- IMUL (R94). -/
def execImul (f : FormA) (s : State) : Host.Outcome State Fault Refusal := .next (genImul (Gen.ofA 0x21 f) s)

/-- IMINMAX (R94). -/
def execIminmax (f : FormA) (s : State) : Host.Outcome State Fault Refusal := .next (genIminmax (Gen.ofA 0x22 f) s)

/-- LOGIC (R94). -/
def execLogic (f : FormA) (s : State) : Host.Outcome State Fault Refusal := .next (genLogic (Gen.ofA 0x23 f) s)

/-- SHIFT (R94). -/
def execShift (f : FormA) (s : State) : Host.Outcome State Fault Refusal := .next (genShift (Gen.ofA 0x24 f) s)

/-- IUNARY (R95). -/
def execIunary (f : FormU) (s : State) : Host.Outcome State Fault Refusal := .next (genIunary (Gen.ofU 0x25 f) s)

/-- ISET (R96). -/
def execIset (f : FormA) (s : State) : Host.Outcome State Fault Refusal := .next (genIset (Gen.ofA 0x26 f) s)

/-- IADDI (R97). -/
def execIaddi (f : FormB) (s : State) : Host.Outcome State Fault Refusal := .next (genIaddi (Gen.ofB 0x27 f) s)

/-- ANDI (R97). -/
def execAndi (f : FormB) (s : State) : Host.Outcome State Fault Refusal := .next (genAndi (Gen.ofB 0x28 f) s)

/-- ORI (R97). -/
def execOri (f : FormB) (s : State) : Host.Outcome State Fault Refusal := .next (genOri (Gen.ofB 0x29 f) s)

/-- XORI (R97). -/
def execXori (f : FormB) (s : State) : Host.Outcome State Fault Refusal := .next (genXori (Gen.ofB 0x2A f) s)

/-- SHIFTI (R97). -/
def execShifti (sw : Bool) (k : BitVec 3) (h : BitVec 5) (a d : BitVec 6) (s : State) : Host.Outcome State Fault Refusal :=
  .next (genShifti { major := 0x2B, imm := k.toNat * 32 + h.toNat, a := a.toNat, d := d.toNat, sw := sw } s)

/-- MOVI (R97). -/
def execMovi (f : FormC) (s : State) : Host.Outcome State Fault Refusal :=
  .next (opMovi 4 f.sw f.d.toNat (f.imm.signExtend 32) s)

/-- MOVHI (R97). -/
def execMovhi (f : FormC) (s : State) : Host.Outcome State Fault Refusal := .next (opMovhi f s)

/-- LEA (R94). -/
def execLea (f : FormA) (s : State) : Host.Outcome State Fault Refusal := .next (genLea (Gen.ofA 0x2E f) s)

/-- BFX (R98). -/
def execBfx (f : FormA) (s : State) : Host.Outcome State Fault Refusal := .next (genBfx (Gen.ofA 0x2F f) s)

/-- BFI (R98). -/
def execBfi (sw : Bool) (b a d : BitVec 6) (s : State) : Host.Outcome State Fault Refusal :=
  .next (genBfi { major := 0x30, b := b.toNat, a := a.toNat, d := d.toNat, sw := sw } s)

/-- IDIV (R99). -/
def execIdiv (f : FormA) (s : State) : Host.Outcome State Fault Refusal := .next (genIdiv (Gen.ofA 0x31 f) s)

/-- FADD (R104). -/
def execFadd (f : FormA) (s : State) : Host.Outcome State Fault Refusal := .next (genFadd (Gen.ofA 0x38 f) s)

/-- FMUL (R104). -/
def execFmul (f : FormA) (s : State) : Host.Outcome State Fault Refusal := .next (genFmul (Gen.ofA 0x39 f) s)

/-- FSET (R104). -/
def execFset (f : FormA) (s : State) : Host.Outcome State Fault Refusal := .next (genFset (Gen.ofA 0x3A f) s)

/-- FUNC (R106). -/
def execFunc (f : FormU) (s : State) : Host.Outcome State Fault Refusal := .next (genFunc (Gen.ofU 0x3B f) s)

/-- CVTFI (R107). -/
def execCvtfi (f : FormU) (s : State) : Host.Outcome State Fault Refusal := .next (genCvtfi (Gen.ofU 0x3C f) s)

/-- CVTIF (R107). -/
def execCvtif (f : FormU) (s : State) : Host.Outcome State Fault Refusal := .next (genCvtif (Gen.ofU 0x3D f) s)

/-- HOP (R108). -/
def execHop (f : FormA) (s : State) : Host.Outcome State Fault Refusal := .next (genHop (Gen.ofA 0x3E f) s)

/-- SHFL (R110). -/
def execShfl (f : FormA) (s : State) : Host.Outcome State Fault Refusal := .next (genShfl (Gen.ofA 0x40 f) s)

/-- WRED (R112). -/
def execWred (f : FormU) (s : State) : Host.Outcome State Fault Refusal := .next (genWred (Gen.ofU 0x41 f) s)

/-- WSCAN (R113). -/
def execWscan (f : FormU) (s : State) : Host.Outcome State Fault Refusal := .next (genWscan (Gen.ofU 0x42 f) s)

/-- LD32 (R199). -/
def execLd32 (f : FormB) (s : State) : Host.Outcome State Fault Refusal := .next (genLd32 (Gen.ofB 0x48 f) s)

/-- LD128 (R199). -/
def execLd128 (f : FormB) (s : State) : Host.Outcome State Fault Refusal := .next (genLd32 (Gen.ofB 0x49 f) s)

/-- ST32 (R199). -/
def execSt32 (f : FormB) (s : State) : Host.Outcome State Fault Refusal := .next (genSt32 (Gen.ofB 0x4A f) s)

/-- ST128 (R199). -/
def execSt128 (f : FormB) (s : State) : Host.Outcome State Fault Refusal := .next (genSt32 (Gen.ofB 0x4B f) s)

/-- MOVF (R146). -/
def execMovf (sw : Bool) (w : Bool) (f : BitVec 3) (d : BitVec 6) (s : State) : Host.Outcome State Fault Refusal :=
  .next (genMovf { major := 0x50, imm := (if w then 8 else 0) + f.toNat, d := d.toNat, sw := sw } s)

/-- ERET (R314). -/
def execEret (sw : Bool) (s : State) : Host.Outcome State Fault Refusal :=
  .next (genEret { major := 0x70, sw := sw } s)

/-- CTLRD (R313). -/
def execCtlrd (sw : Bool) (num : BitVec 10) (d : BitVec 6) (s : State) : Host.Outcome State Fault Refusal :=
  .next (genCtlrd { major := 0x71, imm := num.toNat, d := d.toNat, sw := sw } s)

/-- CTLWR (R313). -/
def execCtlwr (sw : Bool) (num : BitVec 10) (a : BitVec 6) (s : State) : Host.Outcome State Fault Refusal :=
  .next (genCtlwr { major := 0x72, imm := num.toNat, a := a.toNat, sw := sw } s)

/-- PGINV_PAGE (R316). -/
def execPginvPage (sw : Bool) (a : BitVec 6) (s : State) : Host.Outcome State Fault Refusal :=
  .next (genPginv { major := 0x73, minor := 0, a := a.toNat, sw := sw } s)

/-- PGINV_CONTEXT (R316). -/
def execPginvContext (sw : Bool) (s : State) : Host.Outcome State Fault Refusal :=
  .next (genPginv { major := 0x73, minor := 1, sw := sw } s)

/-- IDLE (R315). -/
def execIdle (sw : Bool) (s : State) : Host.Outcome State Fault Refusal :=
  .next (genIdle { major := 0x74, sw := sw } s)

end Sys2Proof.Machine
end

