-- ==== Sys2Proof/Machine/Extended.lean ====
section
/-! DEFINITION. The meanings of the X64 instructions (chapters 2 and 4 to 9), each over the operation
of its class. -/

namespace Sys2Proof.Machine

open Sys2Proof

/-- The `ctrl` operations by minor (R45, R77); an unassigned minor traps by its signature. -/
def genCtrl (y : Gen) (s : State) : State :=
  match y.minor with
  | 1 => genRet y s
  | 2 => genExit y s
  | 3 => genYield y s
  | 4 => genBrk y s
  | _ => genNop y s

/-- The signature of a wide instruction (R44). -/
def wideSig (x : FormX) : Sig :=
  let y := Gen.ofWide x
  if y.major = 0x06 ∨ y.major = 0x07 then jtabSig y else y.theSig

/-- The wide form (R44): exactly its inner instruction with 8-bit specifiers and a guard. An inner major that the
form does not carry traps by its signature. -/
def opWide (x : FormX) (s : State) : State :=
  let y := Gen.ofWide x
  match y.major with
  | 0x04 => genCtrl y s
  | 0x06 => genJtab y s
  | 0x07 => genJtab y s
  | 0x08 => genPlog y s
  | 0x09 => genVote y s
  | 0x0A => genMatch y s
  | 0x0B => genElect y s
  | 0x0C => genWresize y s
  | 0x0D => genWsync y s
  | 0x0F => genSpawn y s
  | 0x12 => genMovs y s
  | 0x20 => genIadd y s
  | 0x21 => genImul y s
  | 0x22 => genIminmax y s
  | 0x23 => genLogic y s
  | 0x24 => genShift y s
  | 0x25 => genIunary y s
  | 0x26 => genIset y s
  | 0x27 => genIaddi y s
  | 0x28 => genAndi y s
  | 0x29 => genOri y s
  | 0x2A => genXori y s
  | 0x2B => genShifti y s
  | 0x2E => genLea y s
  | 0x2F => genBfx y s
  | 0x30 => genBfi y s
  | 0x31 => genIdiv y s
  | 0x38 => genFadd y s
  | 0x39 => genFmul y s
  | 0x3A => genFset y s
  | 0x3B => genFunc y s
  | 0x3C => genCvtfi y s
  | 0x3D => genCvtif y s
  | 0x3E => genHop y s
  | 0x40 => genShfl y s
  | 0x41 => genWred y s
  | 0x42 => genWscan y s
  | 0x48 => genLd32 y s
  | 0x49 => genLd32 y s
  | 0x4A => genSt32 y s
  | 0x4B => genSt32 y s
  | 0x50 => genMovf y s
  | 0x70 => genEret y s
  | 0x71 => genCtlrd y s
  | 0x72 => genCtlwr y s
  | 0x73 => genPginv y s
  | 0x74 => genIdle y s
  | _ => genNop y s

/-- FFMA (R105). -/
def execFfma (x : FormX) (s : State) : Host.Outcome State Fault Refusal := .next (opFfma x s)

/-- IMAD (R101). -/
def execImad (x : FormX) (s : State) : Host.Outcome State Fault Refusal := .next (opImad x s)

/-- SEL (R101). -/
def execSel (x : FormX) (s : State) : Host.Outcome State Fault Refusal := .next (opSel x s)

/-- HFMA (R109). -/
def execHfma (x : FormX) (s : State) : Host.Outcome State Fault Refusal := .next (opHfma x s)

/-- IDP4 (R101). -/
def execIdp4 (x : FormX) (s : State) : Host.Outcome State Fault Refusal := .next (opIdp4 x s)

/-- IADD64 (R101). -/
def execIadd64 (x : FormX) (s : State) : Host.Outcome State Fault Refusal := .next (opIadd64 x s)

/-- LEA64 (R101). -/
def execLea64 (x : FormX) (s : State) : Host.Outcome State Fault Refusal := .next (opLea64 x s)

/-- ISET64 (R101). -/
def execIset64 (x : FormX) (s : State) : Host.Outcome State Fault Refusal := .next (opIset64 x s)

/-- MOVX (R40). -/
def execMovx (x : FormI) (s : State) : Host.Outcome State Fault Refusal := .next (opMovx x s)

/-- WIDE (R44). -/
def execWide (x : FormX) (s : State) : Host.Outcome State Fault Refusal := .next (opWide x s)

/-- CVT (R137). -/
def execCvt (x : FormX) (s : State) : Host.Outcome State Fault Refusal := .next (opCvt x s)

/-- QNT (R138). -/
def execQnt (x : FormX) (s : State) : Host.Outcome State Fault Refusal := .next (opQnt x s)

/-- DQN (R139). -/
def execDqn (x : FormX) (s : State) : Host.Outcome State Fault Refusal := .next (opDqn x s)

/-- AMAX (R140). -/
def execAmax (x : FormX) (s : State) : Host.Outcome State Fault Refusal := .next (opAmax x s)

/-- SCOF (R141). -/
def execScof (x : FormX) (s : State) : Host.Outcome State Fault Refusal := .next (opScof x s)

/-- RSCL (R142). -/
def execRscl (x : FormX) (s : State) : Host.Outcome State Fault Refusal := .next (opRscl x s)

/-- RHAD (R143). -/
def execRhad (x : FormX) (s : State) : Host.Outcome State Fault Refusal := .next (opRhad x s)

/-- RAND (R144). -/
def execRand (x : FormX) (s : State) : Host.Outcome State Fault Refusal := .next (opRand x s)

/-- NPACK (R145). -/
def execNpack (x : FormX) (s : State) : Host.Outcome State Fault Refusal := .next (opNpack x s)

/-- NUNPK (R145). -/
def execNunpk (x : FormX) (s : State) : Host.Outcome State Fault Refusal := .next (opNunpk x s)

/-- TALLOC (R170). -/
def execTalloc (x : FormX) (s : State) : Host.Outcome State Fault Refusal := .next (opTalloc x s)

/-- TFREE (R171). -/
def execTfree (x : FormX) (s : State) : Host.Outcome State Fault Refusal := .next (opTfree x s)

/-- TSTAT (R172). -/
def execTstat (x : FormX) (s : State) : Host.Outcome State Fault Refusal := .next (opTstat x s)

/-- TWAIT (R173). -/
def execTwait (x : FormX) (s : State) : Host.Outcome State Fault Refusal := .next (opTwait x s)

/-- TLD (R174). -/
def execTld (x : FormX) (s : State) : Host.Outcome State Fault Refusal := .next (opTld x s)

/-- TST (R175). -/
def execTst (x : FormX) (s : State) : Host.Outcome State Fault Refusal := .next (opTst x s)

/-- TFILL (R176). -/
def execTfill (x : FormX) (s : State) : Host.Outcome State Fault Refusal := .next (opTfill x s)

/-- TSET_EMPTY (R177). -/
def execTsetEmpty (x : FormX) (s : State) : Host.Outcome State Fault Refusal := .next (opTsetEmpty x s)

/-- TSET_READY (R177). -/
def execTsetReady (x : FormX) (s : State) : Host.Outcome State Fault Refusal := .next (opTsetReady x s)

/-- CPYIN (R178). -/
def execCpyin (x : FormX) (s : State) : Host.Outcome State Fault Refusal := .next (opCpyin x s)

/-- CPYOUT (R179). -/
def execCpyout (x : FormX) (s : State) : Host.Outcome State Fault Refusal := .next (opCpyout x s)

/-- CPYTT (R180). -/
def execCpytt (x : FormX) (s : State) : Host.Outcome State Fault Refusal := .next (opCpytt x s)

/-- CPYGG (R181). -/
def execCpygg (x : FormX) (s : State) : Host.Outcome State Fault Refusal := .next (opCpygg x s)

/-- STASH (R182). -/
def execStash (x : FormX) (s : State) : Host.Outcome State Fault Refusal := .next (opStash x s)

/-- LD (R196). -/
def execLd (x : FormX) (s : State) : Host.Outcome State Fault Refusal := .next (opLd x s)

/-- ST (R197). -/
def execSt (x : FormX) (s : State) : Host.Outcome State Fault Refusal := .next (opSt x s)

/-- PST (R200). -/
def execPst (x : FormX) (s : State) : Host.Outcome State Fault Refusal := .next (opPst x s)

/-- PLD (R200). -/
def execPld (x : FormX) (s : State) : Host.Outcome State Fault Refusal := .next (opPld x s)

/-- ATOM (R204). -/
def execAtom (x : FormX) (s : State) : Host.Outcome State Fault Refusal := .next (opAtom x s)

/-- ATOMCAS (R204). -/
def execAtomcas (x : FormX) (s : State) : Host.Outcome State Fault Refusal := .next (opAtomcas x s)

/-- RED (R204). -/
def execRed (x : FormX) (s : State) : Host.Outcome State Fault Refusal := .next (opRed x s)

/-- TATOM (R207). -/
def execTatom (x : FormX) (s : State) : Host.Outcome State Fault Refusal := .next (opTatom x s)

/-- TRED (R207). -/
def execTred (x : FormX) (s : State) : Host.Outcome State Fault Refusal := .next (opTred x s)

/-- WAITA (R209). -/
def execWaita (x : FormX) (s : State) : Host.Outcome State Fault Refusal := .next (opWaita x s)

/-- FENCE (R215). -/
def execFence (x : FormX) (s : State) : Host.Outcome State Fault Refusal := .next (opFence x s)

/-- QWAIT (R220). -/
def execQwait (x : FormX) (s : State) : Host.Outcome State Fault Refusal := .next (opQwait x s)

/-- QREAD (R220). -/
def execQread (x : FormX) (s : State) : Host.Outcome State Fault Refusal := .next (opQread x s)

/-- QADV (R220). -/
def execQadv (x : FormX) (s : State) : Host.Outcome State Fault Refusal := .next (opQadv x s)

/-- PREF (R221). -/
def execPref (x : FormX) (s : State) : Host.Outcome State Fault Refusal := .next (opPref x s)

/-- CMAINT_WB (R222). -/
def execCmaintWb (x : FormX) (s : State) : Host.Outcome State Fault Refusal := .next (opCmaintWb x s)

/-- CMAINT_WBINV (R222). -/
def execCmaintWbinv (x : FormX) (s : State) : Host.Outcome State Fault Refusal := .next (opCmaintWb x s)

/-- CMAINT_MERGE (R222). -/
def execCmaintMerge (x : FormX) (s : State) : Host.Outcome State Fault Refusal := .next (opCmaintMerge x s)

/-- CMAINT_ZERO (R222). -/
def execCmaintZero (x : FormX) (s : State) : Host.Outcome State Fault Refusal := .next (opCmaintZero x s)

/-- JDECL (R226). -/
def execJdecl (x : FormX) (s : State) : Host.Outcome State Fault Refusal := .next (opJdecl x s)

/-- JFREE (R228). -/
def execJfree (x : FormX) (s : State) : Host.Outcome State Fault Refusal := .next (opJfree x s)

/-- MMA (R232). -/
def execMma (x : FormX) (s : State) : Host.Outcome State Fault Refusal := .next (opMma x s)

/-- TACQ (R237). -/
def execTacq (x : FormX) (s : State) : Host.Outcome State Fault Refusal := .next (opTacq x s)

/-- TREL (R237). -/
def execTrel (x : FormX) (s : State) : Host.Outcome State Fault Refusal := .next (opTrel x s)

/-- SMXINIT (R240). -/
def execSmxinit (x : FormX) (s : State) : Host.Outcome State Fault Refusal := .next (opSmxinit x s)

/-- SMXUPD (R243). -/
def execSmxupd (x : FormX) (s : State) : Host.Outcome State Fault Refusal := .next (opSmxupd x s)

/-- SMXMRG (R244). -/
def execSmxmrg (x : FormX) (s : State) : Host.Outcome State Fault Refusal := .next (opSmxmrg x s)

/-- SMXFIN (R245). -/
def execSmxfin (x : FormX) (s : State) : Host.Outcome State Fault Refusal := .next (opSmxfin x s)

/-- SEND (R274). -/
def execSend (x : FormX) (s : State) : Host.Outcome State Fault Refusal := .next (opSend x s)

/-- RPOST (R278). -/
def execRpost (x : FormX) (s : State) : Host.Outcome State Fault Refusal := .next (opRpost x s)

/-- RCANCEL (R286). -/
def execRcancel (x : FormX) (s : State) : Host.Outcome State Fault Refusal := .next (opRcancel x s)

/-- RPROBE (R287). -/
def execRprobe (x : FormX) (s : State) : Host.Outcome State Fault Refusal := .next (opRprobe x s)

/-- WPOST (R271). -/
def execWpost (x : FormX) (s : State) : Host.Outcome State Fault Refusal := .next (opWpost x s)

/-- RRED (R268). -/
def execRred (x : FormX) (s : State) : Host.Outcome State Fault Refusal := .next (opRred x s)

/-- FSTAT (R287). -/
def execFstat (x : FormX) (s : State) : Host.Outcome State Fault Refusal := .next (opFstat x s)

end Sys2Proof.Machine
end

