-- ==== Sys2Proof/Machine/Dispatch.lean ====
section
/-! DEFINITION. Dispatch: one arm per constructor of `Instr`, each one call of its meaning. -/

namespace Sys2Proof.Machine

open Sys2Proof

def exec (i : Instr) (s : State) : Host.Outcome State Fault Refusal :=
  match i with
  | .c16Mov sw d r => Sys2Proof.Machine.execC16Mov sw d r s
  | .c16Add sw d r => Sys2Proof.Machine.execC16Add sw d r s
  | .c16Sub sw d r => Sys2Proof.Machine.execC16Sub sw d r s
  | .c16Mul sw d r => Sys2Proof.Machine.execC16Mul sw d r s
  | .c16And sw d r => Sys2Proof.Machine.execC16And sw d r s
  | .c16Or sw d r => Sys2Proof.Machine.execC16Or sw d r s
  | .c16Xor sw d r => Sys2Proof.Machine.execC16Xor sw d r s
  | .c16Shl sw d r => Sys2Proof.Machine.execC16Shl sw d r s
  | .c16Shr sw d r => Sys2Proof.Machine.execC16Shr sw d r s
  | .c16Sar sw d r => Sys2Proof.Machine.execC16Sar sw d r s
  | .c16Addi sw d imm => Sys2Proof.Machine.execC16Addi sw d imm s
  | .c16Movi sw d imm => Sys2Proof.Machine.execC16Movi sw d imm s
  | .c16Fadd sw d r => Sys2Proof.Machine.execC16Fadd sw d r s
  | .c16Fmul sw d r => Sys2Proof.Machine.execC16Fmul sw d r s
  | .c16Fmax sw d r => Sys2Proof.Machine.execC16Fmax sw d r s
  | .c16Fmin sw d r => Sys2Proof.Machine.execC16Fmin sw d r s
  | .bra sw off => Sys2Proof.Machine.execBra sw off s
  | .call sw off => Sys2Proof.Machine.execCall sw off s
  | .bc sw off neg p => Sys2Proof.Machine.execBc sw off neg p s
  | .ctrlNop sw => Sys2Proof.Machine.execCtrlNop sw s
  | .ctrlRet sw => Sys2Proof.Machine.execCtrlRet sw s
  | .ctrlExit sw => Sys2Proof.Machine.execCtrlExit sw s
  | .ctrlYield sw => Sys2Proof.Machine.execCtrlYield sw s
  | .ctrlBrk sw => Sys2Proof.Machine.execCtrlBrk sw s
  | .trap sw code => Sys2Proof.Machine.execTrap sw code s
  | .jtab sw n a => Sys2Proof.Machine.execJtab sw n a s
  | .ctab sw n a => Sys2Proof.Machine.execCtab sw n a s
  | .plog f => Sys2Proof.Machine.execPlog f s
  | .vote f => Sys2Proof.Machine.execVote f s
  | .matchPeers f => Sys2Proof.Machine.execMatchPeers f s
  | .elect sw d => Sys2Proof.Machine.execElect sw d s
  | .wresize sw m d => Sys2Proof.Machine.execWresize sw m d s
  | .wsyncWarp sw => Sys2Proof.Machine.execWsyncWarp sw s
  | .wsyncMask sw a => Sys2Proof.Machine.execWsyncMask sw a s
  | .bar sw lv cnt id => Sys2Proof.Machine.execBar sw lv cnt id s
  | .spawn sw a => Sys2Proof.Machine.execSpawn sw a s
  | .spawnExit sw a => Sys2Proof.Machine.execSpawnExit sw a s
  | .reggrow sw n d => Sys2Proof.Machine.execReggrow sw n d s
  | .regshrink sw n => Sys2Proof.Machine.execRegshrink sw n s
  | .movs sw num d => Sys2Proof.Machine.execMovs sw num d s
  | .iadd f => Sys2Proof.Machine.execIadd f s
  | .imul f => Sys2Proof.Machine.execImul f s
  | .iminmax f => Sys2Proof.Machine.execIminmax f s
  | .logic f => Sys2Proof.Machine.execLogic f s
  | .shift f => Sys2Proof.Machine.execShift f s
  | .iunary f => Sys2Proof.Machine.execIunary f s
  | .iset f => Sys2Proof.Machine.execIset f s
  | .iaddi f => Sys2Proof.Machine.execIaddi f s
  | .andi f => Sys2Proof.Machine.execAndi f s
  | .ori f => Sys2Proof.Machine.execOri f s
  | .xori f => Sys2Proof.Machine.execXori f s
  | .shifti sw k h a d => Sys2Proof.Machine.execShifti sw k h a d s
  | .movi f => Sys2Proof.Machine.execMovi f s
  | .movhi f => Sys2Proof.Machine.execMovhi f s
  | .lea f => Sys2Proof.Machine.execLea f s
  | .bfx f => Sys2Proof.Machine.execBfx f s
  | .bfi sw b a d => Sys2Proof.Machine.execBfi sw b a d s
  | .idiv f => Sys2Proof.Machine.execIdiv f s
  | .fadd f => Sys2Proof.Machine.execFadd f s
  | .fmul f => Sys2Proof.Machine.execFmul f s
  | .fset f => Sys2Proof.Machine.execFset f s
  | .func f => Sys2Proof.Machine.execFunc f s
  | .cvtfi f => Sys2Proof.Machine.execCvtfi f s
  | .cvtif f => Sys2Proof.Machine.execCvtif f s
  | .hop f => Sys2Proof.Machine.execHop f s
  | .shfl f => Sys2Proof.Machine.execShfl f s
  | .wred f => Sys2Proof.Machine.execWred f s
  | .wscan f => Sys2Proof.Machine.execWscan f s
  | .ld32 f => Sys2Proof.Machine.execLd32 f s
  | .ld128 f => Sys2Proof.Machine.execLd128 f s
  | .st32 f => Sys2Proof.Machine.execSt32 f s
  | .st128 f => Sys2Proof.Machine.execSt128 f s
  | .movf sw w f d => Sys2Proof.Machine.execMovf sw w f d s
  | .eret sw => Sys2Proof.Machine.execEret sw s
  | .ctlrd sw num d => Sys2Proof.Machine.execCtlrd sw num d s
  | .ctlwr sw num a => Sys2Proof.Machine.execCtlwr sw num a s
  | .pginvPage sw a => Sys2Proof.Machine.execPginvPage sw a s
  | .pginvContext sw => Sys2Proof.Machine.execPginvContext sw s
  | .idle sw => Sys2Proof.Machine.execIdle sw s
  | .ffma x => Sys2Proof.Machine.execFfma x s
  | .imad x => Sys2Proof.Machine.execImad x s
  | .sel x => Sys2Proof.Machine.execSel x s
  | .hfma x => Sys2Proof.Machine.execHfma x s
  | .idp4 x => Sys2Proof.Machine.execIdp4 x s
  | .iadd64 x => Sys2Proof.Machine.execIadd64 x s
  | .lea64 x => Sys2Proof.Machine.execLea64 x s
  | .iset64 x => Sys2Proof.Machine.execIset64 x s
  | .movx x => Sys2Proof.Machine.execMovx x s
  | .wide x => Sys2Proof.Machine.execWide x s
  | .cvt x => Sys2Proof.Machine.execCvt x s
  | .qnt x => Sys2Proof.Machine.execQnt x s
  | .dqn x => Sys2Proof.Machine.execDqn x s
  | .amax x => Sys2Proof.Machine.execAmax x s
  | .scof x => Sys2Proof.Machine.execScof x s
  | .rscl x => Sys2Proof.Machine.execRscl x s
  | .rhad x => Sys2Proof.Machine.execRhad x s
  | .rand x => Sys2Proof.Machine.execRand x s
  | .npack x => Sys2Proof.Machine.execNpack x s
  | .nunpk x => Sys2Proof.Machine.execNunpk x s
  | .talloc x => Sys2Proof.Machine.execTalloc x s
  | .tfree x => Sys2Proof.Machine.execTfree x s
  | .tstat x => Sys2Proof.Machine.execTstat x s
  | .twait x => Sys2Proof.Machine.execTwait x s
  | .tld x => Sys2Proof.Machine.execTld x s
  | .tst x => Sys2Proof.Machine.execTst x s
  | .tfill x => Sys2Proof.Machine.execTfill x s
  | .tsetEmpty x => Sys2Proof.Machine.execTsetEmpty x s
  | .tsetReady x => Sys2Proof.Machine.execTsetReady x s
  | .cpyin x => Sys2Proof.Machine.execCpyin x s
  | .cpyout x => Sys2Proof.Machine.execCpyout x s
  | .cpytt x => Sys2Proof.Machine.execCpytt x s
  | .cpygg x => Sys2Proof.Machine.execCpygg x s
  | .stash x => Sys2Proof.Machine.execStash x s
  | .ld x => Sys2Proof.Machine.execLd x s
  | .st x => Sys2Proof.Machine.execSt x s
  | .pst x => Sys2Proof.Machine.execPst x s
  | .pld x => Sys2Proof.Machine.execPld x s
  | .atom x => Sys2Proof.Machine.execAtom x s
  | .atomcas x => Sys2Proof.Machine.execAtomcas x s
  | .red x => Sys2Proof.Machine.execRed x s
  | .tatom x => Sys2Proof.Machine.execTatom x s
  | .tred x => Sys2Proof.Machine.execTred x s
  | .waita x => Sys2Proof.Machine.execWaita x s
  | .fence x => Sys2Proof.Machine.execFence x s
  | .qwait x => Sys2Proof.Machine.execQwait x s
  | .qread x => Sys2Proof.Machine.execQread x s
  | .qadv x => Sys2Proof.Machine.execQadv x s
  | .pref x => Sys2Proof.Machine.execPref x s
  | .cmaintWb x => Sys2Proof.Machine.execCmaintWb x s
  | .cmaintWbinv x => Sys2Proof.Machine.execCmaintWbinv x s
  | .cmaintMerge x => Sys2Proof.Machine.execCmaintMerge x s
  | .cmaintZero x => Sys2Proof.Machine.execCmaintZero x s
  | .jdecl x => Sys2Proof.Machine.execJdecl x s
  | .jfree x => Sys2Proof.Machine.execJfree x s
  | .mma x => Sys2Proof.Machine.execMma x s
  | .tacq x => Sys2Proof.Machine.execTacq x s
  | .trel x => Sys2Proof.Machine.execTrel x s
  | .smxinit x => Sys2Proof.Machine.execSmxinit x s
  | .smxupd x => Sys2Proof.Machine.execSmxupd x s
  | .smxmrg x => Sys2Proof.Machine.execSmxmrg x s
  | .smxfin x => Sys2Proof.Machine.execSmxfin x s
  | .send x => Sys2Proof.Machine.execSend x s
  | .rpost x => Sys2Proof.Machine.execRpost x s
  | .rcancel x => Sys2Proof.Machine.execRcancel x s
  | .rprobe x => Sys2Proof.Machine.execRprobe x s
  | .wpost x => Sys2Proof.Machine.execWpost x s
  | .rred x => Sys2Proof.Machine.execRred x s
  | .fstat x => Sys2Proof.Machine.execFstat x s
  | .resultWriteback bid ti rid => Sys2Proof.Machine.execResultWriteback bid ti rid s
  | .warpExchange die core part idx => Sys2Proof.Machine.execWarpExchange die core part idx s
  | .warpQuantumExpire die core part idx => Sys2Proof.Machine.execWarpQuantumExpire die core part idx s
  | .waitaWake bid ti => Sys2Proof.Machine.execWaitaWake bid ti s
  | .waitaDeadline bid ti => Sys2Proof.Machine.execWaitaDeadline bid ti s
  | .watchFilterClear slice bay => Sys2Proof.Machine.execWatchFilterClear slice bay s
  | .idleTimeout bid ti => Sys2Proof.Machine.execIdleTimeout bid ti s
  | .churnMerge line => Sys2Proof.Machine.execChurnMerge line s
  | .mcArrival cid dst => Sys2Proof.Machine.execMcArrival cid dst s
  | .landingAcceptAfterDrain cid dst => Sys2Proof.Machine.execLandingAcceptAfterDrain cid dst s
  | .copyComplete cid => Sys2Proof.Machine.execCopyComplete cid s
  | .matrixQueueEnter die core => Sys2Proof.Machine.execMatrixQueueEnter die core s
  | .matrixOpComplete die core => Sys2Proof.Machine.execMatrixOpComplete die core s
  | .flitReceive port flit => Sys2Proof.Machine.execFlitReceive port flit s
  | .laneRetrain port lane trained => Sys2Proof.Machine.execLaneRetrain port lane trained s
  | .packetDeliver pkt => Sys2Proof.Machine.execPacketDeliver pkt s
  | .dirInvalidate line ep => Sys2Proof.Machine.execDirInvalidate line ep s
  | .reductionHop win off round leaf => Sys2Proof.Machine.execReductionHop win off round leaf s
  | .finalHop rid => Sys2Proof.Machine.execFinalHop rid s
  | .counterAdvanceArrive aid => Sys2Proof.Machine.execCounterAdvanceArrive aid s
  | .workEntryFire eid => Sys2Proof.Machine.execWorkEntryFire eid s
  | .workEntryDone eid => Sys2Proof.Machine.execWorkEntryDone eid s
  | .msgArrive mid => Sys2Proof.Machine.execMsgArrive mid s
  | .msgRetry mid => Sys2Proof.Machine.execMsgRetry mid s
  | .rendezvousPull mid => Sys2Proof.Machine.execRendezvousPull mid s
  | .receiveComplete rid => Sys2Proof.Machine.execReceiveComplete rid s
  | .sendComplete mid => Sys2Proof.Machine.execSendComplete mid s
  | .rcancelAnswer bid ti => Sys2Proof.Machine.execRcancelAnswer bid ti s
  | .graphFetch die q => Sys2Proof.Machine.execGraphFetch die q s
  | .graphResident die q => Sys2Proof.Machine.execGraphResident die q s
  | .nodeStart die q node => Sys2Proof.Machine.execNodeStart die q node s
  | .nodeDone die q node => Sys2Proof.Machine.execNodeDone die q node s
  | .graphEnd die q => Sys2Proof.Machine.execGraphEnd die q s
  | .clusterAdmit launch pl => Sys2Proof.Machine.execClusterAdmit launch pl s
  | .blockEnd bid => Sys2Proof.Machine.execBlockEnd bid s
  | .launchEnd launch => Sys2Proof.Machine.execLaunchEnd launch s
  | .spawnCrewForm launch die entry => Sys2Proof.Machine.execSpawnCrewForm launch die entry s
  | .spawnGatherTimeout launch die => Sys2Proof.Machine.execSpawnGatherTimeout launch die s
  | .blockSave bid cause => Sys2Proof.Machine.execBlockSave bid cause s
  | .saveSlotGrant die => Sys2Proof.Machine.execSaveSlotGrant die s
  | .blockRestore bid => Sys2Proof.Machine.execBlockRestore bid s
  | .watchdogExpire ctx die => Sys2Proof.Machine.execWatchdogExpire ctx die s
  | .handlerEntry bid ti => Sys2Proof.Machine.execHandlerEntry bid ti s
  | .lateFailureDelivery bid ti => Sys2Proof.Machine.execLateFailureDelivery bid ti s
  | .reportWrite ctx => Sys2Proof.Machine.execReportWrite ctx s
  | .repactResume ctx idx => Sys2Proof.Machine.execRepactResume ctx idx s
  | .repactAbandon ctx idx => Sys2Proof.Machine.execRepactAbandon ctx idx s
  | .ctxCreate fn ctx job => Sys2Proof.Machine.execCtxCreate fn ctx job s
  | .ctxDestroy fn ctx => Sys2Proof.Machine.execCtxDestroy fn ctx s
  | .ctxSuspend fn ctx => Sys2Proof.Machine.execCtxSuspend fn ctx s
  | .ctxResume fn ctx => Sys2Proof.Machine.execCtxResume fn ctx s
  | .wake fn => Sys2Proof.Machine.execWake fn s
  | .intstatClear fn val => Sys2Proof.Machine.execIntstatClear fn val s
  | .svcreqClear fn val => Sys2Proof.Machine.execSvcreqClear fn val s
  | .winvaWrite fn val => Sys2Proof.Machine.execWinvaWrite fn val s
  | .doorbell fn die q tail => Sys2Proof.Machine.execDoorbell fn die q tail s
  | .queueDescWrite fn die q desc => Sys2Proof.Machine.execQueueDescWrite fn die q desc s
  | .queueDisable die q => Sys2Proof.Machine.execQueueDisable die q s
  | .carveWrite fn die rec => Sys2Proof.Machine.execCarveWrite fn die rec s
  | .islctlWrite fn island val => Sys2Proof.Machine.execIslctlWrite fn island val s
  | .onceclr fn die => Sys2Proof.Machine.execOnceclr fn die s
  | .ctlRegWrite fn num die val => Sys2Proof.Machine.execCtlRegWrite fn num die val s
  | .apertureRead fn off size => Sys2Proof.Machine.execApertureRead fn off size s
  | .apertureWrite fn off size val => Sys2Proof.Machine.execApertureWrite fn off size val s
  | .readbackRead rd => Sys2Proof.Machine.execReadbackRead rd s
  | .reset => Sys2Proof.Machine.execReset s
  | .bootVerify => Sys2Proof.Machine.execBootVerify s
  | .attestRequest nonce => Sys2Proof.Machine.execAttestRequest nonce s
  | .attestComplete => Sys2Proof.Machine.execAttestComplete s
  | .ptpMessage offset => Sys2Proof.Machine.execPtpMessage offset s
  | .powerSample coreAmps above15us avg isl => Sys2Proof.Machine.execPowerSample coreAmps above15us avg isl s
  | .clockStepDown island => Sys2Proof.Machine.execClockStepDown island s
  | .clockStepUp island => Sys2Proof.Machine.execClockStepUp island s
  | .thermalShutdown island => Sys2Proof.Machine.execThermalShutdown island s
  | .scrub line error => Sys2Proof.Machine.execScrub line error s
  | .coreFail core logic => Sys2Proof.Machine.execCoreFail core logic s
  | .spareEngage die half => Sys2Proof.Machine.execSpareEngage die half s
  | .hbmRowRemap stack bank row => Sys2Proof.Machine.execHbmRowRemap stack bank row s
  | .channelFail stack channel => Sys2Proof.Machine.execChannelFail stack channel s
  | .functionReady word => Sys2Proof.Machine.execFunctionReady word s
  | .decodeTrap fault => Sys2Proof.Machine.execDecodeTrap fault s
  | .lineLanded cid dst unit => Sys2Proof.Machine.execLineLanded cid dst unit s
  | .storeQueueDrain bid wi => Sys2Proof.Machine.execStoreQueueDrain bid wi s
  | .softError site corrected => Sys2Proof.Machine.execSoftError site corrected s
  | .junctionAbove105 island => Sys2Proof.Machine.execJunctionAbove105 island s

end Sys2Proof.Machine
end

