-- ==== Sys2Proof/Decode.lean ====
section
/-! DEFINITION. Decoding (R32 to R48) of any bytes into an instruction, with a rejection by name, and the encoder
written from the same tables. A field that only restricts an instruction's operands is kept as it stands: its
signature (Machine/Sig.lean) gives the decode trap. -/

namespace Sys2Proof

/-- Bits [lo + n − 1 : lo] of a word (R1). -/
def cut (w lo n : Nat) : Nat := w / 2 ^ lo % 2 ^ n

/-- A field of a word as a bit vector. -/
def cutBv (w lo n : Nat) : BitVec n := BitVec.ofNat n (cut w lo n)

/-- One bit of a word. -/
def cutBit (w lo : Nat) : Bool := cut w lo 1 == 1

/-- A 1-bit field. -/
def bit (b : Bool) : Nat := if b then 1 else 0

/-- The length in bytes that bits [1:0] of the first halfword fix (R32). -/
def lenOf (h : Nat) : Nat := if h % 4 = 1 then 4 else if h % 4 = 3 then 8 else 2

/-- A word that encodes no instruction (R47): the ILLOP subcode, and whether its major is a privileged one. -/
def illop (sub : Nat) (sys : Bool) : FetchFault := { code := .illop, sub := sub, addr := 0, sys := sys }

/-- A word of an assigned major whose fixed fields do not match: its minor is unassigned (R47 step 4), or a reserved
field is not zero (step 5). -/
def refuse (w limit : Nat) : FetchFault ⊕ Instr :=
  .inl (illop (if limit ≤ cut w 28 4 then 2 else 3) (0x70 ≤ cut w 3 7))

/-! ### The forms (R34, R36, R39, R40) -/

def formA (w : Nat) : FormA :=
  { sw := cutBit w 2, m := cutBv w 28 4, b := cutBv w 22 6, a := cutBv w 16 6, d := cutBv w 10 6 }
def formU (w : Nat) : FormU := { sw := cutBit w 2, m := cutBv w 28 4, a := cutBv w 16 6, d := cutBv w 10 6 }
def formB (w : Nat) : FormB := { sw := cutBit w 2, imm := cutBv w 22 10, a := cutBv w 16 6, d := cutBv w 10 6 }
def formC (w : Nat) : FormC := { sw := cutBit w 2, imm := cutBv w 16 16, d := cutBv w 10 6 }
def formX (w : Nat) : FormX :=
  { sw := cutBit w 2, g := cutBv w 10 3, ng := cutBit w 13, d := cutBv w 14 8, a := cutBv w 22 8, b := cutBv w 30 8,
    c := cutBv w 38 8, m := cutBv w 46 18 }
def formI (w : Nat) : FormI :=
  { sw := cutBit w 2, g := cutBv w 10 3, ng := cutBit w 13, d := cutBv w 14 8, a := cutBv w 22 8, kind := cutBv w 30 2,
    imm := cutBv w 32 32 }

/-- An instruction, where its fixed fields match. -/
def when (c : Bool) (i : Instr) (w limit : Nat) : FetchFault ⊕ Instr := if c then .inr i else refuse w limit

/-! ### C16 (R34, R35) -/

def decode16 (w : Nat) : FetchFault ⊕ Instr :=
  let sw := cutBit w 1
  let d := cutBv w 6 5
  let r := cutBv w 11 5
  match cut w 2 4 with
  | 0 => .inr (.c16Mov sw d r)
  | 1 => .inr (.c16Add sw d r)
  | 2 => .inr (.c16Sub sw d r)
  | 3 => .inr (.c16Mul sw d r)
  | 4 => .inr (.c16And sw d r)
  | 5 => .inr (.c16Or sw d r)
  | 6 => .inr (.c16Xor sw d r)
  | 7 => .inr (.c16Shl sw d r)
  | 8 => .inr (.c16Shr sw d r)
  | 9 => .inr (.c16Sar sw d r)
  | 10 => .inr (.c16Addi sw d r)
  | 11 => .inr (.c16Movi sw d r)
  | 12 => .inr (.c16Fadd sw d r)
  | 13 => .inr (.c16Fmul sw d r)
  | 14 => .inr (.c16Fmax sw d r)
  | _ => .inr (.c16Fmin sw d r)

/-! ### W32 (R36, R45) -/

def decode32 (w : Nat) : FetchFault ⊕ Instr :=
  let sw := cutBit w 2
  match cut w 3 7 with
  | 0x01 => .inr (.bra sw (cutBv w 10 22))
  | 0x02 => .inr (.call sw (cutBv w 10 22))
  | 0x03 => .inr (.bc sw (cutBv w 14 18) (cutBit w 13) (cutBv w 10 3))
  | 0x04 => (match cut w 10 22 with
    | 0 => .inr (.ctrlNop sw)
    | 0x40000 => .inr (.ctrlRet sw)
    | 0x80000 => .inr (.ctrlExit sw)
    | 0xC0000 => .inr (.ctrlYield sw)
    | 0x100000 => .inr (.ctrlBrk sw)
    | _ => refuse w 5)
  | 0x05 => when (cut w 10 6 == 0) (.trap sw (cutBv w 16 16)) w 16
  | 0x06 => when (cut w 10 6 == 0) (.jtab sw (cutBv w 22 10) (cutBv w 16 6)) w 16
  | 0x07 => when (cut w 10 6 == 0) (.ctab sw (cutBv w 22 10) (cutBv w 16 6)) w 16
  | 0x08 => .inr (.plog (formA w))
  | 0x09 => when (cut w 22 6 == 0) (.vote (formU w)) w 5
  | 0x0A => .inr (.matchPeers (formA w))
  | 0x0B => when (cut w 16 16 == 0) (.elect sw (cutBv w 10 6)) w 1
  | 0x0C => when (cut w 30 2 == 0 && cut w 16 12 == 0) (.wresize sw (cutBv w 28 2) (cutBv w 10 6)) w 4
  | 0x0D => (match cut w 28 4 with
    | 0 => when (cut w 10 18 == 0) (.wsyncWarp sw) w 2
    | 1 => when (cut w 22 6 == 0 && cut w 10 6 == 0) (.wsyncMask sw (cutBv w 16 6)) w 2
    | _ => refuse w 2)
  | 0x0E => .inr (.bar sw (cutBv w 30 2) (cutBv w 16 14) (cutBv w 10 6))
  | 0x0F => (match cut w 28 4 with
    | 0 => when (cut w 22 6 == 0 && cut w 10 6 == 0) (.spawn sw (cutBv w 16 6)) w 2
    | 1 => when (cut w 22 6 == 0 && cut w 10 6 == 0) (.spawnExit sw (cutBv w 16 6)) w 2
    | _ => refuse w 2)
  | 0x10 => when (cut w 24 8 == 0) (.reggrow sw (cutBv w 16 8) (cutBv w 10 6)) w 16
  | 0x11 => when (cut w 24 8 == 0 && cut w 10 6 == 0) (.regshrink sw (cutBv w 16 8)) w 16
  | 0x12 => when (cut w 16 6 == 0) (.movs sw (cutBv w 22 10) (cutBv w 10 6)) w 16
  | 0x20 => .inr (.iadd (formA w))
  | 0x21 => .inr (.imul (formA w))
  | 0x22 => .inr (.iminmax (formA w))
  | 0x23 => .inr (.logic (formA w))
  | 0x24 => .inr (.shift (formA w))
  | 0x25 => when (cut w 22 6 == 0) (.iunary (formU w)) w 10
  | 0x26 => .inr (.iset (formA w))
  | 0x27 => .inr (.iaddi (formB w))
  | 0x28 => .inr (.andi (formB w))
  | 0x29 => .inr (.ori (formB w))
  | 0x2A => .inr (.xori (formB w))
  | 0x2B => when (cut w 30 2 == 0) (.shifti sw (cutBv w 27 3) (cutBv w 22 5) (cutBv w 16 6) (cutBv w 10 6)) w 16
  | 0x2C => .inr (.movi (formC w))
  | 0x2D => .inr (.movhi (formC w))
  | 0x2E => .inr (.lea (formA w))
  | 0x2F => .inr (.bfx (formA w))
  | 0x30 => when (cut w 28 4 == 0) (.bfi sw (cutBv w 22 6) (cutBv w 16 6) (cutBv w 10 6)) w 1
  | 0x31 => .inr (.idiv (formA w))
  | 0x38 => .inr (.fadd (formA w))
  | 0x39 => .inr (.fmul (formA w))
  | 0x3A => .inr (.fset (formA w))
  | 0x3B => when (cut w 22 6 == 0) (.func (formU w)) w 8
  | 0x3C => when (cut w 22 6 == 0) (.cvtfi (formU w)) w 4
  | 0x3D => when (cut w 22 6 == 0) (.cvtif (formU w)) w 2
  | 0x3E => .inr (.hop (formA w))
  | 0x40 => .inr (.shfl (formA w))
  | 0x41 => when (cut w 22 6 == 0) (.wred (formU w)) w 12
  | 0x42 => when (cut w 22 6 == 0) (.wscan (formU w)) w 4
  | 0x48 => .inr (.ld32 (formB w))
  | 0x49 => .inr (.ld128 (formB w))
  | 0x4A => .inr (.st32 (formB w))
  | 0x4B => .inr (.st128 (formB w))
  | 0x50 => when (cut w 26 6 == 0 && cut w 16 6 == 0) (.movf sw (cutBit w 25) (cutBv w 22 3) (cutBv w 10 6)) w 16
  | 0x70 => when (cut w 10 22 == 0) (.eret sw) w 1
  | 0x71 => when (cut w 16 6 == 0) (.ctlrd sw (cutBv w 22 10) (cutBv w 10 6)) w 16
  | 0x72 => when (cut w 10 6 == 0) (.ctlwr sw (cutBv w 22 10) (cutBv w 16 6)) w 16
  | 0x73 => (match cut w 28 4 with
    | 0 => when (cut w 22 6 == 0 && cut w 10 6 == 0) (.pginvPage sw (cutBv w 16 6)) w 2
    | 1 => when (cut w 10 18 == 0) (.pginvContext sw) w 2
    | _ => refuse w 2)
  | 0x74 => when (cut w 10 22 == 0) (.idle sw) w 1
  | _ => .inl (illop 1 false)

/-! ### X64 (R39, R40, R46) -/

def decode64 (w : Nat) : FetchFault ⊕ Instr :=
  let x := formX w
  match cut w 3 7 with
  | 0x01 => .inr (.ffma x)
  | 0x02 => .inr (.imad x)
  | 0x03 => .inr (.sel x)
  | 0x04 => .inr (.hfma x)
  | 0x05 => .inr (.idp4 x)
  | 0x06 => .inr (.iadd64 x)
  | 0x07 => .inr (.lea64 x)
  | 0x08 => .inr (.iset64 x)
  | 0x09 => .inr (.movx (formI w))
  | 0x0A => .inr (.wide x)
  | 0x10 => .inr (.cvt x)
  | 0x11 => .inr (.qnt x)
  | 0x12 => .inr (.dqn x)
  | 0x13 => .inr (.amax x)
  | 0x14 => .inr (.scof x)
  | 0x15 => .inr (.rscl x)
  | 0x16 => .inr (.rhad x)
  | 0x17 => .inr (.rand x)
  | 0x18 => .inr (.npack x)
  | 0x19 => .inr (.nunpk x)
  | 0x20 => .inr (.talloc x)
  | 0x21 => .inr (.tfree x)
  | 0x22 => .inr (.tstat x)
  | 0x23 => .inr (.twait x)
  | 0x24 => .inr (.tld x)
  | 0x25 => .inr (.tst x)
  | 0x26 => .inr (.tfill x)
  | 0x27 => (match cut w 46 2 with
    | 0 => .inr (.tsetEmpty x)
    | 1 => .inr (.tsetReady x)
    | _ => .inl (illop 3 false))
  | 0x28 => .inr (.cpyin x)
  | 0x29 => .inr (.cpyout x)
  | 0x2A => .inr (.cpytt x)
  | 0x2B => .inr (.cpygg x)
  | 0x2C => .inr (.stash x)
  | 0x30 => .inr (.ld x)
  | 0x31 => .inr (.st x)
  | 0x32 => .inr (.pst x)
  | 0x33 => .inr (.pld x)
  | 0x34 => .inr (.atom x)
  | 0x35 => .inr (.atomcas x)
  | 0x36 => .inr (.red x)
  | 0x37 => .inr (.tatom x)
  | 0x38 => .inr (.tred x)
  | 0x39 => .inr (.waita x)
  | 0x3A => .inr (.fence x)
  | 0x3B => .inr (.qwait x)
  | 0x3C => .inr (.qread x)
  | 0x3D => .inr (.qadv x)
  | 0x3E => .inr (.pref x)
  | 0x3F => (match cut w 46 2 with
    | 0 => .inr (.cmaintWb x)
    | 1 => .inr (.cmaintWbinv x)
    | 2 => .inr (.cmaintMerge x)
    | _ => .inr (.cmaintZero x))
  | 0x48 => .inr (.jdecl x)
  | 0x49 => .inr (.jfree x)
  | 0x4A => .inr (.mma x)
  | 0x4B => .inr (.tacq x)
  | 0x4C => .inr (.trel x)
  | 0x4D => .inr (.smxinit x)
  | 0x4E => .inr (.smxupd x)
  | 0x4F => .inr (.smxmrg x)
  | 0x50 => .inr (.smxfin x)
  | 0x58 => .inr (.send x)
  | 0x59 => .inr (.rpost x)
  | 0x5A => .inr (.rcancel x)
  | 0x5B => .inr (.rprobe x)
  | 0x5C => .inr (.wpost x)
  | 0x5D => .inr (.rred x)
  | 0x5E => .inr (.fstat x)
  | _ => .inl (illop 1 false)

/-- The instruction that the low bits of a word encode (R32). -/
def decodeWord (w : Nat) : FetchFault ⊕ Instr :=
  if w % 4 = 1 then decode32 w else if w % 4 = 3 then decode64 w else decode16 w

/-- A little-endian number from bytes, lowest address first (R2). -/
def leBytes : List Byte → Nat
  | [] => 0
  | b :: bs => b.toNat + 256 * leBytes bs

/-- Why bytes give no instruction: too few of them for the length that they announce, or a word that encodes none. -/
inductive DecodeRefusal where
  | tooShort
  | trap (f : FetchFault)
  deriving DecidableEq, Repr

/-- Decode the instruction at the head of a list of bytes, with the bytes that follow it (R2, R32). -/
def decode (bs : List Byte) : DecodeRefusal ⊕ (Instr × List Byte) :=
  match bs with
  | b0 :: _ :: _ =>
    let n := lenOf b0.toNat
    if bs.length < n then .inl .tooShort
    else match decodeWord (leBytes (bs.take n)) with
    | .inl f => .inl (.trap f)
    | .inr i => .inr (i, bs.drop n)
  | _ => .inl .tooShort

/-- The `n` lowest bytes of a word as the hardware stores them (R2). -/
def layBytes : Nat → Nat → List Byte
  | 0, _ => []
  | n + 1, w => BitVec.ofNat 8 w :: layBytes n (w / 256)

/-- The instruction that the decoder reads from the low `nbits` of `w`, every bit above them zero. -/
def decodeTableWord (nbits w : Nat) : Option Instr :=
  match decode (layBytes 8 (w % 2 ^ nbits)) with
  | .inr (i, _) => some i
  | .inl _ => none

/-! ### The encoder -/

def enc16 (sw : Bool) (op d r : Nat) : Nat := 2 * bit sw + 4 * op + 64 * d + 2048 * r
/-- Bits [9:0] of a W32 word, with the fields above them (R36). -/
def enc32 (sw : Bool) (mj hi : Nat) : Nat := 1 + 4 * bit sw + 8 * mj + 1024 * hi
def encA (mj : Nat) (f : FormA) : Nat := enc32 f.sw mj (f.d.toNat + 64 * f.a.toNat + 4096 * f.b.toNat + 262144 * f.m.toNat)
def encU (mj : Nat) (f : FormU) : Nat := enc32 f.sw mj (f.d.toNat + 64 * f.a.toNat + 262144 * f.m.toNat)
def encB (mj : Nat) (f : FormB) : Nat := enc32 f.sw mj (f.d.toNat + 64 * f.a.toNat + 4096 * f.imm.toNat)
def encC (mj : Nat) (f : FormC) : Nat := enc32 f.sw mj (f.d.toNat + 64 * f.imm.toNat)
/-- A W32 word from its fields d, a, b and minor. -/
def encF (sw : Bool) (mj d a b m : Nat) : Nat := enc32 sw mj (d + 64 * a + 4096 * b + 262144 * m)
def encX (mj : Nat) (x : FormX) : Nat :=
  3 + 4 * bit x.sw + 8 * mj + 1024 * x.g.toNat + 8192 * bit x.ng + 16384 * x.d.toNat + 4194304 * x.a.toNat +
    1073741824 * x.b.toNat + 274877906944 * x.c.toNat + 70368744177664 * x.m.toNat
def encI (mj : Nat) (x : FormI) : Nat :=
  3 + 4 * bit x.sw + 8 * mj + 1024 * x.g.toNat + 8192 * bit x.ng + 16384 * x.d.toNat + 4194304 * x.a.toNat +
    1073741824 * x.kind.toNat + 4294967296 * x.imm.toNat

/-- An X64 word whose operation stands in bits [47:46] of the modifier. -/
def encOp (mj op : Nat) (x : FormX) : Option (Nat × Nat) := if x.m.toNat % 4 = op then some (64, encX mj x) else none

/-- The length in bits and the word of an instruction (R34 to R46). An engine or host step has none, nor has a `tset`
or `cmaint` operation whose modifier holds another operation's number. -/
def encode (i : Instr) : Option (Nat × Nat) :=
  match i with
  | .c16Mov sw d r => some (16, enc16 sw 0 d.toNat r.toNat)
  | .c16Add sw d r => some (16, enc16 sw 1 d.toNat r.toNat)
  | .c16Sub sw d r => some (16, enc16 sw 2 d.toNat r.toNat)
  | .c16Mul sw d r => some (16, enc16 sw 3 d.toNat r.toNat)
  | .c16And sw d r => some (16, enc16 sw 4 d.toNat r.toNat)
  | .c16Or sw d r => some (16, enc16 sw 5 d.toNat r.toNat)
  | .c16Xor sw d r => some (16, enc16 sw 6 d.toNat r.toNat)
  | .c16Shl sw d r => some (16, enc16 sw 7 d.toNat r.toNat)
  | .c16Shr sw d r => some (16, enc16 sw 8 d.toNat r.toNat)
  | .c16Sar sw d r => some (16, enc16 sw 9 d.toNat r.toNat)
  | .c16Addi sw d imm => some (16, enc16 sw 10 d.toNat imm.toNat)
  | .c16Movi sw d imm => some (16, enc16 sw 11 d.toNat imm.toNat)
  | .c16Fadd sw d r => some (16, enc16 sw 12 d.toNat r.toNat)
  | .c16Fmul sw d r => some (16, enc16 sw 13 d.toNat r.toNat)
  | .c16Fmax sw d r => some (16, enc16 sw 14 d.toNat r.toNat)
  | .c16Fmin sw d r => some (16, enc16 sw 15 d.toNat r.toNat)
  | .bra sw off => some (32, enc32 sw 0x01 off.toNat)
  | .call sw off => some (32, enc32 sw 0x02 off.toNat)
  | .bc sw off neg p => some (32, enc32 sw 0x03 (p.toNat + 8 * bit neg + 16 * off.toNat))
  | .ctrlNop sw => some (32, encF sw 0x04 0 0 0 0)
  | .ctrlRet sw => some (32, encF sw 0x04 0 0 0 1)
  | .ctrlExit sw => some (32, encF sw 0x04 0 0 0 2)
  | .ctrlYield sw => some (32, encF sw 0x04 0 0 0 3)
  | .ctrlBrk sw => some (32, encF sw 0x04 0 0 0 4)
  | .trap sw code => some (32, enc32 sw 0x05 (64 * code.toNat))
  | .jtab sw n a => some (32, encF sw 0x06 0 a.toNat 0 0 + 4194304 * n.toNat)
  | .ctab sw n a => some (32, encF sw 0x07 0 a.toNat 0 0 + 4194304 * n.toNat)
  | .plog f => some (32, encA 0x08 f)
  | .vote f => some (32, encU 0x09 f)
  | .matchPeers f => some (32, encA 0x0A f)
  | .elect sw d => some (32, encF sw 0x0B d.toNat 0 0 0)
  | .wresize sw m d => some (32, encF sw 0x0C d.toNat 0 0 m.toNat)
  | .wsyncWarp sw => some (32, encF sw 0x0D 0 0 0 0)
  | .wsyncMask sw a => some (32, encF sw 0x0D 0 a.toNat 0 1)
  | .bar sw lv cnt id => some (32, enc32 sw 0x0E (id.toNat + 64 * cnt.toNat + 1048576 * lv.toNat))
  | .spawn sw a => some (32, encF sw 0x0F 0 a.toNat 0 0)
  | .spawnExit sw a => some (32, encF sw 0x0F 0 a.toNat 0 1)
  | .reggrow sw n d => some (32, enc32 sw 0x10 (d.toNat + 64 * n.toNat))
  | .regshrink sw n => some (32, enc32 sw 0x11 (64 * n.toNat))
  | .movs sw num d => some (32, enc32 sw 0x12 (d.toNat + 4096 * num.toNat))
  | .iadd f => some (32, encA 0x20 f)
  | .imul f => some (32, encA 0x21 f)
  | .iminmax f => some (32, encA 0x22 f)
  | .logic f => some (32, encA 0x23 f)
  | .shift f => some (32, encA 0x24 f)
  | .iunary f => some (32, encU 0x25 f)
  | .iset f => some (32, encA 0x26 f)
  | .iaddi f => some (32, encB 0x27 f)
  | .andi f => some (32, encB 0x28 f)
  | .ori f => some (32, encB 0x29 f)
  | .xori f => some (32, encB 0x2A f)
  | .shifti sw k h a d => some (32, enc32 sw 0x2B (d.toNat + 64 * a.toNat + 4096 * h.toNat + 131072 * k.toNat))
  | .movi f => some (32, encC 0x2C f)
  | .movhi f => some (32, encC 0x2D f)
  | .lea f => some (32, encA 0x2E f)
  | .bfx f => some (32, encA 0x2F f)
  | .bfi sw b a d => some (32, encF sw 0x30 d.toNat a.toNat b.toNat 0)
  | .idiv f => some (32, encA 0x31 f)
  | .fadd f => some (32, encA 0x38 f)
  | .fmul f => some (32, encA 0x39 f)
  | .fset f => some (32, encA 0x3A f)
  | .func f => some (32, encU 0x3B f)
  | .cvtfi f => some (32, encU 0x3C f)
  | .cvtif f => some (32, encU 0x3D f)
  | .hop f => some (32, encA 0x3E f)
  | .shfl f => some (32, encA 0x40 f)
  | .wred f => some (32, encU 0x41 f)
  | .wscan f => some (32, encU 0x42 f)
  | .ld32 f => some (32, encB 0x48 f)
  | .ld128 f => some (32, encB 0x49 f)
  | .st32 f => some (32, encB 0x4A f)
  | .st128 f => some (32, encB 0x4B f)
  | .movf sw w f d => some (32, enc32 sw 0x50 (d.toNat + 4096 * f.toNat + 32768 * bit w))
  | .eret sw => some (32, enc32 sw 0x70 0)
  | .ctlrd sw num d => some (32, enc32 sw 0x71 (d.toNat + 4096 * num.toNat))
  | .ctlwr sw num a => some (32, enc32 sw 0x72 (64 * a.toNat + 4096 * num.toNat))
  | .pginvPage sw a => some (32, encF sw 0x73 0 a.toNat 0 0)
  | .pginvContext sw => some (32, encF sw 0x73 0 0 0 1)
  | .idle sw => some (32, enc32 sw 0x74 0)
  | .ffma x => some (64, encX 0x01 x)
  | .imad x => some (64, encX 0x02 x)
  | .sel x => some (64, encX 0x03 x)
  | .hfma x => some (64, encX 0x04 x)
  | .idp4 x => some (64, encX 0x05 x)
  | .iadd64 x => some (64, encX 0x06 x)
  | .lea64 x => some (64, encX 0x07 x)
  | .iset64 x => some (64, encX 0x08 x)
  | .movx x => some (64, encI 0x09 x)
  | .wide x => some (64, encX 0x0A x)
  | .cvt x => some (64, encX 0x10 x)
  | .qnt x => some (64, encX 0x11 x)
  | .dqn x => some (64, encX 0x12 x)
  | .amax x => some (64, encX 0x13 x)
  | .scof x => some (64, encX 0x14 x)
  | .rscl x => some (64, encX 0x15 x)
  | .rhad x => some (64, encX 0x16 x)
  | .rand x => some (64, encX 0x17 x)
  | .npack x => some (64, encX 0x18 x)
  | .nunpk x => some (64, encX 0x19 x)
  | .talloc x => some (64, encX 0x20 x)
  | .tfree x => some (64, encX 0x21 x)
  | .tstat x => some (64, encX 0x22 x)
  | .twait x => some (64, encX 0x23 x)
  | .tld x => some (64, encX 0x24 x)
  | .tst x => some (64, encX 0x25 x)
  | .tfill x => some (64, encX 0x26 x)
  | .tsetEmpty x => encOp 0x27 0 x
  | .tsetReady x => encOp 0x27 1 x
  | .cpyin x => some (64, encX 0x28 x)
  | .cpyout x => some (64, encX 0x29 x)
  | .cpytt x => some (64, encX 0x2A x)
  | .cpygg x => some (64, encX 0x2B x)
  | .stash x => some (64, encX 0x2C x)
  | .ld x => some (64, encX 0x30 x)
  | .st x => some (64, encX 0x31 x)
  | .pst x => some (64, encX 0x32 x)
  | .pld x => some (64, encX 0x33 x)
  | .atom x => some (64, encX 0x34 x)
  | .atomcas x => some (64, encX 0x35 x)
  | .red x => some (64, encX 0x36 x)
  | .tatom x => some (64, encX 0x37 x)
  | .tred x => some (64, encX 0x38 x)
  | .waita x => some (64, encX 0x39 x)
  | .fence x => some (64, encX 0x3A x)
  | .qwait x => some (64, encX 0x3B x)
  | .qread x => some (64, encX 0x3C x)
  | .qadv x => some (64, encX 0x3D x)
  | .pref x => some (64, encX 0x3E x)
  | .cmaintWb x => encOp 0x3F 0 x
  | .cmaintWbinv x => encOp 0x3F 1 x
  | .cmaintMerge x => encOp 0x3F 2 x
  | .cmaintZero x => encOp 0x3F 3 x
  | .jdecl x => some (64, encX 0x48 x)
  | .jfree x => some (64, encX 0x49 x)
  | .mma x => some (64, encX 0x4A x)
  | .tacq x => some (64, encX 0x4B x)
  | .trel x => some (64, encX 0x4C x)
  | .smxinit x => some (64, encX 0x4D x)
  | .smxupd x => some (64, encX 0x4E x)
  | .smxmrg x => some (64, encX 0x4F x)
  | .smxfin x => some (64, encX 0x50 x)
  | .send x => some (64, encX 0x58 x)
  | .rpost x => some (64, encX 0x59 x)
  | .rcancel x => some (64, encX 0x5A x)
  | .rprobe x => some (64, encX 0x5B x)
  | .wpost x => some (64, encX 0x5C x)
  | .rred x => some (64, encX 0x5D x)
  | .fstat x => some (64, encX 0x5E x)
  | .resultWriteback _ _ _ => none
  | .warpExchange _ _ _ _ => none
  | .warpQuantumExpire _ _ _ _ => none
  | .waitaWake _ _ => none
  | .waitaDeadline _ _ => none
  | .watchFilterClear _ _ => none
  | .idleTimeout _ _ => none
  | .churnMerge _ => none
  | .mcArrival _ _ => none
  | .landingAcceptAfterDrain _ _ => none
  | .copyComplete _ => none
  | .matrixQueueEnter _ _ => none
  | .matrixOpComplete _ _ => none
  | .flitReceive _ _ => none
  | .laneRetrain _ _ _ => none
  | .packetDeliver _ => none
  | .dirInvalidate _ _ => none
  | .reductionHop _ _ _ _ => none
  | .finalHop _ => none
  | .counterAdvanceArrive _ => none
  | .workEntryFire _ => none
  | .workEntryDone _ => none
  | .msgArrive _ => none
  | .msgRetry _ => none
  | .rendezvousPull _ => none
  | .receiveComplete _ => none
  | .sendComplete _ => none
  | .rcancelAnswer _ _ => none
  | .graphFetch _ _ => none
  | .graphResident _ _ => none
  | .nodeStart _ _ _ => none
  | .nodeDone _ _ _ => none
  | .graphEnd _ _ => none
  | .clusterAdmit _ _ => none
  | .blockEnd _ => none
  | .launchEnd _ => none
  | .spawnCrewForm _ _ _ => none
  | .spawnGatherTimeout _ _ => none
  | .blockSave _ _ => none
  | .saveSlotGrant _ => none
  | .blockRestore _ => none
  | .watchdogExpire _ _ => none
  | .handlerEntry _ _ => none
  | .lateFailureDelivery _ _ => none
  | .reportWrite _ => none
  | .repactResume _ _ => none
  | .repactAbandon _ _ => none
  | .ctxCreate _ _ _ => none
  | .ctxDestroy _ _ => none
  | .ctxSuspend _ _ => none
  | .ctxResume _ _ => none
  | .wake _ => none
  | .intstatClear _ _ => none
  | .svcreqClear _ _ => none
  | .winvaWrite _ _ => none
  | .doorbell _ _ _ _ => none
  | .queueDescWrite _ _ _ _ => none
  | .queueDisable _ _ => none
  | .carveWrite _ _ _ => none
  | .islctlWrite _ _ _ => none
  | .onceclr _ _ => none
  | .ctlRegWrite _ _ _ _ => none
  | .apertureRead _ _ _ => none
  | .apertureWrite _ _ _ _ => none
  | .readbackRead _ => none
  | .reset => none
  | .bootVerify => none
  | .attestRequest _ => none
  | .attestComplete => none
  | .ptpMessage _ => none
  | .powerSample _ _ _ _ => none
  | .clockStepDown _ => none
  | .clockStepUp _ => none
  | .thermalShutdown _ => none
  | .scrub _ _ => none
  | .coreFail _ _ => none
  | .spareEngage _ _ => none
  | .hbmRowRemap _ _ _ => none
  | .channelFail _ _ => none
  | .functionReady _ => none
  | .decodeTrap _ => none
  | .lineLanded _ _ _ => none
  | .storeQueueDrain _ _ => none
  | .softError _ _ => none
  | .junctionAbove105 _ => none

end Sys2Proof
end

