-- ==== Sys2Proof/Machine/Signature.lean ====
section
/-! DEFINITION. The signature of every instruction: its operands and the field values that R45 to R47 permit. -/

namespace Sys2Proof.Machine

open Sys2Proof

/-- The signature of an instruction in a block with the given format slots; an engine or host step has none. -/
def sigOf (slots : List DWord) (i : Instr) : Sig :=
  match i with
  | .c16Mov sw d r => mov16Sig sw d r
  | .c16Add sw d r => (Gen.ofC16 0x20 0 sw d r).theSig
  | .c16Sub sw d r => (Gen.ofC16 0x20 1 sw d r).theSig
  | .c16Mul sw d r => (Gen.ofC16 0x21 0 sw d r).theSig
  | .c16And sw d r => (Gen.ofC16 0x23 0 sw d r).theSig
  | .c16Or sw d r => (Gen.ofC16 0x23 1 sw d r).theSig
  | .c16Xor sw d r => (Gen.ofC16 0x23 2 sw d r).theSig
  | .c16Shl sw d r => (Gen.ofC16 0x24 0 sw d r).theSig
  | .c16Shr sw d r => (Gen.ofC16 0x24 1 sw d r).theSig
  | .c16Sar sw d r => (Gen.ofC16 0x24 2 sw d r).theSig
  | .c16Addi sw d imm => (addi16 sw d imm).theSig
  | .c16Movi sw d _ => moviSig 2 sw d.toNat
  | .c16Fadd sw d r => (Gen.ofC16 0x38 0 sw d r).theSig
  | .c16Fmul sw d r => (Gen.ofC16 0x39 0 sw d r).theSig
  | .c16Fmax sw d r => (Gen.ofC16 0x38 3 sw d r).theSig
  | .c16Fmin sw d r => (Gen.ofC16 0x38 2 sw d r).theSig
  | .bra sw _ => braSig sw
  | .call sw _ => braSig sw
  | .bc sw _ _ p => bcSig sw p
  | .ctrlNop sw => ({ major := 0x04, minor := 0, sw := sw } : Gen).theSig
  | .ctrlRet sw => ({ major := 0x04, minor := 1, sw := sw } : Gen).theSig
  | .ctrlExit sw => ({ major := 0x04, minor := 2, sw := sw } : Gen).theSig
  | .ctrlYield sw => ({ major := 0x04, minor := 3, sw := sw } : Gen).theSig
  | .ctrlBrk sw => ({ major := 0x04, minor := 4, sw := sw } : Gen).theSig
  | .trap sw _ => trapSig sw
  | .jtab sw n a => jtabSig { major := 0x06, imm := n.toNat, a := a.toNat, sw := sw }
  | .ctab sw n a => jtabSig { major := 0x07, imm := n.toNat, a := a.toNat, sw := sw }
  | .plog f => (Gen.ofA 0x08 f).theSig
  | .vote f => (Gen.ofU 0x09 f).theSig
  | .matchPeers f => (Gen.ofA 0x0A f).theSig
  | .elect sw d => ({ major := 0x0B, d := d.toNat, sw := sw } : Gen).theSig
  | .wresize sw m d => ({ major := 0x0C, minor := m.toNat, d := d.toNat, sw := sw } : Gen).theSig
  | .wsyncWarp sw => ({ major := 0x0D, minor := 0, sw := sw } : Gen).theSig
  | .wsyncMask sw a => ({ major := 0x0D, minor := 1, a := a.toNat, sw := sw } : Gen).theSig
  | .bar sw lv _ id => barSig sw lv id
  | .spawn sw a => ({ major := 0x0F, minor := 0, a := a.toNat, sw := sw } : Gen).theSig
  | .spawnExit sw a => ({ major := 0x0F, minor := 1, a := a.toNat, sw := sw } : Gen).theSig
  | .reggrow sw n d => reggrowSig sw n d
  | .regshrink sw n => regshrinkSig sw n
  | .movs sw num d => ({ major := 0x12, imm := num.toNat, d := d.toNat, sw := sw } : Gen).theSig
  | .iadd f => (Gen.ofA 0x20 f).theSig
  | .imul f => (Gen.ofA 0x21 f).theSig
  | .iminmax f => (Gen.ofA 0x22 f).theSig
  | .logic f => (Gen.ofA 0x23 f).theSig
  | .shift f => (Gen.ofA 0x24 f).theSig
  | .iunary f => (Gen.ofU 0x25 f).theSig
  | .iset f => (Gen.ofA 0x26 f).theSig
  | .iaddi f => (Gen.ofB 0x27 f).theSig
  | .andi f => (Gen.ofB 0x28 f).theSig
  | .ori f => (Gen.ofB 0x29 f).theSig
  | .xori f => (Gen.ofB 0x2A f).theSig
  | .shifti sw k h a d => ({ major := 0x2B, imm := k.toNat * 32 + h.toNat, a := a.toNat, d := d.toNat, sw := sw } : Gen).theSig
  | .movi f => moviSig 4 f.sw f.d.toNat
  | .movhi f => movhiSig f
  | .lea f => (Gen.ofA 0x2E f).theSig
  | .bfx f => (Gen.ofA 0x2F f).theSig
  | .bfi sw b a d => ({ major := 0x30, b := b.toNat, a := a.toNat, d := d.toNat, sw := sw } : Gen).theSig
  | .idiv f => (Gen.ofA 0x31 f).theSig
  | .fadd f => (Gen.ofA 0x38 f).theSig
  | .fmul f => (Gen.ofA 0x39 f).theSig
  | .fset f => (Gen.ofA 0x3A f).theSig
  | .func f => (Gen.ofU 0x3B f).theSig
  | .cvtfi f => (Gen.ofU 0x3C f).theSig
  | .cvtif f => (Gen.ofU 0x3D f).theSig
  | .hop f => (Gen.ofA 0x3E f).theSig
  | .shfl f => (Gen.ofA 0x40 f).theSig
  | .wred f => (Gen.ofU 0x41 f).theSig
  | .wscan f => (Gen.ofU 0x42 f).theSig
  | .ld32 f => (Gen.ofB 0x48 f).theSig
  | .ld128 f => (Gen.ofB 0x49 f).theSig
  | .st32 f => (Gen.ofB 0x4A f).theSig
  | .st128 f => (Gen.ofB 0x4B f).theSig
  | .movf sw w f d => ({ major := 0x50, imm := (if w then 8 else 0) + f.toNat, d := d.toNat, sw := sw } : Gen).theSig
  | .eret sw => ({ major := 0x70, sw := sw } : Gen).theSig
  | .ctlrd sw num d => ({ major := 0x71, imm := num.toNat, d := d.toNat, sw := sw } : Gen).theSig
  | .ctlwr sw num a => ({ major := 0x72, imm := num.toNat, a := a.toNat, sw := sw } : Gen).theSig
  | .pginvPage sw a => ({ major := 0x73, minor := 0, a := a.toNat, sw := sw } : Gen).theSig
  | .pginvContext sw => ({ major := 0x73, minor := 1, sw := sw } : Gen).theSig
  | .idle sw => ({ major := 0x74, sw := sw } : Gen).theSig
  | .ffma x => ffmaSig x
  | .imad x => imadSig x
  | .sel x => selSig x
  | .hfma x => hfmaSig x
  | .idp4 x => idp4Sig x
  | .iadd64 x => iadd64Sig x
  | .lea64 x => lea64Sig x
  | .iset64 x => iset64Sig x
  | .movx x => movxSig x
  | .wide x => wideSig x
  | .cvt x => cvtSig slots x
  | .qnt x => qntSig slots x
  | .dqn x => dqnSig x
  | .amax x => amaxSig x
  | .scof x => scofSig slots x
  | .rscl x => rsclSig slots x
  | .rhad x => rhadSig slots x
  | .rand x => randSig slots x
  | .npack x => npackSig x
  | .nunpk x => nunpkSig x
  | .talloc x => tallocSig x
  | .tfree x => tfreeSig x
  | .tstat x => tstatSig x
  | .twait x => twaitSig x
  | .tld x => tldSig x
  | .tst x => tstSig x
  | .tfill x => tfillSig x
  | .tsetEmpty x => tsetSig x
  | .tsetReady x => tsetSig x
  | .cpyin x => cpyinSig x
  | .cpyout x => cpyoutSig x
  | .cpytt x => cpyttSig x
  | .cpygg x => cpyggSig x
  | .stash x => stashSig x
  | .ld x => ldSig x
  | .st x => stSig x
  | .pst x => pstSig x
  | .pld x => pldSig x
  | .atom x => atomSig x
  | .atomcas x => atomcasSig x
  | .red x => redSig x
  | .tatom x => tatomSig x
  | .tred x => tredSig x
  | .waita x => waitaSig x
  | .fence x => fenceSig x
  | .qwait x => qwaitSig x
  | .qread x => qreadSig x
  | .qadv x => qadvSig x
  | .pref x => prefSig x
  | .cmaintWb x => cmaintSig x
  | .cmaintWbinv x => cmaintSig x
  | .cmaintMerge x => cmaintSig x
  | .cmaintZero x => cmaintSig x
  | .jdecl x => jdeclSig x
  | .jfree x => jfreeSig x
  | .mma x => mmaSig x
  | .tacq x => trelSig x
  | .trel x => trelSig x
  | .smxinit x => smxinitSig x
  | .smxupd x => smxupdSig x
  | .smxmrg x => smxmrgSig x
  | .smxfin x => smxfinSig x
  | .send x => sendSig x
  | .rpost x => rpostSig x
  | .rcancel x => rcancelSig x
  | .rprobe x => rprobeSig x
  | .wpost x => wpostSig x
  | .rred x => rredSig x
  | .fstat x => fstatSig x
  | .resultWriteback _ _ _ => {}
  | .warpExchange _ _ _ _ => {}
  | .warpQuantumExpire _ _ _ _ => {}
  | .waitaWake _ _ => {}
  | .waitaDeadline _ _ => {}
  | .watchFilterClear _ _ => {}
  | .idleTimeout _ _ => {}
  | .churnMerge _ => {}
  | .mcArrival _ _ => {}
  | .landingAcceptAfterDrain _ _ => {}
  | .copyComplete _ => {}
  | .matrixQueueEnter _ _ => {}
  | .matrixOpComplete _ _ => {}
  | .flitReceive _ _ => {}
  | .laneRetrain _ _ _ => {}
  | .packetDeliver _ => {}
  | .dirInvalidate _ _ => {}
  | .reductionHop _ _ _ _ => {}
  | .finalHop _ => {}
  | .counterAdvanceArrive _ => {}
  | .workEntryFire _ => {}
  | .workEntryDone _ => {}
  | .msgArrive _ => {}
  | .msgRetry _ => {}
  | .rendezvousPull _ => {}
  | .receiveComplete _ => {}
  | .sendComplete _ => {}
  | .rcancelAnswer _ _ => {}
  | .graphFetch _ _ => {}
  | .graphResident _ _ => {}
  | .nodeStart _ _ _ => {}
  | .nodeDone _ _ _ => {}
  | .graphEnd _ _ => {}
  | .clusterAdmit _ _ => {}
  | .blockEnd _ => {}
  | .launchEnd _ => {}
  | .spawnCrewForm _ _ _ => {}
  | .spawnGatherTimeout _ _ => {}
  | .blockSave _ _ => {}
  | .saveSlotGrant _ => {}
  | .blockRestore _ => {}
  | .watchdogExpire _ _ => {}
  | .handlerEntry _ _ => {}
  | .lateFailureDelivery _ _ => {}
  | .reportWrite _ => {}
  | .repactResume _ _ => {}
  | .repactAbandon _ _ => {}
  | .ctxCreate _ _ _ => {}
  | .ctxDestroy _ _ => {}
  | .ctxSuspend _ _ => {}
  | .ctxResume _ _ => {}
  | .wake _ => {}
  | .intstatClear _ _ => {}
  | .svcreqClear _ _ => {}
  | .winvaWrite _ _ => {}
  | .doorbell _ _ _ _ => {}
  | .queueDescWrite _ _ _ _ => {}
  | .queueDisable _ _ => {}
  | .carveWrite _ _ _ => {}
  | .islctlWrite _ _ _ => {}
  | .onceclr _ _ => {}
  | .ctlRegWrite _ _ _ _ => {}
  | .apertureRead _ _ _ => {}
  | .apertureWrite _ _ _ _ => {}
  | .readbackRead _ => {}
  | .reset => {}
  | .bootVerify => {}
  | .attestRequest _ => {}
  | .attestComplete => {}
  | .ptpMessage _ => {}
  | .powerSample _ _ _ _ => {}
  | .clockStepDown _ => {}
  | .clockStepUp _ => {}
  | .thermalShutdown _ => {}
  | .scrub _ _ => {}
  | .coreFail _ _ => {}
  | .spareEngage _ _ => {}
  | .hbmRowRemap _ _ _ => {}
  | .channelFail _ _ => {}
  | .functionReady _ => {}
  | .decodeTrap _ => {}
  | .lineLanded _ _ _ => {}
  | .storeQueueDrain _ _ => {}
  | .softError _ _ => {}
  | .junctionAbove105 _ => {}

end Sys2Proof.Machine
end

