-- ==== Sys2Proof/Machine/Issue.lean ====
section
/-! DEFINITION. Issue: a lane chooses a run (R66, R67), fetches its instruction (R32, R33) and decodes it (R47). -/

namespace Sys2Proof.Machine

open Sys2Proof

/-- What a fetch gives: an instruction to execute (a fault of fetch or decode as its DECODE_TRAP step), or a wait for
a line that cannot be read yet (R252, R339). -/
inductive Fetched where
  | go (i : Instr)
  | hold (c : Cond)
  deriving DecidableEq, Repr

/-- A fault of fetch at a halfword. -/
def Fetched.fault (f : MemFault) (at_ : DWord) : Fetched :=
  if f.isHold then .hold f.cond else .go (.decodeTrap { code := f.code, sub := f.sub, addr := at_, sys := false })

/-- A fetched word as the decoder reads it. -/
def Fetched.word (w : Nat) : Fetched :=
  match decodeWord w with
  | .inl f => .go (.decodeTrap f)
  | .inr i => .go i

/-- Fetch and decode the instruction at an address for a core (R32, R33). -/
def fetchAt (s : State) (c : Context) (site : Nat) (va : DWord) : Fetched :=
  if va.toNat % 2 = 1 then .fault ⟨.misalign, 4⟩ va
  else match fetchHalves s c site va 1 with
  | .inl (f, at_) => .fault f at_
  | .inr h => match fetchHalves s c site va (lenOf h / 2) with
    | .inl (f, at_) => .fault f at_
    | .inr w => .word w

/-- The translations that a fetch of `n` halfwords leaves behind (R188, R191). -/
def State.noteFetches (s : State) (c : Context) (site : Nat) (va : DWord) : Nat → State
  | 0 => s
  | n + 1 => (State.noteFetches s c site va n).noteFetch c site (va + BitVec.ofNat 64 (2 * n))

/-- Halfwords that a fetch reads. -/
def fetchLen (s : State) (c : Context) (site : Nat) (va : DWord) : Nat :=
  if va.toNat % 2 = 1 then 0
  else match fetchHalves s c site va 1 with
  | .inl _ => 1
  | .inr h => lenOf h / 2

/-- Clocks that a run of `k` threads occupies its lane (R63). -/
def runClocks (uniform : Bool) (k : Nat) : Nat := if uniform then 1 else ceilDiv k 8

/-- The lane notes the place from which it issued (R67), and the warp its issue clocks (R68). -/
def State.noteIssue (s : State) (die core part lane : Nat) (r : WarpRef) (clocks : Nat) : State :=
  (s.modSched die core part (fun x => { x with last := setAt x.last lane (x.active.findIdx? (· == some r)) })).modWarp r
    (fun w => { w with issued := w.issued + clocks })

/-- The threads of a run wait for the line of their instruction. -/
def State.holdRun (s : State) (r : Run) (c : Cond) : State :=
  s.modBlock r.bid (fun b => { b with threads := b.threads.map (fun t =>
    if r.has t then { t with park := .retry c } else t) })

/-- The warp that a lane issues next with its run (R66, R67). -/
def State.nextRun (s : State) (die core part lane : Nat) : Option (WarpRef × Block × Run) :=
  (s.sched? die core part).bind fun x => (pickWarp s x lane).bind fun r => (s.warp? r).bind fun bw =>
    (pickRun s bw.1 bw.2).map fun run => (r, bw.1, run)

/-- One lane issues: the state with the run chosen, and the instruction to execute on it; none where the lane has
nothing to issue, or its run waits. A run whose fetch or decode faults takes one clock of its lane, as an instruction that names no
register does: R63 gives no number (DESIGN CHOICE, notes/assumptions/75.md). -/
def State.issue (s : State) (die core part lane : Nat) : State × Option Instr :=
  match s.nextRun die core part lane with
  | none => (s, none)
  | some (r, b, run) =>
    match s.ctx? b.ctx with
    | none => (s, none)
    | some c =>
      let s1 := s.takeRun run
      let s2 := (s1.noteFetches c b.site run.addr (fetchLen s1 c b.site run.addr)).active b.ctx b.die
      match fetchAt s1 c b.site run.addr with
      | .hold k => ({ s2.holdRun run k with cur := none }, none)
      | .go i => (s2.noteIssue die core part lane r (runClocks (sigOf b.slots i).uniform run.pos.length), some i)

end Sys2Proof.Machine
end

