-- ==== Sys2Proof/Machine/Agents.lean ====
section
/-! DEFINITION. The agents of the package between steps: the clocks, the watchdogs, the sets of warps, and the next step that
the model takes itself while the agenda is empty (notes/assumptions/1.md). -/

namespace Sys2Proof.Machine

open Sys2Proof

/-! ### Time -/

/-- Nanoseconds that allow one nanosecond of slewing: 200 ppm (R329). -/
def slewUnit : Nat := 5000

/-- How far the time base slews in a step toward its offset: within the rate of R329 (notes/assumptions/41.md). -/
def State.slewNow (s : State) : Int :=
  let most : Int := min (Config.slew s.tick) ((s.plat.slewRoom + Config.nanos s.tick) / slewUnit)
  clamp (-most) most s.plat.slewLeft

/-- The clocks and the time base move on (R25, R329; notes/assumptions/2.md). -/
def State.elapse (s : State) : State :=
  { s with
    plat := { s.plat with
      clocks := s.plat.clocks.zipIdx.map (fun (c, k) => c + 1 + Config.extraClocks k s.tick),
      time := ((s.plat.time : Int) + Config.nanos s.tick + s.slewNow).toNat,
      slewLeft := s.plat.slewLeft - s.slewNow,
      slewRoom := (s.plat.slewRoom + Config.nanos s.tick) % slewUnit }
    tick := s.tick + 1 }

/-- What follows every step: the sets of warps (R68, R69) with the exchanges that are due, and the watchdogs (R322). -/
def State.settle (s : State) : State := (s.settleSets.exchangeDue (activeSize * s.scheds.length)).watchAll

/-! ### The activity that the watchdog sees -/

/-- The contexts and dies whose engine operations a step advances (R322): copies, matrix operations, landings, work entries
and nodes, also where it is an answer of another package that advances them. -/
def ownersOf (s : State) (e : Instr) : List (Nat × Nat) :=
  let ofCopy (cid : Nat) := (s.copy? cid).map (fun c => (c.ctx, c.die))
  let ofRecv (rid : Nat) := (s.fab.recvs.find? (·.rid == rid)).map (fun r => (r.ctx, r.die))
  let ofEntry (eid : Nat) := (s.fab.entries.find? (·.eid == eid)).map (fun x => (x.ctx, x.die))
  let ofMessage (m : Msg) : List (Nat × Nat) := (m.entry.bind ofEntry).toList ++ (match m.st with
    | .matched rid => (ofRecv rid).toList
    | _ => [])
  let ofMsg (mid : Nat) : List (Nat × Nat) := ((s.fab.msgs.find? (·.mid == mid)).map ofMessage).getD []
  let ofContribs (p : Contrib → Bool) : List (Nat × Nat) := (s.fab.contribs.filter p).filterMap (fun c => c.entry.bind ofEntry)
  let ofRed (r : Reduction) : List (Nat × Nat) := (r.entry.bind ofEntry).toList ++ ofContribs (fun c => r.group == some c.gid)
  let ofBlock (bid : Nat) := (s.block? bid).map (fun b => (b.ctx, b.die))
  let ofQueue (die q : Nat) := (s.queue? die q).map (fun x => (x.ctx, x.die))
  let ofWrite (die line : Nat) := (s.fab.peer.writes.find? (fun w => w.die == die && w.line == line)).bind fun w => match w.owner with
    | .copy cid => ofCopy cid
    | .recv rid => ofRecv rid
    | .node die q _ => ofQueue die q
    | _ => none
  match e with
  | .mcArrival cid _ => (ofCopy cid).toList
  | .landingAcceptAfterDrain cid _ => (ofCopy cid).toList
  | .lineLanded cid _ _ => (ofCopy cid).toList
  | .copyComplete cid => (ofCopy cid).toList
  | .matrixQueueEnter die core => ((s.mat die core).waiting.head?.bind (fun w => ofBlock w.bid)).toList
  | .matrixOpComplete die core => ((s.mat die core).queue.head?.bind (fun o => ofBlock o.bid)).toList
  | .msgArrive mid => ofMsg mid
  | .msgRetry mid => ofMsg mid
  | .rendezvousPull mid => ofMsg mid
  | .sendComplete mid => ofMsg mid
  | .receiveComplete rid => (ofRecv rid).toList
  | .workEntryFire eid => (ofEntry eid).toList
  | .workEntryDone eid => (ofEntry eid).toList
  | .reductionHop win off round _ => ofContribs (fun c => c.win == win && c.off == off && c.round == round)
  | .finalHop rid => ((s.red? rid).map ofRed).getD []
  | .nodeStart die q _ => (ofQueue die q).toList
  | .nodeDone die q _ => (ofQueue die q).toList
  | .counterAdvanceArrive aid =>
    ((s.fab.advances.find? (·.aid == aid)).bind (fun a => a.owner.bind (fun o => ofQueue o.1 o.2.1))).toList
  | .packetDeliver k =>
    if k.kind = .acknowledge ∨ k.kind = .refusal ∨ k.kind = .messagePull then
      (if k.kind = .acknowledge ∧ flagLow k.flags = 0 then (ofWrite (k.dst % 8) (lineOf k.field.toNat)).toList
       else ((s.answeredRed k).map ofRed).getD [] ++ ((s.answered k).map ofMessage).getD [])
    else []
  | _ => []

/-- Note the activity of a step in the states before and after it; one that changes nothing is none (R322). -/
def State.noteActivity (s : State) (s0 : State) (e : Instr) : State :=
  if s = s0 then s
  else ((ownersOf s0 e ++ ownersOf s e).eraseDups).foldl (fun s o => s.active o.1 o.2) s

/-! ### The steps that could come next -/

/-- Steps of threads and warps. -/
def threadEvents (s : State) : List Instr :=
  s.blocks.flatMap fun b =>
    (b.threads.zipIdx.flatMap fun (t, ti) =>
      t.results.map (fun r => Instr.resultWriteback b.bid ti r.rid) ++
        (if t.lates ≠ [] then [Instr.lateFailureDelivery b.bid ti] else []) ++
        (match t.park with
         | .handler _ => [Instr.handlerEntry b.bid ti]
         | .waita _ => [Instr.waitaWake b.bid ti, Instr.waitaDeadline b.bid ti]
         | .idle _ => [Instr.idleTimeout b.bid ti]
         | .cancel .. => [Instr.rcancelAnswer b.bid ti]
         | _ => [])) ++
    (b.warps.zipIdx.flatMap fun (w, wi) => if w.stores = [] then [] else [Instr.storeQueueDrain b.bid wi])

/-- Steps of the copy engines and the matrix units. -/
def engineEvents (s : State) : List Instr :=
  (s.copies.flatMap fun c =>
    (c.dsts.zipIdx.flatMap fun (d, k) =>
      [Instr.mcArrival c.cid k, Instr.landingAcceptAfterDrain c.cid k] ++
        (if d.todo = [] then [] else [Instr.lineLanded c.cid k 0])) ++ [Instr.copyComplete c.cid]) ++
  (s.mats.flatMap fun u => [Instr.matrixQueueEnter u.die u.core, Instr.matrixOpComplete u.die u.core])

/-- Steps of the fabric. -/
def fabricEvents (s : State) : List Instr :=
  (s.fab.contribs.flatMap fun c =>
    Instr.reductionHop c.win c.off c.round none ::
      (((window? s c.win).map (fun w => (w.members.map (·.2)).eraseDups)).getD []).map
        (fun l => Instr.reductionHop c.win c.off c.round (some l))) ++
  s.fab.reds.map (fun r => Instr.finalHop r.rid) ++ s.fab.advances.map (fun a => Instr.counterAdvanceArrive a.aid) ++
  (s.fab.entries.flatMap fun e => [Instr.workEntryFire e.eid, Instr.workEntryDone e.eid]) ++
  (s.fab.msgs.flatMap fun m => [Instr.msgArrive m.mid, Instr.rendezvousPull m.mid, Instr.sendComplete m.mid, Instr.msgRetry m.mid]) ++
  s.fab.recvs.map (fun r => Instr.receiveComplete r.rid) ++
  (s.dir.flatMap fun d => (s.copyHolders d true none).map (Instr.dirInvalidate d.line)) ++
  (s.fab.streams.flatMap fun x => (x.early.filter (·.order == x.next)).map Instr.packetDeliver)

/-- Steps of the front ends. -/
def frontEvents (s : State) : List Instr :=
  (s.queues.flatMap fun x =>
    [Instr.queueDisable x.die x.q, Instr.graphFetch x.die x.q, Instr.graphResident x.die x.q] ++
      (((x.graph.map (·.nodes)).getD []).flatMap fun n => [Instr.nodeStart x.die x.q n.idx, Instr.nodeDone x.die x.q n.idx]) ++
      [Instr.graphEnd x.die x.q]) ++
  (s.launches.flatMap fun l =>
    ((s.pickPlacement l).map (fun p => Instr.clusterAdmit l.lid p)).toList ++
      (l.pools.flatMap fun p => ((p.2.map (·.entry)).eraseDups).map (fun e => Instr.spawnCrewForm l.lid p.1 e)) ++
      l.pools.map (fun p => Instr.spawnGatherTimeout l.lid p.1) ++ [Instr.launchEnd l.lid]) ++
  (s.blocks.flatMap fun b =>
    [Instr.blockEnd b.bid, Instr.blockSave b.bid .hot, Instr.blockSave b.bid .suspend, Instr.blockSave b.bid .drain, Instr.blockRestore b.bid]) ++
  (List.range 8).map (fun d => Instr.saveSlotGrant d) ++ s.ctxs.map (fun c => Instr.reportWrite c.num) ++
  (s.plat.spares.draining.map fun c => Instr.spareEngage c.1 (c.2 / 24))

/-- Exchanges of warps, the attestation, the spares and the watchdogs. -/
def otherEvents (s : State) : List Instr :=
  (s.scheds.flatMap fun x => (List.range x.active.length).flatMap fun k =>
    [Instr.warpExchange x.die x.core x.part k, Instr.warpQuantumExpire x.die x.core x.part k]) ++
  (if s.plat.boot.attest = 1 then [Instr.attestComplete] else []) ++
  (s.plat.spares.coreErrs.map fun e => Instr.coreFail ⟨e.die, e.core⟩ false) ++
  (s.plat.spares.rowErrs.map fun r => Instr.hbmRowRemap r.stack r.bank r.row) ++
  (s.ctxs.flatMap fun c => c.watch.map (fun w => Instr.watchdogExpire c.num w.die))

/-- Every step that the package could take of itself, in the order in which the model looks at them. -/
def ownEvents (s : State) : List Instr :=
  threadEvents s ++ engineEvents s ++ fabricEvents s ++ frontEvents s ++ otherEvents s

/-- Whether a step changes the state: one that is not possible leaves it as it is. -/
def enabled (s : State) (e : Instr) : Bool :=
  match exec e s with
  | .next s1 => s1 != s
  | _ => false

/-- The lanes of the partitions, each lane once. -/
def lanes (s : State) : List (Nat × Nat × Nat × Nat) :=
  s.scheds.flatMap fun x => (List.range 4).map fun l => (x.die, x.core, x.part, l)

/-- A list that begins at its `n`-th element, counted round. -/
def rotated {α : Type} (xs : List α) (n : Nat) : List α := xs.drop (n % xs.length) ++ xs.take (n % xs.length)

/-- The lane that issues next while the agenda is empty: the first that has a run, from a lane on that moves with the steps. -/
def State.pickLane (s : State) : Option (Nat × Nat × Nat × Nat) :=
  (rotated (lanes s) (s.tick / 2)).find? (fun (d, c, p, l) => (s.nextRun d c p l).isSome)

/-- The step of its own that the package takes next while the agenda is empty: the first possible, from one on that moves with the
steps. -/
def State.pickEvent (s : State) : Option Instr := (rotated (ownEvents s) (s.tick / 2)).find? (enabled s)

/-- The next turn: the head of the agenda; else lanes and the package's own steps take turns, so that neither keeps the other from
its progress (R70). -/
def State.nextTurn (s : State) : Option Turn :=
  let lane := s.pickLane.map fun (d, c, p, l) => Turn.issue d c p l
  let own := s.pickEvent.map Turn.event
  match s.agenda with
  | t :: _ => some t
  | [] => if s.tick % 2 = 0 then own.or lane else lane.or own

/-- What a stopped package still does (R332): a reset, or a read of the read-back window. -/
def Turn.whileStopped : Turn → Bool
  | .event .reset => true
  | .event (.readbackRead (.window _)) => true
  | _ => false

end Sys2Proof.Machine
end

