-- ==== Sys2Proof/Machine/Place.lean ====
section
/-! DEFINITION. A program placed from outside, so that the next step issues one instruction
(notes/assumptions/48.md): a context with a page table, a block of one crew of 8 threads, and the lane's turn. -/

namespace Sys2Proof.Machine

open Sys2Proof

/-- The physical address at which the package's memory begins (R28), and the places of the two tables and of the
instruction above it; the instruction's virtual address is the same offset. -/
def placeBase (s : State) : Nat := s.plat.fuses.pkg <<< 40
def placeRoot : Nat := 0x2000
def placeTable : Nat := 0x4000
def placeCode : Nat := 0x6000

/-- A table entry and a leaf with execute permission alone, for a physical address (R186). -/
def tableEntry (pa : Nat) : Nat := (pa >>> 13) <<< 16 + 1
def codeLeaf (pa : Nat) : Nat := (pa >>> 13) <<< 16 + 0x13

/-- The placed block's launch record (R296): one block of one crew of 8 threads with 128 registers. -/
def placeRec : LaunchRec :=
  { entry := BitVec.ofNat 64 placeCode, crew := 8, crews := 1, blocks := 1, regs := 128, dies := 1, clusters := 1,
    tiles := 0, stack := 0, pool := 0, seed := 0, params := 0, queue := 0, prio := 1, done := 0,
    slots := List.replicate 8 0, bindings := [] }

def placeLaunch : Launch :=
  { lid := 0, ctx := 0, die := 0, q := 0, node := 0, rc := placeRec, prio := 1, next := 1, pools := [], formed := [],
    ended := 0, halted := 0, status := 0, recordHeld := false }

/-- The placed block: on core 0 of die 0, its crew in lane 0 of partition 0 from slot 0. -/
def placeBlock (bid : Nat) : Block :=
  newBlock placeLaunch bid 0 0 0 { pos := 0, token := 0, crews := [{ part := 0, bases := [0, 0, 0, 0] }] } 1 0 1 8 0
    (launchInit placeLaunch)

/-- Place the bytes of an instruction so that the next step issues it. -/
def placeWord (s : State) (bytes : List Byte) : State :=
  let b := placeBase s
  let mem := ((s.mem.setBytes (b + placeRoot) (toBytes 8 (tableEntry (b + placeTable)))).setBytes (b + placeTable)
    (toBytes 8 (codeLeaf b))).setBytes (b + placeCode) bytes
  { s with
    mem := mem
    ctxs := { newContext 0 0 (FnPage.reset 0) with root := BitVec.ofNat 64 (b + placeRoot) } :: s.ctxs.filter (·.num != 0)
    blocks := placeBlock s.nextId :: s.blocks.filter (·.bid != s.nextId)
    scheds := { die := 0, core := 0, part := 0, active := some { bid := s.nextId, crew := 0, lane := 0, first := 0 } :: List.replicate 7 none,
                pending := [], last := [none, none, none, none] } ::
      s.scheds.filter (fun x => !(x.die == 0 && x.core == 0 && x.part == 0))
    tlb := s.tlb.filter (·.ctx != 0)
    plat := { s.plat with stopped := false, carves := [] }
    agenda := .issue 0 0 0 0 :: s.agenda
    nextId := s.nextId + 1 }

end Sys2Proof.Machine
end

