-- ==== Sys2Proof/Machine/Step.lean ====
section
/-! DEFINITION. One step of the package: a turn of the agenda, or of the model's own choice while it is empty. -/

namespace Sys2Proof.Machine

open Sys2Proof

/-- After the meaning: the activity is noted, and the sets and watchdogs are brought up to date. -/
def finish (s : State) (e : Instr) (r : Host.Outcome State Fault Refusal) : Host.Outcome State Fault Refusal :=
  match r with
  | .next s1 => .next ((s1.noteActivity s e).settle)
  | .fault f => .fault f
  | .refused x => .refused x

/-- An engine, host or package step. -/
def stepEvent (s : State) (e : Instr) : Host.Outcome State Fault Refusal :=
  let s1 := { s.elapse with cur := none }
  finish s1 e (exec e s1)

/-- A lane's issue: the instruction is fetched, decoded and executed by its run. -/
def stepIssue (s : State) (die core part lane : Nat) : Host.Outcome State Fault Refusal :=
  match s.elapse.issue die core part lane with
  | (s1, none) => .next s1.settle
  | (s1, some i) => finish s1 i (exec i s1)

/-- The turn at the head of the agenda is taken from it. -/
def State.popTurn (s : State) : State := { s with agenda := s.agenda.tail }

/-- One step. A stopped package does nothing but what R332 leaves; with nothing to do, time passes. -/
def step (s : State) : Host.Outcome State Fault Refusal :=
  if s.plat.stopped then
    match s.agenda with
    | [] => .fault .packageStopped
    | t :: _ =>
      match t with
      | .event e => if t.whileStopped then stepEvent s.popTurn e else .next s.popTurn
      | .issue .. => .next s.popTurn
  else
    match s.nextTurn with
    | none => .next s.elapse.settle
    | some (.event e) => stepEvent s.popTurn e
    | some (.issue die core part lane) => stepIssue s.popTurn die core part lane

/-- The state in which the next step fetches and runs the instruction with the given bits; every bit above them is
zero. -/
def State.withFetchWord (s : State) (nbits w : Nat) : State := placeWord s (layBytes 8 (w % 2 ^ nbits))

end Sys2Proof.Machine
end

