-- ==== Sys2Proof/Safety.lean ====
section
/-! DEFINITION. The terms in which claims speak of steps: what a step leaves alone, the thread that performs an
instruction, and what is well formed in a state. -/

namespace Sys2Proof.Machine

open Sys2Proof

/-- The memory of two states reads alike: every byte and every sidecar byte. -/
def SameMem (s t : State) : Prop :=
  (∀ a, t.mem.byte a = s.mem.byte a) ∧ (∀ line b, t.mem.side line b = s.mem.side line b)

/-- The blocks other than one are as they were. -/
def OthersSame (s t : State) (bid : Nat) : Prop := ∀ n, n ≠ bid → t.block? n = s.block? n

/-- A step that touches one block at most: all other state is as it was. -/
def OnlyBlock (s t : State) (bid : Nat) : Prop := t = { s with blocks := t.blocks } ∧ OthersSame s t bid

/-- A block's threads outside a run are as they were. -/
def OutsideRunSame (t : State) (i : Iss) : Prop :=
  ∀ n u, i.blk.threads[n]? = some u → i.run.has u = false → t.thread? i.blk.bid n = some u

/-- Thread `t`, at index `ti` of the issuing block, performs an instruction with signature `x` (R42, R47): it is in the
run, its guard holds, and no check before the instruction's own effect stops it. -/
def Performs (s : State) (x : Sig) (i : Iss) (ti : Nat) (t : Thread) : Prop :=
  s.iss? = some i ∧ i.blk.threads[ti]? = some t ∧ goes x s.tick i t = true

/-- A thread that alone performs an instruction: the rest of its run, if any, settles its fates. -/
def Alone (s : State) (x : Sig) (i : Iss) (ti : Nat) (t : Thread) : Prop :=
  Performs s x i ti t ∧ parts x s.tick i = [t] ∧ i.blk.tindex t = ti

/-- The threads of a run that perform an instruction do so one after another, in ascending position (R204): the state of the issue
with the other fates settled comes first, `step` leads from the state before each thread to the one after it, and the last of
these is the next state. -/
def InTurn (ins : Instr) (x : Sig) (s : State) (i : Iss) (step : State → Nat → Thread → State → Prop) : Prop :=
  ∀ σ : Nat → State, σ 0 = s.settleRun x i →
    (∀ k t, (parts x s.tick i)[k]? = some t → ∃ u, (σ k).thread? i.blk.bid (i.blk.tindex t) = some u ∧
      step (σ k) (i.blk.tindex t) u (σ (k + 1))) →
    exec ins s = .next (σ (parts x s.tick i).length)

/-- The value of a v register. -/
def Thread.reg (t : Thread) (n : Nat) : Word := t.v.getD n 0

/-- The 64-bit value of a pair of v registers, low word first (R101). -/
def Thread.reg64 (t : Thread) (n : Nat) : DWord := Machine.pair (t.reg n) (t.reg (n + 1))

/-- A thread with one v register written, and nothing else changed; the register's mark goes (R336). -/
def Thread.setV (t : Thread) (n : Nat) (x : Word) : Thread :=
  { t with v := setAt t.v n x, badRegs := t.badRegs.filter (· != n) }

/-- A thread with a pair of v registers written. -/
def Thread.setV2 (t : Thread) (n : Nat) (x : DWord) : Thread := (t.setV n (loWord x)).setV (n + 1) (hiWord x)

/-- A thread with one predicate written; a write to p7 is ignored, and the mark of one that is written goes (R336). -/
def Thread.setP (t : Thread) (n : Nat) (b : Bool) : Thread :=
  if n = 7 then t else { t with p := setPred t.p n b, badRegs := t.badRegs.filter (· != 0xE0 + n) }

/-- A thread that owes register writes as a V-class result (R50): their names join the pending set. -/
def Thread.owes (t : Thread) (names : List RegName) (xs : List RegWrite) : Thread :=
  { t with
    pend := t.pend ++ names.filter (fun n => !t.pend.contains n)
    results := t.results ++ [{ rid := t.nextRid, kind := .ready, writes := xs, late := none }] }

/-- A thread with one register written by its 8-bit specifier (R41): a v or k register, or nothing for 0xFF. -/
def Thread.put (t : Thread) (n : Nat) (x : Word) : Thread :=
  if n < 0x80 then t.setV n x
  else if 0xC0 ≤ n ∧ n < 0xD0 then { t with k := setAt t.k (n - 0xC0) x, badRegs := t.badRegs.filter (· != n) }
  else t

/-- A thread with consecutive registers written; nothing for 0xFF. -/
def Thread.puts (t : Thread) (n : Nat) : List Word → Thread
  | [] => t
  | x :: xs => if n = 0xFF then t else Thread.puts (t.put n x) (n + 1) xs

/-- A thread with one byte of a k register written, the register named by its specifier. -/
def Thread.putByte (t : Thread) (n b x : Nat) : Thread :=
  { t with k := modAt t.k (n - 0xC0) (fun w => BitVec.ofNat 32 (putBits w.toNat (8 * b) 8 (BitVec.ofNat 32 x).toNat)) }

/-- A warp with one w register written, where the specifier names a w register (R41, R114); the register's mark goes
(R336). -/
def Warp.put (w : Warp) (n : Nat) (x : Word) : Warp :=
  if 0x80 ≤ n ∧ n < 0xC0 then { w with w := setAt w.w (n - 0x80) x, badW := w.badW.filter (· != n - 0x80) } else w

/-- A warp with consecutive w registers written. -/
def Warp.puts (w : Warp) (n : Nat) : List Word → Warp
  | [] => w
  | x :: xs => if n = 0xFF then w else Warp.puts (w.put n x) (n + 1) xs

/-- The write of one v register. -/
def vWrite (n : Nat) (x : Word) : RegWrite := { dest := .v n, val := x }

/-- In one step the instruction makes `f i t` of every thread `t` that performs it. Nothing else of the state changes but
the threads of the run: no memory, no counter, no tile, no other block, no other warp. -/
def Results (ins : Instr) (x : Sig) (f : State → Iss → Thread → Thread) : Prop :=
  ∀ s i ti t, Performs s x i ti t → ∃ s' b', exec ins s = .next s' ∧
    s' = { s with blocks := s'.blocks } ∧ OthersSame s s' i.blk.bid ∧ s'.block? i.blk.bid = some b' ∧
    b' = { i.blk with threads := b'.threads } ∧ b'.threads[ti]? = some (f s i t) ∧
    ∀ (n : Nat) (u : Thread), i.blk.threads[n]? = some u → i.run.has u = false → b'.threads[n]? = some u

/-- From `s` to `s'` thread `ti` of the issuing block becomes `t'`. Nothing else changes but other threads of the run. -/
def OnlyThreads (s s' : State) (i : Iss) (ti : Nat) (t' : Thread) : Prop :=
  s' = { s with blocks := s'.blocks } ∧ OthersSame s s' i.blk.bid ∧ ∃ b', s'.block? i.blk.bid = some b' ∧
    b' = { i.blk with threads := b'.threads } ∧ b'.threads[ti]? = some t' ∧
    ∀ (n : Nat) (u : Thread), i.blk.threads[n]? = some u → i.run.has u = false → b'.threads[n]? = some u

/-- One step of the instruction makes thread `ti` of the issuing block `t'`, and changes nothing else but other threads of
the run. -/
def MakesThread (ins : Instr) (s : State) (i : Iss) (ti : Nat) (t' : Thread) : Prop :=
  ∃ s', exec ins s = .next s' ∧ OnlyThreads s s' i ti t'

/-- One step gives thread `t` its result `f`, as `Results` says, where the instruction may write a w register: the issuing
warp may change too, to what `g` gives of it from the first performing thread (R43, R114). -/
abbrev GivesW (ins : Instr) (x : Sig) (f : State → Iss → Thread → Thread)
    (g : State → Iss → Thread → Warp → Warp) (s : State) (i : Iss) (ti : Nat) (t : Thread) : Prop :=
  ∃ s' b' p, exec ins s = .next s' ∧
    s' = { s with blocks := s'.blocks } ∧ OthersSame s s' i.blk.bid ∧ s'.block? i.blk.bid = some b' ∧
    (parts x s.tick i).head? = some p ∧
    b' = { i.blk with
      threads := b'.threads
      warps := i.blk.warps.map (fun w => if w.crew = i.warp.crew ∧ w.lane = i.warp.lane ∧ w.first = i.warp.first
        then g s i p w else w) } ∧
    b'.threads[ti]? = some (f s i t) ∧
    ∀ (n : Nat) (u : Thread), i.blk.threads[n]? = some u → i.run.has u = false → b'.threads[n]? = some u

/-- The same for every thread that performs the instruction. -/
def ResultsW (ins : Instr) (x : Sig) (f : State → Iss → Thread → Thread) (g : State → Iss → Thread → Warp → Warp) :
    Prop :=
  ∀ s i ti t, Performs s x i ti t → GivesW ins x f g s i ti t

/-- The same for an instruction whose registers the block's format slots tell (R128). -/
def ResultsOf (ins : Instr) (x : List DWord → Sig) (f : State → Iss → Thread → Thread)
    (g : State → Iss → Thread → Warp → Warp) : Prop :=
  ∀ s i ti t, Performs s (x i.blk.slots) i ti t → GivesW ins (x i.blk.slots) f g s i ti t

/-- An instruction of 8 bytes that writes consecutive registers from specifier `d` on: each performing thread has the
values that `v` gives it, and goes on; a w register takes the values of the first performing thread. -/
def Writes (ins : Instr) (x : Sig) (sw : Bool) (d : Nat) (v : State → Iss → Thread → List Word) : Prop :=
  ResultsW ins x (fun s i t => (t.puts d (v s i t)).advance sw 8) (fun s i p w => w.puts d (v s i p))

/-- The 64-bit value of a pair of registers by specifier, low word first; 0xFF reads as zero (R41, R101). -/
def pairAt (w : List Word) (t : Thread) (n : Nat) : DWord :=
  if n = 0xFF then 0 else Machine.pair (readSpec w t n) (readSpec w t (n + 1))

/-- The words of a 64-bit value, low word first. -/
def words2 (x : DWord) : List Word := [loWord x, hiWord x]

/-- The memory's canonical form (R339 gives no contents, so an unlisted byte reads as 0). -/
def State.memOk (s : State) : Prop := s.mem.wf = true

/-- The sizes that the manual fixes: 64 function pages, 24 islands, 16 clocked half-dies, 128 ports (R25, R255, R324,
R331). -/
def State.shapeOk (s : State) : Prop :=
  s.plat.pages.length = 64 ∧ s.plat.islands.length = 24 ∧ s.plat.clocks.length = 16 ∧ s.plat.ports.length = 128

end Sys2Proof.Machine
end

