-- ==== Sys2Proof/WellFormed.lean ====
section
/-! DEFINITION. Well-formed instructions: those that pass every decode check of R47 in some block. -/

namespace Sys2Proof

/-- Whether an instruction passes the decode checks of R47: an inner major that the wide form carries, an assigned minor,
reserved fields, specifiers, alignment, the uniform rules and the guard. Format slots of 4-bit blocks ask least of a
group's alignment, so an instruction that depends on a slot is judged with those. Engine and host steps are no words, and
carry identities that name something or nothing. -/
def wellFormed (i : Instr) : Bool :=
  let x := Machine.sigOf (List.replicate 8 7) i
  x.majorOk && x.fate.isNone

/-- The proposition of `wellFormed`. -/
abbrev WellFormed (i : Instr) : Prop := wellFormed i = true

/-- The ILLOP subcode of the first decode check that an instruction fails (R47). -/
def illFormed (i : Instr) : Option Nat :=
  let x := Machine.sigOf (List.replicate 8 7) i
  if x.majorOk then x.fate else some 1

end Sys2Proof
end

