-- ==== Sys2Proof/Certificates/Slice0/Obligations.lean ====
section
/-! DEFINITION. The statements for the provers. -/

open Sys2Proof Sys2Proof.Machine

/-- Decoding the bytes of an encoded instruction gives it back and leaves what follows, with every operand at every value
that its fields hold (R2, R32 to R46).
A word that the decoder accepts is the word of the instruction that it gives: no two words of one length give the same
instruction (R34 to R46). -/
def Obligations.DecodingGivesBackEveryEncodedInstruction : Prop :=
  (∀ (i : Instr) (nb w : Nat) (rest : List Byte), encode i = some (nb, w) →
     decode (layBytes (nb / 8) w ++ rest) = .inr (i, rest) ∧ decodeTableWord nb w = some i) ∧
  (∀ (w : Nat) (i : Instr), w < 2 ^ (8 * lenOf w) → decodeWord w = .inr i → encode i = some (8 * lenOf w, w))

/-- Sample words written out from the encodings of the manual decode to the instructions that they stand for. -/
def Obligations.SampleWordsDecode : Prop :=
  decodeTableWord 32 0x22470931 = some (.iset { sw := false, m := 2, b := 9, a := 7, d := 2 }) ∧
  decodeTableWord 32 0x10C71959 = some (.shifti false 2 3 7 6) ∧
  decodeTableWord 64 0x000001C181411C0B =
    some (.ffma { sw := false, g := 7, ng := false, d := 4, a := 5, b := 6, c := 7, m := 0 }) ∧
  decodeTableWord 64 0x0008FFC302011C3B =
    some (.lea64 { sw := false, g := 7, ng := false, d := 4, a := 8, b := 12, c := 255, m := 35 }) ∧
  decodeTableWord 32 0x000003A1 = some (.idle false) ∧
  decodeTableWord 32 0x00040399 = some (.pginvPage false 4) ∧
  decodeTableWord 32 0x10000399 = some (.pginvContext false) ∧
  decodeTableWord 16 0x0000 = some (.c16Mov false 0 0) ∧
  decodeTableWord 16 0x0002 = some (.c16Mov true 0 0)

/-- R34: every one of the 65,536 patterns whose lowest bit is 0 and that is 16 bits long is an instruction; and a 16-bit
word that decodes is well formed, so that only MAXREG and HAZARD can stop it.
The majors that the maps of R45 and R46 leave empty, W32 major 0 included, give ILLOP subcode 1. -/
def Obligations.CompressedPatternsAndEmptyMajors : Prop :=
  (∀ w : Nat, w < 65536 → w % 2 = 0 → ∃ i, decodeTableWord 16 w = some i ∧ WellFormed i) ∧
  ((∀ w : Nat, w % 4 = 1 →
     (cut w 3 7 = 0 ∨ (0x13 ≤ cut w 3 7 ∧ cut w 3 7 ≤ 0x1F) ∨ (0x32 ≤ cut w 3 7 ∧ cut w 3 7 ≤ 0x37) ∨ cut w 3 7 = 0x3F ∨
       (0x43 ≤ cut w 3 7 ∧ cut w 3 7 ≤ 0x47) ∨ (0x4C ≤ cut w 3 7 ∧ cut w 3 7 ≤ 0x4F) ∨
       (0x51 ≤ cut w 3 7 ∧ cut w 3 7 ≤ 0x6F) ∨ 0x75 ≤ cut w 3 7) →
     decodeWord w = .inl { code := .illop, sub := 1, addr := 0, sys := false }) ∧
   (∀ w : Nat, w % 4 = 3 →
     (cut w 3 7 = 0 ∨ (0x0B ≤ cut w 3 7 ∧ cut w 3 7 ≤ 0x0F) ∨ (0x1A ≤ cut w 3 7 ∧ cut w 3 7 ≤ 0x1F) ∨
       (0x2D ≤ cut w 3 7 ∧ cut w 3 7 ≤ 0x2F) ∨ (0x40 ≤ cut w 3 7 ∧ cut w 3 7 ≤ 0x47) ∨
       (0x51 ≤ cut w 3 7 ∧ cut w 3 7 ≤ 0x57) ∨ 0x5F ≤ cut w 3 7) →
     decodeWord w = .inl { code := .illop, sub := 1, addr := 0, sys := false }))

/-- A lane's turn runs the instruction that its fetch decodes. The run is chosen by the rules of R66 and R67, the bytes
at its address are fetched and decoded (R32, R33, R47), and the step is the instruction's meaning at the state with the run
chosen; the watchdogs and the sets of warps are brought up to date after it. Before it the translations of the fetch are
noted, with accessed bits (R188), and so are the context's activity (R322) and the clocks of the warp's issue (R63).
Where the manual leaves a point open, the model's choice holds: log entries 1, 2 and 49. -/
def Obligations.AStepRunsTheDecodedInstruction : Prop :=
  ∀ (s : State) (die core part lane : Nat) (rest : List Turn) (r : WarpRef) (b : Block) (run : Run) (c : Context)
    (h w : Nat) (i : Instr),
    s.plat.stopped = false → s.agenda = .issue die core part lane :: rest →
    s.popTurn.elapse.nextRun die core part lane = some (r, b, run) → s.ctx? b.ctx = some c →
    run.addr.toNat % 2 = 0 →
    fetchHalves (s.popTurn.elapse.takeRun run) c b.site run.addr 1 = .inr h →
    fetchHalves (s.popTurn.elapse.takeRun run) c b.site run.addr (lenOf h / 2) = .inr w →
    decodeWord w = .inr i →
    let fetched := (s.popTurn.elapse.takeRun run).noteFetches c b.site run.addr (lenOf h / 2)
    let n := run.pos.length
    let s1 := (fetched.active b.ctx b.die).noteIssue die core part lane r
      (if (sigOf b.slots i).uniform = true then 1 else (n + 7) / 8)
    s1.cur = some run ∧ s1.tick = s.tick + 1 ∧ s1.agenda = rest ∧
      (∀ k, s1.thread? b.bid k = (s.popTurn.elapse.takeRun run).thread? b.bid k) ∧
      step s = finish s1 i (exec i s1)

/-- A turn that names a step of an engine, the host or the package performs exactly that step's meaning. With nothing named, the
model's own choice goes by turns, a lane's issue after an engine's step, so that neither keeps the other from its turn (R70).
A stopped package does nothing but a reset or a read of the read-back window (R332).
Where the manual leaves a point open, the model's choice holds: log entries 1 and 2. -/
def Obligations.AStepTakesTheNamedEvent : Prop :=
  (∀ (s : State) (e : Instr) (rest : List Turn), s.plat.stopped = false → s.agenda = .event e :: rest →
     step s = finish { s.popTurn.elapse with cur := none } e (exec e { s.popTurn.elapse with cur := none })) ∧
  (∀ s : State, s.plat.stopped = false → s.agenda = [] →
     (s.pickLane = none → s.pickEvent = none → step s = .next s.elapse.settle) ∧
     (∀ e, s.pickEvent = some e → s.tick % 2 = 0 ∨ s.pickLane = none → step s = step { s with agenda := [.event e] }) ∧
     (∀ d c p l, s.pickLane = some (d, c, p, l) → s.tick % 2 = 1 ∨ s.pickEvent = none →
       step s = step { s with agenda := [.issue d c p l] })) ∧
  (∀ s : State, s.plat.stopped = true →
     (s.agenda = [] → step s = .fault .packageStopped) ∧
     (∀ e rest, s.agenda = .event e :: rest → e ≠ .reset → (∀ off, e ≠ .readbackRead (.window off)) → step s = .next s.popTurn) ∧
     (∀ die core part lane rest, s.agenda = .issue die core part lane :: rest → step s = .next s.popTurn))

/-- Every step keeps the canonical form of memory: bytes and sidecar bytes listed in rising order, none of them zero.
Every step keeps the sizes that the manual fixes: 64 function pages, 24 islands, 16 clocked half-dies, 128 ports.
Where the manual leaves a point open, the model's choice holds: log entry 4. -/
def Obligations.EveryStepKeepsTheFormOfMemory : Prop :=
  (∀ s s' : State, s.memOk → step s = .next s' → s'.memOk) ∧
  (∀ s s' : State, s.shapeOk → step s = .next s' → s'.shapeOk)

/-- The state after reset has the canonical form of memory, and the sizes that the manual fixes.
Where the manual leaves a point open, the model's choice holds: log entries 4 and 16. -/
def Obligations.ResetHasTheFormOfMemory : Prop :=
 State.reset.memOk ∧ State.reset.shapeOk

/-- The compressed instructions (R34, R35): each of the sixteen writes its one destination as its longer equivalent does,
goes on by 2 bytes and obeys its marker; nothing else of the state changes. -/
def Obligations.CompressedInstructionsGiveTheirResults : Prop :=
  ∀ (sw : Bool) (d r : BitVec 5),
    Results (.c16Mov sw d r) (mov16Sig sw d r) (fun _ _ t => (t.setV d.toNat (t.reg r.toNat)).advance sw 2) ∧
    Results (.c16Add sw d r) (Gen.ofC16 0x20 0 sw d r).theSig
      (fun _ _ t => (t.setV d.toNat (t.reg d.toNat + t.reg r.toNat)).advance sw 2) ∧
    Results (.c16Sub sw d r) (Gen.ofC16 0x20 1 sw d r).theSig
      (fun _ _ t => (t.setV d.toNat (t.reg d.toNat - t.reg r.toNat)).advance sw 2) ∧
    Results (.c16Mul sw d r) (Gen.ofC16 0x21 0 sw d r).theSig
      (fun _ _ t => (t.setV d.toNat (t.reg d.toNat * t.reg r.toNat)).advance sw 2) ∧
    Results (.c16And sw d r) (Gen.ofC16 0x23 0 sw d r).theSig
      (fun _ _ t => (t.setV d.toNat (t.reg d.toNat &&& t.reg r.toNat)).advance sw 2) ∧
    Results (.c16Or sw d r) (Gen.ofC16 0x23 1 sw d r).theSig
      (fun _ _ t => (t.setV d.toNat (t.reg d.toNat ||| t.reg r.toNat)).advance sw 2) ∧
    Results (.c16Xor sw d r) (Gen.ofC16 0x23 2 sw d r).theSig
      (fun _ _ t => (t.setV d.toNat (t.reg d.toNat ^^^ t.reg r.toNat)).advance sw 2) ∧
    Results (.c16Shl sw d r) (Gen.ofC16 0x24 0 sw d r).theSig
      (fun _ _ t => (t.setV d.toNat (t.reg d.toNat <<< ((t.reg r.toNat).toNat % 64))).advance sw 2) ∧
    Results (.c16Shr sw d r) (Gen.ofC16 0x24 1 sw d r).theSig
      (fun _ _ t => (t.setV d.toNat (t.reg d.toNat >>> ((t.reg r.toNat).toNat % 64))).advance sw 2) ∧
    Results (.c16Sar sw d r) (Gen.ofC16 0x24 2 sw d r).theSig
      (fun _ _ t => (t.setV d.toNat ((t.reg d.toNat).sshiftRight ((t.reg r.toNat).toNat % 64))).advance sw 2) ∧
    Results (.c16Addi sw d r) (addi16 sw d r).theSig
      (fun _ _ t => (t.setV d.toNat (t.reg d.toNat + r.signExtend 32)).advance sw 2) ∧
    Results (.c16Movi sw d r) (moviSig 2 sw d.toNat) (fun _ _ t => (t.setV d.toNat (r.signExtend 32)).advance sw 2) ∧
    Results (.c16Fadd sw d r) (Gen.ofC16 0x38 0 sw d r).theSig
      (fun _ _ t => (t.setV d.toNat (rne32 ((f32 (t.reg d.toNat)).add (f32 (t.reg r.toNat))))).advance sw 2) ∧
    Results (.c16Fmul sw d r) (Gen.ofC16 0x39 0 sw d r).theSig
      (fun _ _ t => (t.setV d.toNat (rne32 ((f32 (t.reg d.toNat)).mul (f32 (t.reg r.toNat))))).advance sw 2) ∧
    Results (.c16Fmax sw d r) (Gen.ofC16 0x38 3 sw d r).theSig
      (fun _ _ t => (t.setV d.toNat (BitVec.ofNat 32 (minMax fp32 true (t.reg d.toNat).toNat (t.reg r.toNat).toNat))).advance sw 2) ∧
    Results (.c16Fmin sw d r) (Gen.ofC16 0x38 2 sw d r).theSig
      (fun _ _ t => (t.setV d.toNat (BitVec.ofNat 32 (minMax fp32 false (t.reg d.toNat).toNat (t.reg r.toNat).toNat))).advance sw 2)

/-- R94: every minor of `iadd`, `imul`, `iminmax`, `logic`, `shift` and `lea` writes v(d) as its row says, and nothing else
of the state changes. -/
def Obligations.RegisterIntegerOperationsGiveTheirResults : Prop :=
  ∀ f : FormA,
    Results (.iadd f) (Gen.ofA 0x20 f).theSig (fun _ _ t =>
      let a := t.reg f.a.toNat
      let b := t.reg f.b.toNat
      (t.setV f.d.toNat (match f.m.toNat with
        | 0 => a + b
        | 1 => a - b
        | 2 => BitVec.ofInt 32 (max (-(2 ^ 31)) (min (2 ^ 31 - 1) (a.toInt + b.toInt)))
        | 3 => BitVec.ofInt 32 (max (-(2 ^ 31)) (min (2 ^ 31 - 1) (a.toInt - b.toInt)))
        | 4 => BitVec.ofNat 32 (min (2 ^ 32 - 1) (a.toNat + b.toNat))
        | _ => if a.toNat < b.toNat then 0 else a - b)).advance f.sw 4) ∧
    Results (.imul f) (Gen.ofA 0x21 f).theSig (fun _ _ t =>
      let a := t.reg f.a.toNat
      let b := t.reg f.b.toNat
      (t.setV f.d.toNat (match f.m.toNat with
        | 0 => a * b
        | 1 => hiWord (a.signExtend 64 * b.signExtend 64)
        | 2 => hiWord (a.setWidth 64 * b.setWidth 64)
        | _ => hiWord (a.signExtend 64 * b.setWidth 64))).advance f.sw 4) ∧
    Results (.iminmax f) (Gen.ofA 0x22 f).theSig (fun _ _ t =>
      let a := t.reg f.a.toNat
      let b := t.reg f.b.toNat
      (t.setV f.d.toNat (match f.m.toNat with
        | 0 => if b.slt a then b else a
        | 1 => if b.ult a then b else a
        | 2 => if a.slt b then b else a
        | _ => if a.ult b then b else a)).advance f.sw 4) ∧
    Results (.logic f) (Gen.ofA 0x23 f).theSig (fun _ _ t =>
      let a := t.reg f.a.toNat
      let b := t.reg f.b.toNat
      (t.setV f.d.toNat (match f.m.toNat with
        | 0 => a &&& b
        | 1 => a ||| b
        | 2 => a ^^^ b
        | 3 => a &&& ~~~b
        | 4 => a ||| ~~~b
        | _ => ~~~(a ^^^ b))).advance f.sw 4) ∧
    Results (.shift f) (Gen.ofA 0x24 f).theSig (fun _ _ t =>
      let a := t.reg f.a.toNat
      let sh := (t.reg f.b.toNat).toNat % 64
      (t.setV f.d.toNat (match f.m.toNat with
        | 0 => if 32 ≤ sh then 0 else a <<< sh
        | 1 => if 32 ≤ sh then 0 else a >>> sh
        | 2 => a.sshiftRight (min sh 31)
        | 3 => a.rotateLeft (sh % 32)
        | _ => a.rotateRight (sh % 32))).advance f.sw 4) ∧
    Results (.lea f) (Gen.ofA 0x2E f).theSig (fun _ _ t =>
      (t.setV f.d.toNat (t.reg f.a.toNat + t.reg f.b.toNat <<< f.m.toNat)).advance f.sw 4)

/-- R95: every operation of `iunary` writes v(d) as its row says, and a word with b not zero is no instruction. -/
def Obligations.UnaryIntegerOperationsGiveTheirResults : Prop :=
  (∀ f : FormU, Results (.iunary f) (Gen.ofU 0x25 f).theSig (fun _ _ t =>
      let a := t.reg f.a.toNat
      (t.setV f.d.toNat (match f.m.toNat with
        | 0 => BitVec.ofNat 32 ((List.range 32).filter (fun k => a.getLsbD k)).length
        | 1 => BitVec.ofNat 32 ((List.range 32).takeWhile (fun k => !a.getLsbD (31 - k))).length
        | 2 => a.reverse
        | 3 => if a.slt 0 then 0 - a else a
        | 4 => 0 - a
        | 5 => ~~~a
        | 6 => (a.setWidth 8).signExtend 32
        | 7 => (a.setWidth 16).signExtend 32
        | 8 => (a.setWidth 8).setWidth 32
        | _ => (a.setWidth 16).setWidth 32)).advance f.sw 4)) ∧
  (∀ w : Nat, w % 4 = 1 → cut w 3 7 = 0x25 → cut w 28 4 < 10 → cut w 22 6 ≠ 0 →
    decodeWord w = .inl { code := .illop, sub := 3, addr := 0, sys := false })

/-- R97, R98: the immediate forms and the bit fields write v(d) as their rows say, and nothing else of the state changes. The
fates that the two rules name hold: unassigned kinds and minors, reserved bits, and a pending register that is read. -/
def Obligations.ImmediatesAndBitFieldsGiveTheirResults : Prop :=
  (∀ f : FormB,
    Results (.iaddi f) (Gen.ofB 0x27 f).theSig (fun _ _ t =>
      (t.setV f.d.toNat (t.reg f.a.toNat + f.imm.signExtend 32)).advance f.sw 4) ∧
    Results (.andi f) (Gen.ofB 0x28 f).theSig (fun _ _ t =>
      (t.setV f.d.toNat (t.reg f.a.toNat &&& f.imm.signExtend 32)).advance f.sw 4) ∧
    Results (.ori f) (Gen.ofB 0x29 f).theSig (fun _ _ t =>
      (t.setV f.d.toNat (t.reg f.a.toNat ||| f.imm.signExtend 32)).advance f.sw 4) ∧
    Results (.xori f) (Gen.ofB 0x2A f).theSig (fun _ _ t =>
      (t.setV f.d.toNat (t.reg f.a.toNat ^^^ f.imm.signExtend 32)).advance f.sw 4)) ∧
  (∀ (sw : Bool) (k : BitVec 3) (h : BitVec 5) (a d : BitVec 6),
    Results (.shifti sw k h a d) (sigOf [] (.shifti sw k h a d)) (fun _ _ t =>
      (t.setV d.toNat (match k.toNat with
        | 0 => t.reg a.toNat <<< h.toNat
        | 1 => t.reg a.toNat >>> h.toNat
        | 2 => (t.reg a.toNat).sshiftRight h.toNat
        | 3 => (t.reg a.toNat).rotateLeft h.toNat
        | _ => (t.reg a.toNat).rotateRight h.toNat)).advance sw 4)) ∧
  (∀ f : FormC,
    Results (.movi f) (moviSig 4 f.sw f.d.toNat) (fun _ _ t => (t.setV f.d.toNat (f.imm.signExtend 32)).advance f.sw 4) ∧
    Results (.movhi f) (movhiSig f) (fun _ _ t =>
      (t.setV f.d.toNat (f.imm.setWidth 32 <<< 16 ||| (t.reg f.d.toNat &&& 0xFFFF))).advance f.sw 4)) ∧
  (∀ f : FormA, Results (.bfx f) (Gen.ofA 0x2F f).theSig (fun _ _ t =>
      let a := t.reg f.a.toNat
      let pos := (t.reg f.b.toNat).toNat % 32
      let l := min ((t.reg f.b.toNat).toNat / 256 % 32) (32 - pos)
      let v := a.toNat / 2 ^ pos % 2 ^ l
      (t.setV f.d.toNat (if l = 0 then 0 else if f.m = 0 ∨ v < 2 ^ (l - 1) then BitVec.ofNat 32 v
        else BitVec.ofNat 32 (v + 2 ^ 32 - 2 ^ l))).advance f.sw 4)) ∧
  (∀ (sw : Bool) (b a d : BitVec 6), Results (.bfi sw b a d) (sigOf [] (.bfi sw b a d)) (fun _ _ t =>
      let pos := (t.reg b.toNat).toNat % 32
      let l := min ((t.reg b.toNat).toNat / 256 % 32) (32 - pos)
      let mask : Word := BitVec.ofNat 32 ((2 ^ l - 1) * 2 ^ pos)
      (t.setV d.toNat ((t.reg d.toNat &&& ~~~mask) ||| (t.reg a.toNat <<< pos &&& mask))).advance sw 4)) ∧
  (∀ w : Nat, w % 4 = 1 →
    (cut w 3 7 = 0x2B → cut w 30 2 ≠ 0 → decodeWord w = .inl { code := .illop, sub := 3, addr := 0, sys := false }) ∧
    (cut w 3 7 = 0x30 → cut w 28 4 ≠ 0 → decodeWord w = .inl { code := .illop, sub := 2, addr := 0, sys := false })) ∧
  (∀ (s : State) (i : Iss) (ti : Nat) (t : Thread), s.iss? = some i → i.blk.threads[ti]? = some t → i.run.has t = true →
    (∀ (sw : Bool) (k : BitVec 3) (h : BitVec 5) (a d : BitVec 6), 5 ≤ k.toNat →
      MakesThread (.shifti sw k h a d) s i ti (t.fault i.ctx .illop 3)) ∧
    (∀ f : FormA, 2 ≤ f.m.toNat → MakesThread (.bfx f) s i ti (t.fault i.ctx .illop 2)) ∧
    (∀ f : FormC, f.d.toNat < t.v.length → t.pend.contains (.v f.d.toNat) = true →
      MakesThread (.movhi f) s i ti (t.fault i.ctx .hazard 1 0 (f.d.setWidth 32))) ∧
    (∀ (sw : Bool) (b a d : BitVec 6), (∀ r ∈ [b, a, d], r.toNat < t.v.length) →
      (∀ r ∈ [b, a], r ≠ d → t.pend.contains (.v r.toNat) = false) → t.pend.contains (.v d.toNat) = true →
      MakesThread (.bfi sw b a d) s i ti (t.fault i.ctx .hazard 1 0 (d.setWidth 32))))

/-- R104, R107, R108: the FP32 and packed operations of the narrow forms write v(d) as their rows say, and nothing else of
the state changes.
R79, R96, R104: comparisons and predicate operations write p(d), a write to p7 is ignored, and nothing else of the
state changes. -/
def Obligations.FloatingAndPredicateOperationsGiveTheirResults : Prop :=
  ((∀ f : FormA,
     Results (.fadd f) (Gen.ofA 0x38 f).theSig (fun _ _ t =>
       let a := t.reg f.a.toNat
       let b := t.reg f.b.toNat
       (t.setV f.d.toNat (match f.m.toNat with
         | 0 => rne32 ((f32 a).add (f32 b))
         | 1 => rne32 ((f32 a).add (f32 b).negate)
         | 2 => BitVec.ofNat 32 (minMax fp32 false a.toNat b.toNat)
         | _ => BitVec.ofNat 32 (minMax fp32 true a.toNat b.toNat))).advance f.sw 4) ∧
     Results (.fmul f) (Gen.ofA 0x39 f).theSig (fun _ _ t =>
       (t.setV f.d.toNat (round32 (match f.m.toNat with
         | 0 => .rne
         | 1 => .rz
         | 2 => .ru
         | _ => .rd) ((f32 (t.reg f.a.toNat)).mul (f32 (t.reg f.b.toNat))))).advance f.sw 4) ∧
     Results (.hop f) (Gen.ofA 0x3E f).theSig (fun _ _ t =>
       (t.setV f.d.toNat (halves fun k =>
         let g := if f.m.toNat < 4 then bf16 else fp16
         let a := half (t.reg f.a.toNat) k
         let b := half (t.reg f.b.toNat) k
         match f.m.toNat % 4 with
         | 0 => g.round .rne false ((decodeFp g a).add (decodeFp g b))
         | 1 => g.round .rne false ((decodeFp g a).mul (decodeFp g b))
         | 2 => minMax g true a b
         | _ => minMax g false a b)).advance f.sw 4)) ∧
   (∀ f : FormU,
     Results (.cvtfi f) (Gen.ofU 0x3C f).theSig (fun _ _ t =>
       let v := f32 (t.reg f.a.toNat)
       (t.setV f.d.toNat (BitVec.ofInt 32 (match f.m.toNat with
         | 0 => roundInt .rne (-(2 ^ 31)) (2 ^ 31 - 1) v
         | 1 => roundInt .rz (-(2 ^ 31)) (2 ^ 31 - 1) v
         | 2 => roundInt .rne 0 (2 ^ 32 - 1) v
         | _ => roundInt .rz 0 (2 ^ 32 - 1) v))).advance f.sw 4) ∧
     Results (.cvtif f) (Gen.ofU 0x3D f).theSig (fun _ _ t =>
       (t.setV f.d.toNat (rne32 (ofInt (if f.m = 0 then (t.reg f.a.toNat).toInt else (t.reg f.a.toNat).toNat)))).advance f.sw 4))) ∧
  (∀ f : FormA,
     Results (.iset f) (Gen.ofA 0x26 f).theSig (fun _ _ t =>
       let a := t.reg f.a.toNat
       let b := t.reg f.b.toNat
       (t.setP f.d.toNat (match f.m.toNat with
         | 0 => a == b
         | 1 => a != b
         | 2 => a.slt b
         | 3 => !b.slt a
         | 4 => b.slt a
         | 5 => !a.slt b
         | 6 => a.ult b
         | 7 => !b.ult a
         | 8 => b.ult a
         | _ => !a.ult b)).advance f.sw 4) ∧
     Results (.fset f) (Gen.ofA 0x3A f).theSig (fun _ _ t =>
       let a := f32 (t.reg f.a.toNat)
       let b := f32 (t.reg f.b.toNat)
       let un := a.isNan || b.isNan
       (t.setP f.d.toNat (match f.m.toNat with
         | 0 => !un && a.eq b
         | 1 => un || !a.eq b
         | 2 => !un && a.lt b
         | 3 => !un && (a.lt b || a.eq b)
         | 4 => !un && b.lt a
         | 5 => !un && (b.lt a || a.eq b)
         | 6 => un
         | _ => !un)).advance f.sw 4) ∧
     Results (.plog f) (Gen.ofA 0x08 f).theSig (fun _ _ t =>
       let a := readPred t f.a.toNat
       let b := readPred t f.b.toNat
       (t.setP f.d.toNat (match f.m.toNat with
         | 0 => a && b
         | 1 => a || b
         | 2 => xor a b
         | 3 => a && !b
         | 4 => !(a && b)
         | 5 => !(a || b)
         | 6 => !xor a b
         | _ => !a)).advance f.sw 4))

/-- R99, R106, R112, R113: `idiv`, `func`, `wred` and `wscan` write v(d) as a V-class result (R50): the register becomes
pending, the thread goes on, and the value that arrives is the one of the instruction's row. `func` has the values that the
table of R106 gives at its special inputs. A thread of the run that traps or waits gives nothing to `wred` and `wscan`.
Where the manual leaves a point open, the model's choice holds: log entries 56 and 58. -/
def Obligations.SlowOperationsOweTheirResults : Prop :=
  (∀ f : FormA, Results (.idiv f) (Gen.ofA 0x31 f).theSig (fun _ _ t =>
      let a := t.reg f.a.toNat
      let b := t.reg f.b.toNat
      (t.owes [.v f.d.toNat] [vWrite f.d.toNat (match f.m.toNat with
        | 0 => if b = 0 then 0xFFFFFFFF else a.sdiv b
        | 1 => if b = 0 then 0xFFFFFFFF else a / b
        | 2 => if b = 0 then a else a.srem b
        | _ => a % b)]).advance f.sw 4)) ∧
  (∀ f : FormU, Results (.func f) (Gen.ofU 0x3B f).theSig (fun _ _ t =>
      (t.owes [.v f.d.toNat] [vWrite f.d.toNat (funcVal f.m.toNat (t.reg f.a.toNat))]).advance f.sw 4)) ∧
  ([0, 1, 2, 3, 4, 5, 6, 7].map (fun m => funcVal m 0xFF800000) =
    [0x80000000, 0x7FC00000, 0x7FC00000, 0, 0x7FC00000, 0x7FC00000, 0x7FC00000, 0xBF800000]) ∧
  ([0, 1, 2, 3, 4, 5, 6, 7].map (fun m => funcVal m 0x80000000) =
    [0xFF800000, 0xFF800000, 0x80000000, 0x3F800000, 0xFF800000, 0x80000000, 0x3F800000, 0x80000000]) ∧
  ([0, 1, 2, 3, 4, 5, 6, 7].map (fun m => funcVal m 0) =
    [0x7F800000, 0x7F800000, 0, 0x3F800000, 0xFF800000, 0, 0x3F800000, 0]) ∧
  ([0, 1, 2, 3, 4, 5, 6, 7].map (fun m => funcVal m 0x7F800000) =
    [0, 0, 0x7F800000, 0x7F800000, 0x7F800000, 0x7FC00000, 0x7FC00000, 0x3F800000]) ∧
  (∀ m a, m ≤ 7 → (f32 a).isNan = true → funcVal m a = 0x7FC00000) ∧
  (∀ a : Word, 0x80000000 < a.toNat → a.toNat < 0xFF800000 → ∀ m ∈ [1, 2, 4], funcVal m a = 0x7FC00000) ∧
  (∀ f : FormU, Results (.wred f) (Gen.ofU 0x41 f).theSig (fun s i t =>
      let step (r x : Word) : Word := match f.m.toNat with
        | 0 => r + x
        | 1 => if x.slt r then x else r
        | 2 => if r.slt x then x else r
        | 3 => if x.ult r then x else r
        | 4 => if r.ult x then x else r
        | 5 => r &&& x
        | 6 => r ||| x
        | 7 => r ^^^ x
        | 8 => rne32 ((f32 r).add (f32 x))
        | 9 => BitVec.ofNat 32 (minMax fp32 false r.toNat x.toNat)
        | 10 => BitVec.ofNat 32 (minMax fp32 true r.toNat x.toNat)
        | _ => rne32 (amax2 (f32 r) (f32 x))
      (t.owes [.v f.d.toNat] [vWrite f.d.toNat
        (match (parts (Gen.ofU 0x41 f).theSig s.tick i).map (fun u => u.reg f.a.toNat) with
          | [] => 0
          | x :: xs =>
            let r := xs.foldl step (if f.m.toNat = 11 then rne32 (f32 x).abs else x)
            if 8 ≤ f.m.toNat ∧ (f32 r).isNan = true then 0x7FC00000 else r)]).advance f.sw 4)) ∧
  (∀ f : FormU, Results (.wscan f) (Gen.ofU 0x42 f).theSig (fun s i t =>
      let ps := parts (Gen.ofU 0x42 f).theSig s.tick i
      let before := (ps.filter (fun u => if f.m.toNat % 2 = 0 then u.slot ≤ t.slot else u.slot < t.slot)).map
        (fun u => u.reg f.a.toNat)
      (t.owes [.v f.d.toNat] [vWrite f.d.toNat
        (match before with
          | [] => 0
          | x :: xs =>
            if f.m.toNat < 2 then xs.foldl (· + ·) x
            else
              let r := xs.foldl (fun r x => rne32 ((f32 r).add (f32 x))) x
              if (f32 r).isNan then 0x7FC00000 else r)]).advance f.sw 4))

/-- R81, R82, R83, R110: `vote`, `match`, `elect` and warp-scope `shfl` give every performing thread what the participants
of its run give (R80), and nothing else of the state changes.
R111: a crew-scope `shfl` that a thread performs takes the thread's next round, to which it contributes v(a); its
V-class result waits for the round of its source, or is its own contribution where the source is out of range.
Where the manual leaves a point open, the model's choice holds: log entries 37 and 56. -/
def Obligations.VotesAndShufflesCombineTheParticipants : Prop :=
  ((∀ f : FormU, Results (.vote f) (Gen.ofU 0x09 f).theSig (fun s i t =>
       let ps := parts (Gen.ofU 0x09 f).theSig s.tick i
       let yes := ps.filter (fun u => readPred u f.a.toNat)
       let mask := (yes.map (fun u => 2 ^ (u.slot - i.warp.first))).sum
       (match f.m.toNat with
         | 0 => t.setV f.d.toNat (BitVec.ofNat 32 mask)
         | 1 => t.setV f.d.toNat (BitVec.ofNat 32 (mask / 2 ^ 32))
         | 2 => t.setP f.d.toNat (!yes.isEmpty)
         | 3 => t.setP f.d.toNat (yes.length == ps.length)
         | _ => t.setV f.d.toNat (BitVec.ofNat 32 yes.length)).advance f.sw 4)) ∧
   (∀ f : FormA, Results (.matchPeers f) (Gen.ofA 0x0A f).theSig (fun s i t =>
       let ps := parts (Gen.ofA 0x0A f).theSig s.tick i
       let peers := ps.filter (fun u =>
         if f.m = 0 then u.reg f.a.toNat == t.reg f.a.toNat else u.reg64 f.a.toNat == t.reg64 f.a.toNat)
       let mask := BitVec.ofNat 64 (peers.map (fun u => 2 ^ (u.slot - i.warp.first))).sum
       let lead : Bool := peers.all (fun u => t.slot ≤ u.slot)
       (t.owes ([.v f.d.toNat, .v (f.d.toNat + 1)] ++ if f.b.toNat = 7 then [] else [.p f.b.toNat])
         ([vWrite f.d.toNat (loWord mask), vWrite (f.d.toNat + 1) (hiWord mask)] ++
           if f.b.toNat = 7 then [] else [{ dest := .p f.b.toNat, val := if lead then 1 else 0 }])).advance f.sw 4)) ∧
   (∀ (sw : Bool) (d : BitVec 6), Results (.elect sw d) (sigOf [] (.elect sw d)) (fun s i t =>
       (t.setP d.toNat ((parts (sigOf [] (.elect sw d)) s.tick i).all (fun u => t.slot ≤ u.slot))).advance sw 4)) ∧
   (∀ f : FormA, f.m.toNat < 4 → Results (.shfl f) (Gen.ofA 0x40 f).theSig (fun s i t =>
       let k := (t.reg f.b.toNat).toNat
       let pos := t.slot - i.warp.first
       let source : Option Nat := match f.m.toNat with
         | 0 => some (k % i.warp.size)
         | 1 => if k ≤ pos then some (pos - k) else none
         | 2 => if pos + k < i.warp.size then some (pos + k) else none
         | _ => if Nat.xor pos k < i.warp.size then some (Nat.xor pos k) else none
       let giver : Option Thread := source.bind (fun p =>
         (parts (Gen.ofA 0x40 f).theSig s.tick i).find? (fun u => u.slot - i.warp.first == p))
       (t.setV f.d.toNat (match giver with
         | some u => u.reg f.a.toNat
         | none => t.reg f.a.toNat)).advance f.sw 4))) ∧
  (∀ (f : FormA) (s : State) (i : Iss) (ti : Nat) (t : Thread), 4 ≤ f.m.toNat →
     Performs s (Gen.ofA 0x40 f).theSig i ti t →
     ∃ s', exec (.shfl f) s = .next s' ∧ OnlyBlock s s' i.blk.bid ∧ OutsideRunSame s' i ∧
       s'.thread? i.blk.bid ti = some (
         let k := (t.reg f.b.toNat).toNat
         let own := t.reg f.a.toNat
         let source : Option Nat := match f.m.toNat with
           | 4 => some (k % i.blk.nthr)
           | 5 => if k ≤ t.tid then some (t.tid - k) else none
           | 6 => if t.tid + k < i.blk.nthr then some (t.tid + k) else none
           | _ => if Nat.xor t.tid k < i.blk.nthr then some (Nat.xor t.tid k) else none
         let kind : ResultKind := match source with
           | some p => .shfl p t.shares.length own (.v f.d.toNat)
           | none => .ready
         ({ t with
             shares := t.shares ++ [some own]
             pend := t.pend ++ [RegName.v f.d.toNat].filter (fun n => !t.pend.contains n)
             results := t.results ++ [{ rid := t.nextRid, kind := kind, writes := [vWrite f.d.toNat own], late := none }]
           } : Thread).advance f.sw 4))

/-- R91, R146: `movs` writes the special register that its number names, a 64-bit one as a pair; `movf` writes the named
word of the named format slot.
Where the manual leaves a point open, the model's choice holds: log entry 2. -/
def Obligations.SpecialRegistersAndSlotsAreRead : Prop :=
  (∀ (sw : Bool) (num : BitVec 10) (d : BitVec 6), Results (.movs sw num d) (sigOf [] (.movs sw num d)) (fun s i t =>
      let b := i.blk
      let x : DWord := match num.toNat with
        | 0 => BitVec.ofNat 64 t.tid
        | 1 => BitVec.ofNat 64 t.slot
        | 2 => BitVec.ofNat 64 t.lane
        | 3 => BitVec.ofNat 64 (((b.places[t.crew]?).map (·.part)).getD 0)
        | 4 => BitVec.ofNat 64 (32 * t.lane + i.warp.first / 8)
        | 5 => BitVec.ofNat 64 i.warp.size
        | 6 => BitVec.ofNat 64 t.crew
        | 7 => BitVec.ofNat 64 b.blk
        | 8 => b.clus.setWidth 64
        | 9 => BitVec.ofNat 64 b.die
        | 10 => BitVec.ofNat 64 s.plat.fuses.pkg
        | 11 => BitVec.ofNat 64 b.nthr
        | 12 => BitVec.ofNat 64 b.ncrew
        | 13 => BitVec.ofNat 64 b.nblk
        | 14 => BitVec.ofNat 64 b.pos
        | 15 => BitVec.ofNat 64 b.bmask
        | 16 => BitVec.ofNat 64 (s.clockOf b)
        | 17 => BitVec.ofNat 64 s.plat.time
        | 18 => b.seed
        | _ => BitVec.ofNat 64 b.ctx
      (if 16 ≤ num.toNat ∧ num.toNat ≤ 18 then t.setV2 d.toNat x else t.setV d.toNat (loWord x)).advance sw 4)) ∧
  (∀ (sw w : Bool) (f : BitVec 3) (d : BitVec 6), Results (.movf sw w f d) (sigOf [] (.movf sw w f d)) (fun _ i t =>
      let slot := i.blk.slots.getD f.toNat 0
      (t.setV d.toNat (if w then hiWord slot else loWord slot)).advance sw 4))

/-- R101: the X64 integer operations write their registers, whatever their class, as their rows say.
R40, R105, R109: `movx`, `ffma` and `hfma` write their registers, whatever their class, as their rows say. -/
def Obligations.WideOperationsGiveTheirResults : Prop :=
  (∀ x : FormX,
     Writes (.imad x) (imadSig x) x.sw x.d.toNat (fun _ i t =>
       let a := readSpec i.warp.w t x.a.toNat
       let b := readSpec i.warp.w t x.b.toNat
       match x.fld 47 46 with
       | 0 => [a * b + readSpec i.warp.w t x.c.toNat]
       | 1 => words2 (a.signExtend 64 * b.signExtend 64 + pairAt i.warp.w t x.c.toNat)
       | _ => words2 (a.setWidth 64 * b.setWidth 64 + pairAt i.warp.w t x.c.toNat)) ∧
     Writes (.sel x) (selSig x) x.sw x.d.toNat (fun _ i t =>
       let take : Bool := xor (readPred t (x.fld 48 46)) (x.fld 49 49 == 1)
       if x.fld 50 50 = 1 then words2 (if take then pairAt i.warp.w t x.a.toNat else pairAt i.warp.w t x.b.toNat)
       else [if take then readSpec i.warp.w t x.a.toNat else readSpec i.warp.w t x.b.toNat]) ∧
     Writes (.idp4 x) (idp4Sig x) x.sw x.d.toNat (fun _ i t =>
       let a := readSpec i.warp.w t x.a.toNat
       let b := readSpec i.warp.w t x.b.toNat
       let c := readSpec i.warp.w t x.c.toNat
       let byte (signed : Bool) (w : Word) (n : Nat) : Int :=
         let y : BitVec 8 := (w >>> (8 * n)).setWidth 8
         if signed then y.toInt else y.toNat
       let term (n : Nat) : Int := byte (x.fld 46 46 == 1) a n * byte (x.fld 47 47 == 1) b n
       let dot := term 0 + term 1 + term 2 + term 3
       [if x.fld 48 48 = 1 then BitVec.ofInt 32 (max (-(2 ^ 31)) (min (2 ^ 31 - 1) (c.toInt + dot)))
        else BitVec.ofInt 32 (c.toInt + dot)]) ∧
     Writes (.iadd64 x) (iadd64Sig x) x.sw x.d.toNat (fun _ i t =>
       let a := pairAt i.warp.w t x.a.toNat
       let b : DWord := match x.fld 48 47 with
         | 0 => pairAt i.warp.w t x.b.toNat
         | 1 => (readSpec i.warp.w t x.b.toNat).signExtend 64
         | _ => (readSpec i.warp.w t x.b.toNat).setWidth 64
       words2 (if x.fld 46 46 = 1 then a - b else a + b)) ∧
     Writes (.lea64 x) (lea64Sig x) x.sw x.d.toNat (fun _ i t =>
       let b : DWord := match x.fld 51 50 with
         | 0 => pairAt i.warp.w t x.b.toNat
         | 1 => (readSpec i.warp.w t x.b.toNat).signExtend 64
         | _ => (readSpec i.warp.w t x.b.toNat).setWidth 64
       words2 (pairAt i.warp.w t x.a.toNat + b <<< x.fld 49 46)) ∧
     Results (.iset64 x) (iset64Sig x) (fun _ i t =>
       let a := pairAt i.warp.w t x.a.toNat
       let b := pairAt i.warp.w t x.b.toNat
       (t.setP x.d.toNat (match x.fld 49 46 with
         | 0 => a == b
         | 1 => a != b
         | 2 => a.slt b
         | 3 => !b.slt a
         | 4 => b.slt a
         | 5 => !a.slt b
         | 6 => a.ult b
         | 7 => !b.ult a
         | 8 => b.ult a
         | _ => !a.ult b)).advance x.sw 8)) ∧
  ((∀ x : FormI,
     (x.kind = 0 → Writes (.movx x) (movxSig x) x.sw x.d.toNat (fun _ _ _ => [x.imm])) ∧
     (x.kind = 1 → Writes (.movx x) (movxSig x) x.sw x.d.toNat (fun _ _ _ => words2 (x.imm.signExtend 64))) ∧
     (x.kind = 2 → x.d ≠ 0xFF → Writes (.movx x) (movxSig x) x.sw (x.d.toNat + 1) (fun _ _ _ => [x.imm])) ∧
     (x.kind = 2 → x.d = 0xFF → Writes (.movx x) (movxSig x) x.sw 0xFF (fun _ _ _ => [])) ∧
     (x.kind = 3 → Writes (.movx x) (movxSig x) x.sw x.d.toNat (fun _ i t => [readSpec i.warp.w t x.a.toNat]))) ∧
   (∀ x : FormX,
     Writes (.ffma x) (ffmaSig x) x.sw x.d.toNat (fun _ i t =>
       let mode := modeOf (x.fld 47 46)
       let p := (f32 (readSpec i.warp.w t x.a.toNat)).mul (f32 (readSpec i.warp.w t x.b.toNat))
       let c := f32 (readSpec i.warp.w t x.c.toNat)
       [round32 mode ((if x.fld 48 48 = 1 then p.negate else p).add (if x.fld 49 49 = 1 then c.negate else c) (mode == .rd))]) ∧
     Writes (.hfma x) (hfmaSig x) x.sw x.d.toNat (fun _ i t =>
       let g := if x.fld 46 46 = 0 then bf16 else fp16
       let mode := modeOf (x.fld 48 47)
       let one (k : Nat) : Nat :=
         let p := (decodeFp g (half (readSpec i.warp.w t x.a.toNat) k)).mul (decodeFp g (half (readSpec i.warp.w t x.b.toNat) k))
         let c := decodeFp g (half (readSpec i.warp.w t x.c.toNat) k)
         g.round mode false
           ((if x.fld 49 49 = 1 then p.negate else p).add (if x.fld 50 50 = 1 then c.negate else c) (mode == .rd))
       [halves one])))

/-- R137, R139, R140: `cvt`, `dqn` and `amax` write the groups of registers that their rows say. `cvt` copies codes between
formats of one code, and rounds every other element as R124 to R126 say; `dqn` expands a block under the scale of the
quad's lowest participant; `amax` gives the largest magnitude of the quad's participants, or of the thread. A thread that traps
or waits is no participant.
Where the manual leaves a point open, the model's choice holds: log entry 56. -/
def Obligations.ConversionsOfElementsGiveTheirResults : Prop :=
  ∀ x : FormX,
    ResultsOf (.cvt x) (fun slots => cvtSig slots x)
      (fun _ i t => (t.puts x.d.toNat (cvtWords x i t)).advance x.sw 8)
      (fun _ i p w => w.puts x.d.toNat (cvtWords x i p)) ∧
    (∀ i t, fmtWidth (slotFmt (i.blk.slots.getD (x.fld 48 46) 0)) ∈ [4, 6, 8, 16, 32] → ∀ n < 2 ^ x.fld 55 54,
      ∀ v, (unpackCodes (fmtWidth (x.fld 53 49)) (2 ^ x.fld 55 54)
          ((t.rd i.warp.w).regs x.a.toNat (groupRegs (2 ^ x.fld 55 54) (fmtWidth (x.fld 53 49)))))[n]? = some v →
        (unpackCodes (fmtWidth (slotFmt (i.blk.slots.getD (x.fld 48 46) 0))) (2 ^ x.fld 55 54) (cvtWords x i t))[n]? =
          some (if x.fld 53 49 = slotFmt (i.blk.slots.getD (x.fld 48 46) 0) then v
            else slotCvt (i.blk.slots.getD (x.fld 48 46) 0) i.blk.seed
              (pairAt i.warp.w t x.b.toNat + BitVec.ofNat 64 n) (plainVal (x.fld 53 49) v) %
                2 ^ fmtWidth (slotFmt (i.blk.slots.getD (x.fld 48 46) 0)))) ∧
    Writes (.dqn x) (dqnSig x) x.sw x.d.toNat (fun s i t =>
      let fmt := x.fld 52 48
      let quad := (parts (dqnSig x) s.tick i).filter (fun u => u.slot / 4 == t.slot / 4)
      let sc := (quad.head?.map (fun u => byteOf (readSpec i.warp.w u x.c.toNat) (x.fld 54 53))).getD 0
      let vs := (unpackCodes (fmtWidth fmt) 8 ((t.rd i.warp.w).regs x.a.toNat (blockRegs fmt))).map (blockVal fmt sc)
      if x.fld 55 55 = 1 then packCodes 16 4 (vs.map (bf16.round .rne false)) else vs.map rne32) ∧
    Writes (.amax x) (amaxSig x) x.sw x.d.toNat (fun s i t =>
      let vals (u : Thread) : List Val := octetVals (u.rd i.warp.w) (x.fld 46 46 == 1) x.a.toNat
      let us := if x.fld 47 47 = 1 then [t] else (parts (amaxSig x) s.tick i).filter (fun u => u.slot / 4 == t.slot / 4)
      [rne32 ((us.flatMap vals).foldl amax2 (.fin false 0 0))])

/-- R138, R141, R142, R143: `qnt`, `rscl`, `scof` and `rhad` write the scale byte and the codes of their blocks, or the
rotated octet: the scale comes from the rule over the quad's participants, or is the one given.
R144, R145: `rand` hashes its counter under its key and stream; `npack` and `nunpk` move elements between one register
each and their packed layout.
Where the manual leaves a point open, the model's choice holds: log entries 8, 12, 22, 56, 60, 61, 62 and 63. -/
def Obligations.QuantisationsGiveTheirResults : Prop :=
  (∀ x : FormX,
     ResultsOf (.qnt x) (fun slots => qntSig slots x)
       (fun s i t =>
         let slot := i.blk.slots.getD (x.fld 48 46) 0
         let fmt := slotFmt slot
         let quad := (parts (qntSig i.blk.slots x) s.tick i).filter (fun u => u.slot / 4 == t.slot / 4)
         let vals (u : Thread) : List Val := octetVals (u.rd i.warp.w) (x.fld 50 49 == 1) x.a.toNat
         let scale : Nat :=
           if x.fld 53 53 = 1 then
             (quad.head?.map (fun u => byteOf (readSpec i.warp.w u x.c.toNat) (x.fld 52 51))).getD 0
           else scaleRule ((quad.flatMap vals).foldl amax2 (.fin false 0 0)) fmt (slotAx4 slot)
         let codes := (vals t).zipIdx.map (fun (v, k) =>
           quantise fmt scale (slotMode slot i.blk.seed (pairAt i.warp.w t x.b.toNat + BitVec.ofNat 64 k))
             (x.fld 53 53 == 0 || slotSat slot) v)
         ((t.putByte x.c.toNat (x.fld 52 51) scale).puts x.d.toNat
           (packCodes (fmtWidth fmt) (groupRegs 8 (fmtWidth fmt)) codes)).advance x.sw 8)
       (fun _ _ _ w => w) ∧
     ResultsOf (.scof x) (fun slots => scofSig slots x)
       (fun _ i t =>
         let slot := i.blk.slots.getD (x.fld 48 46) 0
         let a := (f32 (readSpec i.warp.w t x.a.toNat)).abs
         (t.putByte x.d.toNat (x.fld 50 49)
           (if x.fld 51 51 = 1 then ceilRule a (slotFmt slot) (slotAx4 slot)
            else scaleRule a (slotFmt slot) (slotAx4 slot))).advance x.sw 8)
       (fun _ _ _ w => w) ∧
     ResultsOf (.rscl x) (fun slots => rsclSig slots x)
       (fun s i t =>
         let slot := i.blk.slots.getD (x.fld 48 46) 0
         let fmt := slotFmt slot
         let old := x.fld 63 59
         let quad := (parts (rsclSig i.blk.slots x) s.tick i).filter (fun u => u.slot / 4 == t.slot / 4)
         let byte (k : Nat) : Nat := (quad.head?.map (fun u => byteOf (readSpec i.warp.w u x.c.toNat) k)).getD 0
         let s0 := byte (x.fld 57 56)
         let vals (u : Thread) : List Val :=
           (unpackCodes (fmtWidth old) 8 ((u.rd i.warp.w).regs x.a.toNat (groupRegs 8 (fmtWidth old)))).map (blockVal old s0)
         let rule : Bool := x.fld 58 58 == 1
         let scale : Nat :=
           if nanScale old s0 then nanScaleByte fmt (if rule then slotAx4 slot else byte (x.fld 55 54) / 64)
           else if rule then scaleRule ((quad.flatMap vals).foldl amax2 (.fin false 0 0)) fmt (slotAx4 slot)
           else byte (x.fld 55 54)
         let codes := (vals t).zipIdx.map (fun (v, k) =>
           quantise fmt scale (slotMode slot i.blk.seed (pairAt i.warp.w t x.b.toNat + BitVec.ofNat 64 k))
             (rule || slotSat slot) v)
         ((t.putByte x.c.toNat (x.fld 55 54) scale).puts x.d.toNat
           (packCodes (fmtWidth fmt) (groupRegs 8 (fmtWidth fmt)) codes)).advance x.sw 8)
       (fun _ _ _ w => w) ∧
     ResultsOf (.rhad x) (fun slots => rhadSig slots x)
       (fun s i t =>
         let size : Nat := [16, 64, 256].getD (x.fld 50 49) 16
         let slot := i.blk.slots.getD (x.fld 48 46) 0
         let base := (t.slot - i.warp.first) / (size / 8) * (size / 8)
         let holder (e : Nat) : Option Thread := (parts (rhadSig i.blk.slots x) s.tick i).find? (fun u =>
           u.slot - i.warp.first == base + e / 8)
         let start : List Val := (List.range size).map (fun e =>
           ((holder e).map (fun u => f32 (readSpec i.warp.w u (if x.a = 0xFF then 0xFF else x.a.toNat + e % 8)))).getD
             (.fin false 0 0))
         let signs (ys : List Val) : List Val := ys.zipIdx.map (fun (v, e) => match holder e with
           | some u =>
             let h := chg (pairAt i.warp.w u x.c.toNat) (slotStream slot)
               (pairAt i.warp.w u x.b.toNat + BitVec.ofNat 64 (e % 8))
             if x.fld 52 52 = 0 ∧ h.getLsbD 63 = true then v.negate else v
           | none => v)
         let stage (ys : List Val) (h : Nat) : List Val := (List.range size).map (fun e =>
           if e / h % 2 = 0 then f32 (rne32 ((ys.getD e .nan).add (ys.getD (e + h) .nan)))
           else f32 (rne32 ((ys.getD (e - h) .nan).add (ys.getD e .nan).negate)))
         let stages (ys : List Val) : List Val :=
           (([1, 2, 4, 8, 16, 32, 64, 128].filter (fun h => decide (h < size))).foldl stage ys)
         let turned : List Val := if x.fld 51 51 = 1 then signs (stages start) else stages (signs start)
         let out := turned.map (fun v => rne32 (v.scale (-([2, 3, 4].getD (x.fld 50 49) 2))))
         (t.puts x.d.toNat ((out.drop (8 * (t.slot - i.warp.first - base))).take 8)).advance x.sw 8)
       (fun _ _ _ w => w)) ∧
  (∀ x : FormX,
     let randWords (i : Iss) (t : Thread) : List Word :=
       let stream := if x.fld 49 49 = 1 then (readSpec i.warp.w t x.c.toNat).toNat
         else (i.blk.slots.getD (x.fld 48 46) 0).toNat / 2 ^ 16 % 2 ^ 32
       let c := chg (pairAt i.warp.w t x.b.toNat) stream (pairAt i.warp.w t x.a.toNat)
       if x.fld 51 50 = 0 then words2 c else [rne32 (.fin false (c.toNat / 2 ^ 40) (-24))]
     ResultsOf (.rand x) (fun slots => randSig slots x)
       (fun _ i t => (t.puts x.d.toNat (randWords i t)).advance x.sw 8)
       (fun _ i p w => w.puts x.d.toNat (randWords i p)) ∧
     Writes (.npack x) (npackSig x) x.sw x.d.toNat (fun _ i t =>
       let n := 2 ^ (x.fld 49 48 + 1)
       let w := [4, 6, 8, 16].getD (x.fld 47 46) 0
       packCodes w (groupRegs n w) (((List.range n).map (fun k => readSpec i.warp.w t (x.a.toNat + k))).map (fun a =>
         match x.fld 51 50 with
         | 0 => a.toNat % 2 ^ w
         | 1 => ((max (-(2 ^ (w - 1))) (min (2 ^ (w - 1) - 1) a.toInt)) % 2 ^ w).toNat
         | _ => min a.toNat (2 ^ w - 1)))) ∧
     Writes (.nunpk x) (nunpkSig x) x.sw x.d.toNat (fun _ i t =>
       let n := 2 ^ (x.fld 49 48 + 1)
       let w := [4, 6, 8, 16].getD (x.fld 47 46) 0
       (unpackCodes w n ((List.range (groupRegs n w)).map (fun k => readSpec i.warp.w t (x.a.toNat + k)))).map (fun (c : Nat) =>
         if x.fld 50 50 = 1 ∧ 2 ^ (w - 1) ≤ c then BitVec.ofInt 32 ((c : Int) - 2 ^ w) else BitVec.ofNat 32 c)))

/-- R38, R74, R77: `bra` goes to its target, `bc` where its predicate tells, `ctrl.nop` past itself; each obeys its marker,
and nothing else of the state changes.
R75: a `jtab` or `ctab` whose index lies below its count reads the offset at that place of its list and goes to the
target; `ctab` pushes the address past the list, with 8 entries on chip after storing the oldest in the stack area, and
traps STACK 1 where that has no room (R76); on a page with the sc bit the thread is parked at its target until the entry is
stored (R218). An index at or above the count traps BADTARGET with the index in `$tinfo`, and an offset that cannot be fetched
takes the fault of its halfword.
Where the manual leaves a point open, the model's choice holds: log entries 17, 47 and 66. -/
def Obligations.BranchesGoToTheirTargets : Prop :=
  ((∀ (sw : Bool) (off : BitVec 22), Results (.bra sw off) (sigOf [] (.bra sw off)) (fun _ _ t =>
     t.goto sw (t.pc + off.signExtend 64 <<< 1))) ∧
   (∀ (sw : Bool) (off : BitVec 18) (neg : Bool) (p : BitVec 3),
     Results (.bc sw off neg p) (sigOf [] (.bc sw off neg p)) (fun _ _ t =>
       if xor (readPred t p.toNat) neg then t.goto sw (t.pc + off.signExtend 64 <<< 1) else t.advance sw 4)) ∧
   (∀ sw : Bool, Results (.ctrlNop sw) (sigOf [] (.ctrlNop sw)) (fun _ _ t => t.advance sw 4))) ∧
  (∀ (sw : Bool) (n : BitVec 10) (a : BitVec 6) (s : State) (i : Iss) (ti : Nat) (t : Thread),
     let k := (t.reg a.toNat).toNat
     let va := i.run.addr + BitVec.ofNat 64 (4 + 4 * k)
     let fetched (x : Sig) : State :=
       ((s.settleRun x i).noteFetch i.ctx i.blk.site va).noteFetch i.ctx i.blk.site (va + 2)
     (∀ x, x = sigOf [] (.jtab sw n a) → Alone s x i ti t →
       (∀ w, k < n.toNat → fetchHalves (s.settleRun x i) i.ctx i.blk.site va 2 = .inr w →
         exec (.jtab sw n a) s = .next ((fetched x).modThread i.blk.bid ti (fun u =>
           u.goto sw (i.run.addr + (BitVec.ofNat 32 w).signExtend 64 <<< 1)))) ∧
       (∀ f at_, k < n.toNat → fetchHalves (s.settleRun x i) i.ctx i.blk.site va 2 = .inl (f, at_) → f.isHold = false →
         exec (.jtab sw n a) s = .next ((fetched x).faultThread i ti f.code f.sub at_)) ∧
       (n.toNat ≤ k → MakesThread (.jtab sw n a) s i ti
         (t.fault i.ctx .badtarget 1 0 (t.reg a.toNat)))) ∧
     (∀ x, x = sigOf [] (.ctab sw n a) → Alone s x i ti t →
       (∀ w, k < n.toNat → t.ret.length < 8 → fetchHalves (s.settleRun x i) i.ctx i.blk.site va 2 = .inr w →
         exec (.ctab sw n a) s = .next ((fetched x).modThread i.blk.bid ti (fun u =>
           ({ u with ret := (i.run.addr + BitVec.ofNat 64 (4 + 4 * n.toNat)) :: u.ret } : Thread).goto sw
             (i.run.addr + (BitVec.ofNat 32 w).signExtend 64 <<< 1)))) ∧
       (∀ w, k < n.toNat → 8 ≤ t.ret.length → fetchHalves (s.settleRun x i) i.ctx i.blk.site va 2 = .inr w →
         (i.blk.stack < 8 * (t.spilled + 1) → exec (.ctab sw n a) s = .next ((fetched x).faultThread i ti .stack 1)) ∧
         (∀ s1 p, 8 * (t.spilled + 1) ≤ i.blk.stack → t.reds = [] →
           (fetched x).reach i (stackTop i.ctx i.blk ti - BitVec.ofNat 64 (8 * (t.spilled + 1))) accStore = (s1, .inr p) →
           (t.fenced.any (2 ≤ ·) = true → s1.ackOpen i.blk.bid ti = false) → (s1.releaseAt i.blk t.fenced).noRoute p = false →
           let target := i.run.addr + (BitVec.ofNat 32 w).signExtend 64 <<< 1
           let pushes (f : Thread → Thread) : Prop := exec (.ctab sw n a) s = .next (((s1.releaseAt i.blk t.fenced).buffer i.blk.bid ti
             { ti := ti, cells := plainCells p.pa (toBytes 8 (t.ret.getLastD 0).toNat), sides := [], lines := [], pay := [],
               nblk := 0, sc := p.sc }).modThread i.blk.bid ti (fun u =>
                 f { u with ret := (i.run.addr + BitVec.ofNat 64 (4 + 4 * n.toNat)) :: u.ret.dropLast,
                            spilled := u.spilled + 1 }))
           (p.sc = false → pushes (fun u => u.goto sw target)) ∧
           (p.sc = true → pushes (fun u => { u with pc := target, park := .sc none, mark := sw })))) ∧
       (∀ f at_, k < n.toNat → fetchHalves (s.settleRun x i) i.ctx i.blk.site va 2 = .inl (f, at_) → f.isHold = false →
         exec (.ctab sw n a) s = .next ((fetched x).faultThread i ti f.code f.sub at_)) ∧
       (n.toNat ≤ k → MakesThread (.ctab sw n a) s i ti (t.fault i.ctx .badtarget 1 0 (t.reg a.toNat)))))

/-- R74, R76: `call` pushes the address of the next instruction and goes to its target; `ctrl.ret` pops its address. With
8 entries on chip a push stores the oldest in the stack area, and traps STACK 1 where that has no room. With none on chip
a pop loads the newest stored entry, and traps MISALIGN 3 where it is odd or no virtual address; a pop of an empty stack
traps STACK 2. On a page with the sc bit the thread is parked at its target until the entry is stored (R218). After a fence that
releases, the stored entry is a release at the fence's scope: at package scope and wider it waits for the acknowledgements of the
thread's writes to other packages (R211, R214, R252).
Where the manual leaves a point open, the model's choice holds: log entries 17 and 66. -/
def Obligations.CallsAndReturnsUseTheReturnStack : Prop :=
  ∀ (sw : Bool) (off : BitVec 22) (s : State) (i : Iss) (ti : Nat) (t : Thread),
    (Alone s (sigOf [] (.call sw off)) i ti t →
      (t.ret.length < 8 → MakesThread (.call sw off) s i ti
        (({ t with ret := (i.run.addr + 4) :: t.ret } : Thread).goto sw (i.run.addr + off.signExtend 64 <<< 1))) ∧
      (8 ≤ t.ret.length → i.blk.stack < 8 * (t.spilled + 1) → MakesThread (.call sw off) s i ti (t.fault i.ctx .stack 1)) ∧
      (∀ s1 p, 8 ≤ t.ret.length → 8 * (t.spilled + 1) ≤ i.blk.stack → t.reds = [] →
        (s.settleRun (sigOf [] (.call sw off)) i).reach i (stackTop i.ctx i.blk ti - BitVec.ofNat 64 (8 * (t.spilled + 1)))
          accStore = (s1, .inr p) → (s1.releaseAt i.blk t.fenced).noRoute p = false →
        let target := i.run.addr + off.signExtend 64 <<< 1
        let pushes (f : Thread → Thread) : Prop :=
          (t.fenced.any (2 ≤ ·) = true → s1.ackOpen i.blk.bid ti = false) → exec (.call sw off) s =
            .next (((s1.releaseAt i.blk t.fenced).buffer i.blk.bid ti
          { ti := ti, cells := plainCells p.pa (toBytes 8 (t.ret.getLastD 0).toNat), sides := [], lines := [], pay := [],
            nblk := 0, sc := p.sc }).modThread i.blk.bid ti (fun u =>
              f { u with ret := (i.run.addr + 4) :: u.ret.dropLast, spilled := u.spilled + 1 }))
        (t.fenced.any (2 ≤ ·) = true → s1.ackOpen i.blk.bid ti = true → exec (.call sw off) s = .next
          ((s1.drainOf i.blk.bid ti).modThread i.blk.bid ti (fun u => { u with park := .retry (.acked [ti]) }))) ∧
        (p.sc = false → pushes (fun u => u.goto sw target)) ∧
        (p.sc = true → pushes (fun u => { u with pc := target, park := .sc none, mark := sw })))) ∧
    (Alone s (sigOf [] (.ctrlRet sw)) i ti t →
      (∀ a rest, t.ret = a :: rest →
        MakesThread (.ctrlRet sw) s i ti (({ t with ret := rest } : Thread).goto sw a)) ∧
      (t.ret = [] → t.spilled = 0 → MakesThread (.ctrlRet sw) s i ti (t.fault i.ctx .stack 2)) ∧
      (∀ s1 p, t.ret = [] → t.spilled ≠ 0 → t.reds = [] →
        let va := stackTop i.ctx i.blk ti - BitVec.ofNat 64 (8 * t.spilled)
        (s.settleRun (sigOf [] (.ctrlRet sw)) i).reach i va accLoad = (s1, .inr p) →
        let s2 := (s1.beforeRead i.blk.bid ti p).touchRange p.pa 8
        let n := ownNum s2.mem (((s2.block? i.blk.bid).map (fun b => b.ownStores ti)).getD []) p.pa 8
        s2.lineFate p = none →
        (n % 2 = 1 ∨ 2 ^ 53 ≤ n → exec (.ctrlRet sw) s = .next (s2.faultThread i ti .misalign 3 va)) ∧
        (n % 2 = 0 → n < 2 ^ 53 → exec (.ctrlRet sw) s = .next (s2.modThread i.blk.bid ti (fun u =>
          ({ u with spilled := u.spilled - 1 } : Thread).goto sw (BitVec.ofNat 64 n))))))

/-- R77, R231: a thread that owes nothing and belongs to no operation of joins ends at `ctrl.exit`: it is exited, its
registers are gone and its return stack is discarded. A thread that owes results waits for them; a member of a joining
operation halts its block with JOIN (orphan).
R68, R77: at `ctrl.yield` the performing thread goes past the instruction, and its warp is exchanged out of the active
set, where it stands there.
Where the manual leaves a point open, the model's choice holds: log entries 10 and 51. -/
def Obligations.ExitEndsTheThreadAndYieldExchangesTheWarp : Prop :=
  (∀ (sw : Bool) (s : State) (i : Iss) (ti : Nat) (t : Thread), Alone s (sigOf [] (.ctrlExit sw)) i ti t →
     i.blk.status = .resident →
     (t.results = [] → t.lates = [] → (∀ c ∈ i.blk.conv, c.members.contains ti = true → c.st = .idle ∨ c.st = .declared) →
       exec (.ctrlExit sw) s = .next (((s.settleRun (sigOf [] (.ctrlExit sw)) i).modThread i.blk.bid ti (fun u =>
         { u with exited := true, v := [], badRegs := [], pend := [], ret := [], spilled := 0, park := .ready,
                  mark := false })).departed i.blk.bid)) ∧
     (t.results ≠ [] ∨ t.lates ≠ [] →
       exec (.ctrlExit sw) s = .next (((s.settleRun (sigOf [] (.ctrlExit sw)) i).modThread i.blk.bid ti (fun u =>
         { u with park := .retry .results })).departed i.blk.bid)) ∧
     (t.results = [] → t.lates = [] → (∃ c ∈ i.blk.conv, c.st = .joining ∧ c.members.contains ti = true) →
       exec (.ctrlExit sw) s = .next
         (((s.settleRun (sigOf [] (.ctrlExit sw)) i).haltBlock i.blk.bid .join 2).departed i.blk.bid))) ∧
  (∀ (sw : Bool) (s : State) (i : Iss) (ti : Nat) (t : Thread), Performs s (sigOf [] (.ctrlYield sw)) i ti t →
     ∃ s1, OnlyThreads s s1 i ti (t.advance sw 4) ∧
       (∀ y k, s1.sched? i.blk.die i.blk.core (i.blk.partOf i.run.crew) = some y →
         y.active.findIdx? (· == some (i.warp.ref i.blk.bid)) = some k →
         exec (.ctrlYield sw) s = .next (s1.exchange i.blk.die i.blk.core (i.blk.partOf i.run.crew) k)) ∧
       ((∀ y, s1.sched? i.blk.die i.blk.core (i.blk.partOf i.run.crew) = some y → some (i.warp.ref i.blk.bid) ∉ y.active) →
         exec (.ctrlYield sw) s = .next s1))

/-- R77, R78, R306 to R308: `ctrl.brk` traps BREAK and `trap` traps SWTRAP with its code; both report the instruction and
resume past it. A trap goes to the host when its route bit is set, when the context has no handler or when the thread is
privileged; else the thread enters the handler at once, if it owes nothing, or once what it owes has come. -/
def Obligations.SoftwareTrapsAreTaken : Prop :=
  (∀ (sw : Bool), Results (.ctrlBrk sw) (sigOf [] (.ctrlBrk sw)) (fun _ i t =>
    t.trap i.ctx { code := .brk, sub := 0, addr := 0, info := 0, late := false, tpc := t.pc, epc := t.pc + 4 })) ∧
  (∀ (sw : Bool) (code : BitVec 16), Results (.trap sw code) (sigOf [] (.trap sw code)) (fun _ i t =>
    t.trap i.ctx { code := .swtrap, sub := code.toNat, addr := 0, info := 0, late := false, tpc := t.pc, epc := t.pc + 4 })) ∧
  (∀ (t : Thread) (c : Context) (tr : Trap),
    (c.route.getLsbD (trapNum tr.code) = true ∨ c.handler = 0 ∨ t.priv = true →
      t.trap c tr = { t with park := .host tr none, mark := false }) ∧
    (c.route.getLsbD (trapNum tr.code) = false → c.handler ≠ 0 → t.priv = false → t.results = [] → t.lates = [] →
      t.trap c tr = { t with
        tcause := BitVec.ofNat 32 (trapNum tr.code) ||| (if tr.late then 256 else 0) |||
          (BitVec.ofNat 16 tr.sub).setWidth 32 <<< 16
        tpc := tr.tpc, epc := tr.epc, taddr := tr.addr, tinfo := tr.info, priv := true, pc := c.handler, pend := [],
        park := .ready, mark := false }) ∧
    (c.route.getLsbD (trapNum tr.code) = false → c.handler ≠ 0 → t.priv = false → t.results ≠ [] ∨ t.lates ≠ [] →
      t.trap c tr = { t with park := .handler tr, mark := false }))

/-- R42, R47, R51: a thread of the run whose instruction fails a check takes the trap of the first check that fails, at
the instruction itself; a thread whose guard is false goes past it; the instruction acts for neither. Shown of `ffma`, a
guarded operation of three sources: a reserved field, a pending guard, a false guard, a destination beyond the thread's
count, a pending destination.
R47, R313: a system instruction takes PRIV 1 in a thread without privilege, and does nothing else where no other thread
of the run performs it. -/
def Obligations.ChecksComeBeforeTheEffect : Prop :=
  (∀ (x : FormX) (s : State) (i : Iss) (ti : Nat) (t : Thread), s.iss? = some i → i.blk.threads[ti]? = some t →
     i.run.has t = true →
     (x.fld 63 50 ≠ 0 → MakesThread (.ffma x) s i ti (t.fault i.ctx .illop 3)) ∧
     ((ffmaSig x).fate = none →
       (x.g ≠ 7 → t.pend.contains (.p x.g.toNat) = true →
         MakesThread (.ffma x) s i ti (t.fault i.ctx .hazard 1 0 (x.g.setWidth 32))) ∧
       ((x.g ≠ 7 → t.pend.contains (.p x.g.toNat) = false) → readPred t x.g.toNat = x.ng →
         MakesThread (.ffma x) s i ti (t.advance x.sw 8)) ∧
       ((x.g ≠ 7 → t.pend.contains (.p x.g.toNat) = false) → readPred t x.g.toNat ≠ x.ng →
         x.d.toNat < 128 → t.v.length ≤ x.d.toNat →
         (∀ r ∈ [x.a, x.b, x.c], r.toNat < 128 → r.toNat < t.v.length) →
         MakesThread (.ffma x) s i ti (t.fault i.ctx .maxreg 0 0 (x.d.setWidth 32))) ∧
       ((x.g ≠ 7 → t.pend.contains (.p x.g.toNat) = false) → readPred t x.g.toNat ≠ x.ng →
         (∀ r ∈ [x.d, x.a, x.b, x.c], r.toNat < 128 → r.toNat < t.v.length) →
         (∀ r ∈ [x.a, x.b, x.c], ∀ o : RegName, o ∈ (src r.toNat).names → t.pend.contains o = false) →
         x.d.toNat < 128 → t.pend.contains (.v x.d.toNat) = true →
         MakesThread (.ffma x) s i ti (t.fault i.ctx .hazard 2 0 (x.d.setWidth 32))))) ∧
  (∀ (s : State) (i : Iss) (ti : Nat) (t : Thread) (ins : Instr), s.iss? = some i → i.blk.threads[ti]? = some t →
     i.run.has t = true → t.priv = false → parts (sigOf [] ins) s.tick i = [] →
     ((∃ sw, ins = .eret sw) ∨ (∃ sw num d, ins = .ctlrd sw num d) ∨ (∃ sw num a, ins = .ctlwr sw num a) ∨
       (∃ sw a, ins = .pginvPage sw a) ∨ (∃ sw, ins = .pginvContext sw) ∨ ∃ sw, ins = .idle sw) →
     MakesThread ins s i ti (t.fault i.ctx .priv 1))

/-- R85, R86: a thread that arrives at a barrier goes past the `bar`, performs what its warp had buffered, is counted and
parks; more expected threads than live ones trap BADTARGET 2, a count other than the round's BADTARGET 3.
R86, R87: a round of a barrier that has fewer arrivals than it expects goes on; one that has as many releases every
thread that has arrived, and the barrier is idle again. A count of 0 expects every live thread of the level, a count n
expects 8 n.
A thread whose `red`s to windows are not yet performed waits for them first (R266).
Where the manual leaves a point open, the model's choice holds: log entries 10, 17, 66 and 69. -/
def Obligations.BarriersCountAndRelease : Prop :=
  (∀ (sw : Bool) (lv : BitVec 2) (cnt : BitVec 14) (id : BitVec 6) (s : State) (i : Iss) (ti : Nat) (t : Thread) (b : Block),
     Alone s (barSig sw lv id) i ti t → (s.settleRun (barSig sw lv id) i).block? i.blk.bid = some b →
     let s0 := s.settleRun (barSig sw lv id) i
     let x := s0.barAt b t.crew lv.toNat id.toNat
     (s0.liveAt b t.crew lv.toNat < 8 * cnt.toNat → MakesThread (.bar sw lv cnt id) s i ti (t.fault i.ctx .badtarget 2)) ∧
     (8 * cnt.toNat ≤ s0.liveAt b t.crew lv.toNat → x.arrived ≠ [] → x.cnt ≠ cnt.toNat →
       MakesThread (.bar sw lv cnt id) s i ti (t.fault i.ctx .badtarget 3)) ∧
     (8 * cnt.toNat ≤ s0.liveAt b t.crew lv.toNat → x.arrived = [] ∨ x.cnt = cnt.toNat → t.reds ≠ [] →
       MakesThread (.bar sw lv cnt id) s i ti { t with park := .retry .redsDone }) ∧
     (8 * cnt.toNat ≤ s0.liveAt b t.crew lv.toNat → x.arrived = [] ∨ x.cnt = cnt.toNat → t.reds = [] →
       exec (.bar sw lv cnt id) s = .next
         ((((s0.drainOf b.bid ti).modThread b.bid ti (fun u =>
             { u with pc := u.pc + 4, park := .bar lv.toNat id.toNat, mark := sw, back := 4 })).modBar b t.crew lv.toNat id.toNat
           (fun y => { cnt := cnt.toNat, arrived := y.arrived ++ [(b.bid, ti)] })).barCheck b t.crew lv.toNat id.toNat))) ∧
  (∀ (s : State) (b : Block) (crew lv id : Nat),
     let x := s.barAt b crew lv id
     let expected := if x.cnt = 0 then s.liveAt b crew lv else 8 * x.cnt
     (x.arrived.length < expected → s.barCheck b crew lv id = s) ∧
     (x.arrived ≠ [] → expected ≤ x.arrived.length → x.arrived.Nodup →
       (∀ a ∈ x.arrived, (s.barCheck b crew lv id).thread? a.1 a.2 = (s.thread? a.1 a.2).map Thread.release) ∧
       (s.block? b.bid = some b → ∀ b', (s.barCheck b crew lv id).block? b.bid = some b' →
         (s.barCheck b crew lv id).barAt b' crew lv id = { cnt := 0, arrived := [] })))

/-- R84: a `wsync` parks its thread with its set, past the instruction, and then the threads of every warp that can be
released go on; a thread can when every live thread of its set in its warp stands at a `wsync`.
R72, R73: `wresize` to the warp's size answers true; to a smaller size it splits the warp and answers true; to a
larger size whose group is not full of the crew's threads it answers false, as it does while a fuse of its group to another
size is pending; else the thread arrives at the fuse and parks.
R73: a fuse completes once every live thread of its group has arrived with its size: the group is then one warp, and each
thread that arrived answers true and goes on; until then it changes nothing.
Where the manual leaves a point open, the model's choice holds: log entries 10, 17, 66 and 67. -/
def Obligations.WarpSetsAreSynchronisedAndResized : Prop :=
  ((∀ (sw : Bool) (s : State) (i : Iss) (ti : Nat) (t : Thread), Performs s (sigOf [] (.wsyncWarp sw)) i ti t →
     ∃ s1, exec (.wsyncWarp sw) s = .next (s1.wsyncAll i.blk.bid) ∧
       OnlyThreads s s1 i ti (if t.reds = [] then { t with pc := t.pc + 4, park := .wsync (BitVec.allOnes 64), mark := sw, back := 4 }
         else { t with park := .retry .redsDone })) ∧
   (∀ (sw : Bool) (a : BitVec 6) (s : State) (i : Iss) (ti : Nat) (t : Thread),
     Performs s (sigOf [] (.wsyncMask sw a)) i ti t →
     ∃ s1, exec (.wsyncMask sw a) s = .next (s1.wsyncAll i.blk.bid) ∧
       OnlyThreads s s1 i ti (if t.reds = [] then
         { t with
           pc := t.pc + 4
           park := .wsync (t.reg64 a.toNat ||| BitVec.ofNat 64 (2 ^ (t.slot - i.warp.first)))
           mark := sw
           back := 4 }
         else { t with park := .retry .redsDone })) ∧
   (∀ (s : State) (bid wi ti : Nat) (b : Block) (w : Warp) (t : Thread), s.block? bid = some b → b.warps[wi]? = some w →
     b.threads[ti]? = some t →
     ((w.has t = true ∧ ∃ m, t.park = .wsync m ∧ ∀ u ∈ b.threads, w.has u = true → u.exited = false →
         m.toNat.testBit (u.slot - w.first) = true → ∃ n, u.park = .wsync n) →
       (s.wsyncWarp bid wi).thread? bid ti = some t.release) ∧
     (t.park ≠ .sc none → ¬ (w.has t = true ∧ ∃ m, t.park = .wsync m ∧ ∀ u ∈ b.threads, w.has u = true → u.exited = false →
         m.toNat.testBit (u.slot - w.first) = true → ∃ n, u.park = .wsync n) →
       (s.wsyncWarp bid wi).thread? bid ti = some t))) ∧
  (∀ (sw : Bool) (m : BitVec 2) (d : BitVec 6) (s : State) (i : Iss) (ti : Nat) (t : Thread) (b : Block) (w : Warp),
     Alone s (sigOf [] (.wresize sw m d)) i ti t →
     (s.settleRun (sigOf [] (.wresize sw m d)) i).block? i.blk.bid = some b → b.warpOf? t = some w →
     let s0 := s.settleRun (sigOf [] (.wresize sw m d)) i
     let n := 8 * 2 ^ m.toNat
     let group := b.threads.filter (fun u =>
       u.crew == t.crew && u.lane == t.lane && t.slot / n * n ≤ u.slot && u.slot < t.slot / n * n + n)
     let other : Prop := ∃ u ∈ b.threads, u.crew = t.crew ∧ u.lane = t.lane ∧
       ∃ k pd, u.park = .fuse k pd ∧ k ≠ n ∧ u.slot / k * k = t.slot / k * k
     let answer (s1 : State) (v : Bool) : State := s1.modThread b.bid ti (fun u => (u.setP d.toNat v).advance sw 4)
     let gives (s1 : State) : Prop := exec (.wresize sw m d) s = .next ((s1.fuseAll i.blk.bid).wsyncAll i.blk.bid)
     (n = w.size → gives (answer s0 true)) ∧
     (n < w.size → gives (answer (s0.splitWarp b w n) true)) ∧
     (w.size < n → group.length < n → gives (answer s0 false)) ∧
     (w.size < n → n ≤ group.length → other → gives (answer s0 false)) ∧
     (w.size < n → n ≤ group.length → ¬ other → gives (s0.modThread b.bid ti (fun u =>
       { u with pc := u.pc + 4, park := .fuse n d.toNat, mark := sw, back := 4 })))) ∧
  (∀ (s : State) (bid ti n pd : Nat) (b : Block) (t : Thread), s.block? bid = some b → b.threads[ti]? = some t →
     t.park = .fuse n pd →
     let base := t.slot / n * n
     let mine (u : Thread) : Prop := u.crew = t.crew ∧ u.lane = t.lane ∧ base ≤ u.slot ∧ u.slot < base + n
     let whole : Prop := ∀ u ∈ b.threads, mine u → u.exited = true ∨ ∃ q, u.park = .fuse n q
     let in_ (w : Warp) : Prop := w.crew = t.crew ∧ w.lane = t.lane ∧ base ≤ w.first ∧ w.first < base + n
     (¬ whole → s.fuseCheck bid ti = s) ∧
     (whole → (∃ w ∈ b.warps, in_ w) →
       (∀ k u q, b.threads[k]? = some u → mine u → u.park = .fuse n q →
         (s.fuseCheck bid ti).thread? bid k = some ((u.setP q true).release)) ∧
       (∀ k u, b.threads[k]? = some u → ¬ mine u → u.park ≠ .sc none →
         (s.fuseCheck bid ti).thread? bid k = some u) ∧
       ∀ b', (s.fuseCheck bid ti).block? bid = some b' →
         (∃ w ∈ b'.warps, in_ w) ∧ ∀ w ∈ b'.warps, in_ w → w.first = base ∧ w.size = n))

/-- R88: `spawn` puts the record of its 16 registers into the launch's pool on its die, after the thread's earlier stores,
and goes on; `spawn.exit` then ends the thread. An entry that is odd or too high traps BADTARGET 4, a launch without a pool
PROT 1, and a full pool makes the thread wait, as `red`s to windows that are not yet performed do (R266).
R231: a `spawn.exit` waits for what its thread owes, and in a member of a joining register halts its block with JOIN, orphan.
R89, R90: `reggrow` extends the thread's registers with zeros and answers true where its lane has the words free, and
answers false, changing nothing, where it has not; `regshrink` cuts the registers above its count, and traps HAZARD with one of
them in `$tinfo` where one is pending.
Where the manual leaves a point open, the model's choice holds: log entries 5, 17, 51, 66 and 69. -/
def Obligations.SpawnsAndRegisterFilesChange : Prop :=
  let pooled (s : State) (b : Block) (ti : Nat) (rc : SpawnRec) : State :=
    ((s.drainOf b.bid ti).release b 1).modLaunch b.lid (fun l =>
      { l with pools := l.pools.map (fun p => if p.1 = b.die then (p.1, p.2 ++ [rc]) else p) })
  (∀ (sw : Bool) (a : BitVec 6) (s : State) (i : Iss) (ti : Nat) (t : Thread) (b : Block) (l : Launch),
     let entry := t.reg64 a.toNat
     (Alone s (sigOf [] (.spawn sw a)) i ti t → (s.settleRun (sigOf [] (.spawn sw a)) i).block? i.blk.bid = some b →
       let s0 := s.settleRun (sigOf [] (.spawn sw a)) i
       let rc : SpawnRec := { entry := entry, args := (List.range 14).map (fun k => t.reg (a.toNat + 2 + k)),
                              stamp := s0.plat.clocks.getD (2 * b.die) 0 }
       (entry.toNat % 2 = 1 ∨ 2 ^ 53 ≤ entry.toNat → MakesThread (.spawn sw a) s i ti (t.fault i.ctx .badtarget 4)) ∧
       (entry.toNat % 2 = 0 → entry.toNat < 2 ^ 53 → s.launch? b.lid = some l →
         (l.rc.pool = 0 → MakesThread (.spawn sw a) s i ti (t.fault i.ctx .prot 1)) ∧
         (l.rc.pool ≠ 0 → l.rc.pool / 64 ≤ l.poolUsed b.die →
           MakesThread (.spawn sw a) s i ti { t with park := .retry .spawnRoom }) ∧
         (l.rc.pool ≠ 0 → l.poolUsed b.die < l.rc.pool / 64 → t.reds ≠ [] →
           MakesThread (.spawn sw a) s i ti { t with park := .retry .redsDone }) ∧
         (l.rc.pool ≠ 0 → l.poolUsed b.die < l.rc.pool / 64 → t.reds = [] →
           exec (.spawn sw a) s = .next ((pooled s0 b ti rc).modThread i.blk.bid ti (fun u => u.advance sw 4))))) ∧
     (Alone s (sigOf [] (.spawnExit sw a)) i ti t →
       (s.settleRun (sigOf [] (.spawnExit sw a)) i).block? i.blk.bid = some b → b.status = .resident →
       let s0 := s.settleRun (sigOf [] (.spawnExit sw a)) i
       let rc : SpawnRec := { entry := entry, args := (List.range 14).map (fun k => t.reg (a.toNat + 2 + k)),
                              stamp := s0.plat.clocks.getD (2 * b.die) 0 }
       let gives (s1 : State) : Prop := exec (.spawnExit sw a) s = .next (s1.departed i.blk.bid)
       let waits (c : Cond) : Prop := gives (s0.modThread i.blk.bid ti (fun u => { u with park := .retry c }))
       let joining : Prop := ∃ c ∈ b.conv, c.st = .joining ∧ c.members.contains ti = true
       let apart : Prop := ∀ c ∈ b.conv, c.members.contains ti = true → c.st = .idle ∨ c.st = .declared
       let room := decide (l.poolUsed b.die < l.rc.pool / 64)
       (entry.toNat % 2 = 1 ∨ 2 ^ 53 ≤ entry.toNat → gives (s0.faultThread i ti .badtarget 4)) ∧
       (entry.toNat % 2 = 0 → entry.toNat < 2 ^ 53 → s.launch? b.lid = some l →
         (l.rc.pool = 0 → gives (s0.faultThread i ti .prot 1)) ∧
         (l.rc.pool ≠ 0 → t.reds = [] →
           (t.results ≠ [] ∨ t.lates ≠ [] → waits .results) ∧
           (t.results = [] → t.lates = [] → joining → gives (s0.haltBlock i.blk.bid .join 2)) ∧
           (t.results = [] → t.lates = [] → apart → room = false → waits .spawnRoom) ∧
           (t.results = [] → t.lates = [] → apart → room = true → gives ((pooled s0 b ti rc).modThread i.blk.bid ti (fun u =>
             { u with exited := true, v := [], badRegs := [], pend := [], ret := [], spilled := 0, park := .ready,
                      mark := false })))) ∧
         (l.rc.pool ≠ 0 → room = true → t.reds ≠ [] → waits .redsDone)))) ∧
  ((∀ (sw : Bool) (n : BitVec 8) (d : BitVec 6) (s : State) (i : Iss) (ti : Nat) (t : Thread) (b : Block),
     Alone s (sigOf [] (.reggrow sw n d)) i ti t →
     (s.settleRun (sigOf [] (.reggrow sw n d)) i).block? i.blk.bid = some b →
     let s0 := s.settleRun (sigOf [] (.reggrow sw n d)) i
     let free := freeWords (s0.holders b.die b.core b.prio none) (b.partOf t.crew) t.lane
     (n.toNat ≤ t.v.length → MakesThread (.reggrow sw n d) s i ti ((t.setP d.toNat true).advance sw 4)) ∧
     (t.v.length < n.toNat → n.toNat - t.v.length ≤ free → MakesThread (.reggrow sw n d) s i ti
       ((({ t with v := t.v ++ List.replicate (n.toNat - t.v.length) 0 } : Thread).setP d.toNat true).advance sw 4)) ∧
     (free < n.toNat - t.v.length → MakesThread (.reggrow sw n d) s i ti ((t.setP d.toNat false).advance sw 4))) ∧
   (∀ (sw : Bool) (n : BitVec 8) (s : State) (i : Iss) (ti : Nat) (t : Thread),
     Alone s (sigOf [] (.regshrink sw n)) i ti t →
     (t.v.length ≤ n.toNat → MakesThread (.regshrink sw n) s i ti (t.advance sw 4)) ∧
     ((∃ k, n.toNat ≤ k ∧ k < t.v.length ∧ t.pend.contains (.v k) = true) →
       ∃ k, n.toNat ≤ k ∧ k < t.v.length ∧ t.pend.contains (.v k) = true ∧
         MakesThread (.regshrink sw n) s i ti (t.fault i.ctx .hazard 2 0 (BitVec.ofNat 32 k))) ∧
     (n.toNat < t.v.length → (∀ k, n.toNat ≤ k → k < t.v.length → t.pend.contains (.v k) = false) →
       (∀ b, (s.settleRun (sigOf [] (.regshrink sw n)) i).block? i.blk.bid = some b → lentRegs b ti = []) →
       MakesThread (.regshrink sw n) s i ti
         (({ t with v := t.v.take n.toNat, badRegs := t.badRegs.filter (fun r => r < n.toNat || 0x80 ≤ r) } : Thread).advance
           sw 4))))

/-- R303, R313, R314: in a privileged thread `eret` returns to `$epc` without privilege and with nothing pending, once what
the thread owes has come; `ctlrd` reads the register that its number names, 64-bit ones as a pair.
R303, R305, R313: in a privileged thread `ctlwr` of a register that is read only traps PRIV 2, of a value that the
register does not take PRIV 3; else the thread goes on and the register takes the value: its own `$epc`, a register of its
context, the package's window base, or the answer to a report. The values that each register takes are those of R305's table.
R315, R316: `pginv` performs the thread's earlier writes for package scope, waits for what it owes, and then drops the cached
translations of its page, or of its context, with nothing left pending; `idle` goes on while reports wait, and else parks for
at most 2^20 clocks.
Where the manual leaves a point open, the model's choice holds: log entries 10, 17, 51, 59 and 66. -/
def Obligations.SystemInstructionsReadAndWrite : Prop :=
  ((∀ sw : Bool, Results (.eret sw) (sigOf [] (.eret sw)) (fun _ _ t =>
     if t.results = [] ∧ t.lates = [] then { t with priv := false, pc := t.epc, pend := [], park := .ready }
     else { t with park := .retry .results })) ∧
   (∀ (sw : Bool) (num : BitVec 10) (d : BitVec 6), Results (.ctlrd sw num d) (sigOf [] (.ctlrd sw num d)) (fun s i t =>
     let c := i.ctx
     match num.toNat with
     | 0 => (t.setV d.toNat t.tcause).advance sw 4
     | 1 => (t.setV2 d.toNat t.tpc).advance sw 4
     | 2 => (t.setV2 d.toNat t.epc).advance sw 4
     | 3 => (t.setV2 d.toNat t.taddr).advance sw 4
     | 4 => (t.setV d.toNat t.tinfo).advance sw 4
     | 16 => (t.setV2 d.toNat c.root).advance sw 4
     | 17 => (t.setV d.toNat c.jobid).advance sw 4
     | 18 => (t.setV2 d.toNat c.handler).advance sw 4
     | 19 => (t.setV d.toNat c.route).advance sw 4
     | 20 => (t.setV2 d.toNat c.stkbase).advance sw 4
     | 21 => (t.setV d.toNat c.stkmax).advance sw 4
     | 22 => (t.setV2 d.toNat c.repbase).advance sw 4
     | 23 => (t.setV d.toNat c.repsize).advance sw 4
     | 24 => (t.setV d.toNat c.rephead).advance sw 4
     | 25 => (t.setV d.toNat c.reptail).advance sw 4
     | 26 => (t.setV d.toNat (c.repctr.getD i.blk.die 0)).advance sw 4
     | 32 => (t.setV2 d.toNat s.plat.winbase).advance sw 4
     | _ => (t.setV d.toNat 0).advance sw 4))) ∧
  (∀ (sw : Bool) (num : BitVec 10) (a : BitVec 6) (s : State) (i : Iss) (ti : Nat) (t : Thread),
     Alone s (sigOf [] (.ctlwr sw num a)) i ti t →
     let s0 := s.settleRun (sigOf [] (.ctlwr sw num a)) i
     let v : DWord := if ctl64 num.toNat = true then t.reg64 a.toNat else (t.reg a.toNat).setWidth 64
     let gone := s0.modThread i.blk.bid ti (fun u => u.advance sw 4)
     (num.toNat ∈ [0, 1, 3, 4, 17, 22, 23, 25] → MakesThread (.ctlwr sw num a) s i ti (t.fault i.ctx .priv 2)) ∧
     (num.toNat ∉ [0, 1, 3, 4, 17, 22, 23, 25] → ctlOk i.ctx num.toNat v.toNat = false →
       MakesThread (.ctlwr sw num a) s i ti (t.fault i.ctx .priv 3)) ∧
     (ctlOk i.ctx num.toNat v.toNat = true →
       (num.toNat = 2 → MakesThread (.ctlwr sw num a) s i ti { t.advance sw 4 with epc := v }) ∧
       (num.toNat = 16 → exec (.ctlwr sw num a) s = .next (gone.modCtx i.ctx.num (fun c => { c with root := v }))) ∧
       (num.toNat = 18 → exec (.ctlwr sw num a) s = .next (gone.modCtx i.ctx.num (fun c => { c with handler := v }))) ∧
       (num.toNat = 19 → exec (.ctlwr sw num a) s = .next (gone.modCtx i.ctx.num (fun c => { c with route := loWord v }))) ∧
       (num.toNat = 20 → exec (.ctlwr sw num a) s = .next (gone.modCtx i.ctx.num (fun c => { c with stkbase := v }))) ∧
       (num.toNat = 21 → exec (.ctlwr sw num a) s = .next (gone.modCtx i.ctx.num (fun c => { c with stkmax := loWord v }))) ∧
       (num.toNat = 24 → exec (.ctlwr sw num a) s =
         .next ((gone.modCtx i.ctx.num (fun c => { c with rephead := loWord v })).idleCheck i.ctx.num)) ∧
       (num.toNat = 26 → exec (.ctlwr sw num a) s =
         .next (gone.modCtx i.ctx.num (fun c => { c with repctr := setAt c.repctr i.blk.die (loWord v) }))) ∧
       (num.toNat = 27 → exec (.ctlwr sw num a) s =
         .next (gone.repact i.ctx.num (v.toNat % 65536) (v.toNat.testBit 16))) ∧
       (num.toNat = 28 → exec (.ctlwr sw num a) s =
         .next (gone.modCtx i.ctx.num (fun c => { c with once := c.once.filter (fun o => o.ep != s.endpoint i.blk.die) }))) ∧
       (num.toNat = 32 → exec (.ctlwr sw num a) s = .next (gone.modPlat (fun p => { p with winbase := v }))))) ∧
  (∀ (c : Context) (v : Nat),
     let above := v.testBit 52 = false ∧ v.testBit 53 = false
     (ctlOk c 18 v = true ↔ v = 0 ∨ (v % 2 = 0 ∧ v < 2 ^ 53)) ∧
     (ctlOk c 16 v = true ↔ v = 0 ∨ (v % 8192 = 0 ∧ above)) ∧
     (ctlOk c 20 v = true ↔ v % 16 = 0 ∧ v < 2 ^ 53) ∧
     (ctlOk c 21 v = true ↔ v % 16 = 0) ∧
     (v < 2 ^ 32 → (ctlOk c 24 v = true ↔ (c.reptail.toNat + (2 ^ 32 - v)) % 2 ^ 32 ≤ c.repsize.toNat) ∧
       (ctlOk c 26 v = true ↔ v / 2 ^ 12 % 8 = 0 ∧ v < 2 ^ 16) ∧ (ctlOk c 27 v = true ↔ v < 2 ^ 17)) ∧
     (ctlOk c 32 v = true ↔ v = 0 ∨ (v % 64 = 0 ∧ above)) ∧
     (∀ n, n ∉ [16, 18, 20, 21, 24, 26, 27, 32] → ctlOk c n v = true)) ∧
  ((∀ (ins : Instr) (page : Option (BitVec 6)) (sw : Bool) (s : State) (i : Iss) (ti : Nat) (t : Thread),
     ins = (match page with | some a => .pginvPage sw a | none => .pginvContext sw) → Alone s (sigOf [] ins) i ti t →
     let s1 := ((s.settleRun (sigOf [] ins) i).drainOf i.blk.bid ti).release i.blk 2
     (t.results ≠ [] ∨ t.lates ≠ [] →
       exec ins s = .next (s1.modThread i.blk.bid ti (fun u => { u with park := .retry .results }))) ∧
     (t.results = [] → t.lates = [] → t.reds ≠ [] →
       exec ins s = .next (s1.modThread i.blk.bid ti (fun u => { u with park := .retry .redsDone }))) ∧
     (t.results = [] → t.lates = [] → t.reds = [] → s1.ackOpen i.blk.bid ti = true →
       exec ins s = .next ((s1.drainOf i.blk.bid ti).modThread i.blk.bid ti (fun u => { u with park := .retry (.acked [ti]) }))) ∧
     (t.results = [] → t.lates = [] → t.reds = [] → s1.ackOpen i.blk.bid ti = false → ∃ s2, exec ins s = .next s2 ∧
       s2.tlb = s1.tlb.filter (fun e => !(e.ctx == i.ctx.num && (match page with
         | some a => e.vbase == (t.reg64 a.toNat).toNat / 2 ^ (13 + 10 * e.level)
         | none => true))) ∧
       s2.mem = s1.mem ∧ s2.plat = s1.plat ∧ s2.ctxs = s1.ctxs ∧
       s2.thread? i.blk.bid ti = some (({ t with pend := [] } : Thread).advance sw 4) ∧
       ∀ n u, (n ≠ ti → s1.thread? i.blk.bid n = some u → s2.thread? i.blk.bid n = some u))) ∧
   (∀ sw : Bool, Results (.idle sw) (sigOf [] (.idle sw)) (fun s i t =>
     if i.ctx.reptail = i.ctx.rephead then
       { t with pc := t.pc + 4, park := .idle (s.clockOf i.blk + 2 ^ 20), mark := sw, back := 4 }
     else t.advance sw 4)))

/-- R183, R187 to R189, R191: an access to memory changes no byte of memory but those of the page table entry that its
walk ends at, whose accessed and dirty bits it may set, where no partial of a `red.merge` waits to be merged; and a fault of
the walk changes none. -/
def Obligations.AccessesChangeOnlyTheirTableEntry : Prop :=
  ∀ (s : State) (c : Context) (site : Nat) (ea : DWord) (acc : Acc) (red : Bool), s.memOk → s.churn = [] →
    (∀ f, walk s c site ea.toNat = .inl f → (s.reachAt c site ea acc red).1.mem = s.mem) ∧
    (∀ l a, walk s c site ea.toNat = .inr l → (a < l.at_ ∨ l.at_ + 8 ≤ a) →
      (s.reachAt c site ea acc red).1.mem.byte a = s.mem.byte a) ∧
    (2 ^ 53 ≤ ea.toNat → s.reachAt c site ea acc red = (s, .inl ⟨.page, 2⟩))

/-- R192 to R196, R199: a load whose checks pass delivers what its thread sees at its address: memory with the line's
partials merged, under the thread's own buffered stores. It is a V-class result; on an SC page the warp's stores are
performed first and the thread is parked until the result is written (R218). In host space, and where one of the thread's stores
goes to a window or rewrites the line while it is marked, its warp's stores are performed first (R190, R212, R335). A `red` of
the thread to a window that covers the line is waited for (R266). A marked line makes the result a late DATAERR (R336), a missing
route a late FABRIC 4 (R254, R309). The threads of a run load one after another, in ascending position (R192).
Where the manual leaves a point open, the model's choice holds: log entries 4, 17, 18, 64 and 66. -/
def Obligations.LoadsDeliverWhatTheThreadSees : Prop :=
  let value (kind d : Nat) (sx : Bool) (n : Nat) : List RegWrite := wrs d (match kind with
    | 0 => [if sx && decide (2 ^ 7 ≤ n) then BitVec.ofNat 32 (n + (2 ^ 32 - 2 ^ 8)) else BitVec.ofNat 32 n]
    | 1 => [if sx && decide (2 ^ 15 ≤ n) then BitVec.ofNat 32 (n + (2 ^ 32 - 2 ^ 16)) else BitVec.ofNat 32 n]
    | 2 => [BitVec.ofNat 32 n]
    | 3 => [BitVec.ofNat 32 n, BitVec.ofNat 32 (n / 2 ^ 32)]
    | _ => [BitVec.ofNat 32 n, BitVec.ofNat 32 (n / 2 ^ 32), BitVec.ofNat 32 (n / 2 ^ 64), BitVec.ofNat 32 (n / 2 ^ 96)])
  let loads (ins : Instr) (x : Sig) (kind d a b : Nat) (off : Int) (sx : Bool) : Prop :=
    ∀ (s s1 : State) (i : Iss) (ti : Nat) (t : Thread) (p : Pa), Alone s x i ti t → kind ≤ 4 →
      let ea := pairAt i.warp.w t a + (readSpec i.warp.w t b).signExtend 64 + BitVec.ofInt 64 off
      ea.toNat % 2 ^ kind = 0 → (s.settleRun x i).reach i ea accLoad = (s1, .inr p) →
      let own := ((s1.block? i.blk.bid).map (fun b => b.ownStores ti)).getD []
      let s2 := (if p.sc = true ∨ p.host = true ∨ (∃ e ∈ own, ∃ c ∈ e.cells, bitsAt c.addr 53 1 = 1 ∨
          (s1.mem.marked (lineOf p.pa) = true ∧ lineOf c.addr = lineOf p.pa)) then
        s1.drainOf i.blk.bid ti else s1).touch (lineOf p.pa)
      let es := ((s2.block? i.blk.bid).map (fun b => b.ownStores ti)).getD []
      let n := ownNum s2.mem es p.pa (2 ^ kind)
      let xs := value kind d sx n
      let late (code : TrapCode) (sub : Nat) : Trap :=
        { code := code, sub := sub, addr := ea, info := BitVec.ofNat 32 d, late := true, tpc := t.pc, epc := t.pc }
      let src := ResultKind.load (s2.farPa i.blk.die p.pa)
      let bad := s2.mem.marked (lineOf p.pa)
      let cut := s2.noRoute p
      let gives (tr : Option Trap) : Prop :=
        (p.sc = false → exec ins s = .next (s2.modThread i.blk.bid ti (fun u =>
          (u.addResult src (xs.map RegWrite.dest) xs tr).advance x.sw x.len))) ∧
        (p.sc = true → exec ins s = .next (s2.modThread i.blk.bid ti (fun u =>
          { u.keepResult src (xs.map RegWrite.dest) xs tr with
            pc := u.pc + BitVec.ofNat 64 x.len, park := .sc (some u.nextRid), mark := x.sw, back := x.len })))
      ((t.reds ≠ [] → s1.behindRed t p = true → exec ins s =
        .next (s1.modThread i.blk.bid ti (fun u => { u with park := .retry .redsDone }))) ∧
      (t.reds = [] →
        (bad = false → cut = false → gives none) ∧
        (bad = true → gives (some (late .dataerr 0))) ∧
        (bad = false → cut = true → gives (some (late .fabric 4)))))
  let inTurn (ins : Instr) (x : Sig) (kind d a b : Nat) (off : Int) (sx : Bool) : Prop :=
    ∀ (s : State) (i : Iss), s.iss? = some i → kind ≤ 4 → InTurn ins x s i (fun s0 ti t s' =>
      let ea := pairAt i.warp.w t a + (readSpec i.warp.w t b).signExtend 64 + BitVec.ofInt 64 off
      ∃ s1 p, ea.toNat % 2 ^ kind = 0 ∧ t.reds = [] ∧ s0.reach i ea accLoad = (s1, .inr p) ∧ p.sc = false ∧
        s1.beforeRead i.blk.bid ti p = s1 ∧
        let s2 := s1.touch (lineOf p.pa)
        let es := ((s2.block? i.blk.bid).map (fun b => b.ownStores ti)).getD []
        let xs := value kind d sx (ownNum s2.mem es p.pa (2 ^ kind))
        s2.mem.marked (lineOf p.pa) = false ∧ s2.noRoute p = false ∧ s' = s2.modThread i.blk.bid ti (fun u =>
          (u.addResult (.load (s2.farPa i.blk.die p.pa)) (xs.map RegWrite.dest) xs).advance x.sw x.len))
  (∀ x : FormX, loads (.ld x) (ldSig x) (x.fld 55 53) x.d.toNat x.a.toNat x.b.toNat
    (sext 8 (x.fld 63 56) * 2 ^ x.fld 55 53) (x.fld 52 52 == 1)) ∧
  (∀ x : FormX, inTurn (.ld x) (ldSig x) (x.fld 55 53) x.d.toNat x.a.toNat x.b.toNat
    (sext 8 (x.fld 63 56) * 2 ^ x.fld 55 53) (x.fld 52 52 == 1)) ∧
  (∀ f : FormB, loads (.ld32 f) (Gen.ofB 0x48 f).theSig 2 f.d.toNat f.a.toNat 0xFF (f.imm.toInt * 4) false ∧
    inTurn (.ld32 f) (Gen.ofB 0x48 f).theSig 2 f.d.toNat f.a.toNat 0xFF (f.imm.toInt * 4) false) ∧
  (∀ f : FormB, loads (.ld128 f) (Gen.ofB 0x49 f).theSig 4 f.d.toNat f.a.toNat 0xFF (f.imm.toInt * 16) false ∧
    inTurn (.ld128 f) (Gen.ofB 0x49 f).theSig 4 f.d.toNat f.a.toNat 0xFF (f.imm.toInt * 16) false) ∧
  (∀ x : FormX,
    (x.fld 52 46 = 0x48 →
      loads (.wide x) (Gen.ofWide x).theSig 2 x.d.toNat x.a.toNat 0xFF (sext 10 (x.fld 62 53) * 4) false) ∧
    (x.fld 52 46 = 0x49 →
      loads (.wide x) (Gen.ofWide x).theSig 4 x.d.toNat x.a.toNat 0xFF (sext 10 (x.fld 62 53) * 16) false))

/-- R195, R196: `ld.f32`, `ld.bf16` and `ld.block` of a share deliver its eight elements: expanded under the block's scale
byte, or as codes with the scale byte in the named k register. The page must carry a tag, and the share be aligned.
R123, R197, R198: `st.block` of a tagged page stores its thread's share with the block's sidecar byte, and zeros in the bytes
and sidecar bytes of the line beyond its blocks; it waits in the warp's queue, and on an SC page the thread is parked until it is
performed (R218). As a release, or after a fence that releases, it first has the partials that its scope names merged (R214).
R197, R198: the threads of a run buffer their parts one after another; each part holds all shares of its block that the run
writes, in ascending position, and the sidecar byte of the lowest participant of the block, and the parts leave the queue
together.
Where the manual leaves a point open, the model's choice holds: log entries 17 and 66. -/
def Obligations.TaggedPagesHoldShares : Prop :=
  (∀ (x : FormX) (s s1 : State) (i : Iss) (ti : Nat) (t : Thread) (p : Pa), Alone s (ldSig x) i ti t →
     let kind := x.fld 55 53
     let ea := pairAt i.warp.w t x.a.toNat + (readSpec i.warp.w t x.b.toNat).signExtend 64 +
       BitVec.ofInt 64 (sext 8 (x.fld 63 56) * 2)
     5 ≤ kind → (s.settleRun (ldSig x) i).reach i ea accLoad = (s1, .inr p) →
     (p.tag = 0 → exec (.ld x) s = .next (s1.faultThread i ti .format 6 ea)) ∧
     (p.tag ≠ 0 → shareAligned (tagFmt p.tag) ea.toNat = false →
       exec (.ld x) s = .next (s1.faultThread i ti .misalign 2 ea)) ∧
     (p.tag ≠ 0 → shareAligned (tagFmt p.tag) ea.toNat = true → p.sc = false → t.reds = [] →
       s1.beforeRead i.blk.bid ti p = s1 →
       s1.mem = (s1.touch (lineOf p.pa)).mem → s1.mem.marked (lineOf p.pa) = false →
       (s1.touch (lineOf p.pa)).noRoute p = false →
       (kind = 7 → fmtWidth (tagFmt p.tag) ≠ 4 → x.d ≠ 0xFF → x.d.toNat % 2 = 0) →
       (∀ b, s1.block? i.blk.bid = some b →
         groupFate b t x.d.toNat (if kind = 7 then blockRegs (tagFmt p.tag) else kindRegs kind) true = .go) →
       let es := ((s1.block? i.blk.bid).map (fun b => b.ownStores ti)).getD []
       let fmt := tagFmt p.tag
       let sc := (ownSide s1.mem es (lineOf p.pa * 8 + p.pa % 128 / (4 * fmtWidth fmt))).toNat
       let codes := shareCodes s1.mem es fmt p.pa
       let xs := if kind = 5 then wrs x.d.toNat ((codes.map (blockVal fmt sc)).map rne32)
         else if kind = 6 then wrs x.d.toNat (packCodes 16 4 ((codes.map (blockVal fmt sc)).map (bf16.round .rne false)))
         else wrs x.d.toNat (packCodes (fmtWidth fmt) (blockRegs fmt) codes) ++ wrKByte (x.c.toNat - 0xC0) (x.fld 47 46) sc
       exec (.ld x) s = .next ((s1.touch (lineOf p.pa)).modThread i.blk.bid ti (fun u =>
         (u.addResult (.load (s1.farPa i.blk.die p.pa)) (xs.map RegWrite.dest) xs).advance x.sw 8)))) ∧
  (∀ (x : FormX) (s s1 : State) (i : Iss) (ti : Nat) (t : Thread) (p : Pa), Alone s (stSig x) i ti t → x.fld 55 53 = 7 →
     let k := t.relScope (x.fld 51 50 == 1) (x.fld 49 48)
     let s2 := s1.releaseAt i.blk k
     let ea := pairAt i.warp.w t x.a.toNat + (readSpec i.warp.w t x.b.toNat).signExtend 64 +
       BitVec.ofInt 64 (sext 8 (x.fld 63 56) * 2)
     (s.settleRun (stSig x) i).reach i ea accStore = (s1, .inr p) → p.tag ≠ 0 →
     shareAligned (tagFmt p.tag) ea.toNat = true →
     (fmtWidth (tagFmt p.tag) ≠ 4 → x.d ≠ 0xFF → x.d.toNat % 2 = 0) →
     (∀ b, s1.block? i.blk.bid = some b → groupFate b t x.d.toNat (blockRegs (tagFmt p.tag)) false = .go) →
     groupFate i.blk t x.d.toNat (blockRegs (tagFmt p.tag)) false = .go → s2.noRoute p = false → t.reds = [] →
     (k.any (2 ≤ ·) = true → s.ackOpen i.blk.bid ti = false) →
     let fmt := tagFmt p.tag
     let n := 128 / (4 * fmtWidth fmt)
     let w := fromWords ((List.range (blockRegs fmt)).map (fun k => (t.rd i.warp.w).r (x.d.toNat + k)))
     let e : StoreEnt :=
       { ti := ti,
         cells := plainCells p.pa (toBytes (fmtWidth fmt) w) ++ (List.range (128 - n * (4 * fmtWidth fmt))).map (fun k =>
           { addr := 128 * lineOf p.pa + n * (4 * fmtWidth fmt) + k, mask := 0xFF, val := 0 }),
         sides := (lineOf p.pa * 8 + p.pa % 128 / (4 * fmtWidth fmt),
             BitVec.ofNat 8 ((readSpec i.warp.w t x.c.toNat).toNat / 2 ^ (8 * x.fld 47 46) % 256)) ::
           (List.range (8 - n)).map (fun k => (lineOf p.pa * 8 + n + k, 0)),
         lines := [], pay := [], nblk := n, sc := p.sc }
     let buffered (f : Thread → Thread) : Prop := exec (.st x) s = .next ((s2.buffer i.blk.bid ti e).modThread i.blk.bid ti f)
     (p.sc = false → buffered (fun u => u.advance x.sw 8)) ∧
     (p.sc = true → buffered (fun u => { u with pc := u.pc + 8, park := .sc none, mark := x.sw, back := 8 }))) ∧
  (∀ (x : FormX) (s : State) (i : Iss) (pas : Thread → Pa), s.iss? = some i → x.fld 55 53 = 7 →
     let ps := parts (stSig x) s.tick i
     let k (t : Thread) : Option Nat := t.relScope (x.fld 51 50 == 1) (x.fld 49 48)
     let ea (t : Thread) : DWord := pairAt i.warp.w t x.a.toNat + (readSpec i.warp.w t x.b.toNat).signExtend 64 +
       BitVec.ofInt 64 (sext 8 (x.fld 63 56) * 2)
     let fmt (u : Thread) : Nat := tagFmt (pas u).tag
     let block (u : Thread) : Nat := lineOf (pas u).pa * 8 + (pas u).pa % 128 / (4 * fmtWidth (fmt u))
     (∀ t ∈ ps, ((s.settleRun (stSig x) i).reach i (ea t) accStore).2 = .inr (pas t) ∧ (pas t).tag ≠ 0 ∧
       shareAligned (fmt t) (ea t).toNat = true ∧ (fmtWidth (fmt t) ≠ 4 → x.d ≠ 0xFF → x.d.toNat % 2 = 0) ∧
       groupFate i.blk t x.d.toNat (blockRegs (fmt t)) false = .go ∧ t.reds = [] ∧
       ((k t).any (2 ≤ ·) = true → s.ackOpen i.blk.bid (i.blk.tindex t) = false)) →
     InTurn (.st x) (stSig x) s i (fun s0 ti t s' => ∃ s1 p, s0.reach i (ea t) accStore = (s1, .inr p) ∧ p.tag ≠ 0 ∧
       p.sc = false ∧ shareAligned (tagFmt p.tag) (ea t).toNat = true ∧
       (fmtWidth (tagFmt p.tag) ≠ 4 → x.d ≠ 0xFF → x.d.toNat % 2 = 0) ∧
       (∀ b, s1.block? i.blk.bid = some b → groupFate b t x.d.toNat (blockRegs (tagFmt p.tag)) false = .go) ∧
       let s2 := s1.releaseAt i.blk (k t)
       let w := fmtWidth (tagFmt p.tag)
       let n := 128 / (4 * w)
       let mine := ps.filter (fun u => block u == lineOf p.pa * 8 + p.pa % 128 / (4 * w))
       s2.noRoute p = false ∧ s' = (s2.buffer i.blk.bid ti
         { ti := ti,
           cells := mine.flatMap (fun u => plainCells (pas u).pa (toBytes w (fromWords ((List.range (blockRegs (tagFmt p.tag))).map
               (fun k => (u.rd i.warp.w).r (x.d.toNat + k)))))) ++
             (List.range (128 - n * (4 * w))).map (fun k => { addr := 128 * lineOf p.pa + n * (4 * w) + k, mask := 0xFF, val := 0 }),
           sides := (mine.head?.map (fun u => (lineOf p.pa * 8 + p.pa % 128 / (4 * w),
               BitVec.ofNat 8 ((readSpec i.warp.w u x.c.toNat).toNat / 2 ^ (8 * x.fld 47 46) % 256)))).toList ++
             (List.range (8 - n)).map (fun k => (lineOf p.pa * 8 + n + k, 0)),
           lines := [], pay := [], nblk := n, more := ps.any (fun u => t.slot < u.slot) }).modThread i.blk.bid ti
         (fun u => u.advance x.sw 8)))

/-- R197, R199, R213, R218: a store whose checks pass is buffered in its warp's queue, behind the warp's earlier stores, at its
own address and with its own bytes, and no byte of memory changes; on an SC page its thread is parked until it is performed. A
release store, and any store after a fence that releases, first has the partials that its scope names merged (R214); every store of
its thread stands before it, the thread's `red`s to windows it waits for (R266), and at package scope and wider the
acknowledgements of the thread's writes to other packages (R252). The threads of a run buffer their stores one after another, and
the last of them those lines of which the run rewrites every word (R335).
R213, R263: performing a store of ordinary memory writes the bits that its masks name, byte by byte in order, and the
sidecar bytes that it holds; every other byte and sidecar byte of memory reads as before, where no partial of a `red.merge`
waits to be merged. A store that leaves the queue is performed so, and a thread that is parked for it goes on unless a store that
it is parked for is still on its way to a home in another package; the home's answer then lets it go on.
Where the manual leaves a point open, the model's choice holds: log entries 13, 17, 18, 65 and 66. -/
def Obligations.StoresAreBufferedAndPerformed : Prop :=
  (let stores (ins : Instr) (x : Sig) (kind d a b : Nat) (off : Int) (rel : Option Nat) : Prop :=
     ∀ (s s1 : State) (i : Iss) (ti : Nat) (t : Thread) (p : Pa), Alone s x i ti t → kind ≤ 4 →
       let ea := pairAt i.warp.w t a + (readSpec i.warp.w t b).signExtend 64 + BitVec.ofInt 64 off
       ea.toNat % 2 ^ kind = 0 → (s.settleRun x i).reach i ea accStore = (s1, .inr p) →
       let scope : Option Nat := match rel with
         | some k => some (max k (t.fenced.getD 0))
         | none => t.fenced
       (t.reds ≠ [] → scope ≠ none ∨ s.behindRed t p = true → exec ins s =
         .next (s1.modThread i.blk.bid ti (fun u => { u with park := .retry .redsDone }))) ∧
       (t.reds = [] → scope.any (2 ≤ ·) = true → s.ackOpen i.blk.bid ti = true → exec ins s =
         .next ((s1.drainOf i.blk.bid ti).modThread i.blk.bid ti (fun u => { u with park := .retry (.acked [ti]) }))) ∧
       (t.reds = [] ∨ (scope = none ∧ s.behindRed t p = false) → (scope.any (2 ≤ ·) = true → s.ackOpen i.blk.bid ti = false) →
       let r := readSpec i.warp.w t
       let s2 := match scope with
         | some k => s1.release i.blk k
         | none => s1
       s2.noRoute p = false →
       let bytes := toBytes (2 ^ kind) (if kind ≤ 2 then (r d).toNat
         else fromWords ((List.range (2 ^ kind / 4)).map (fun k => (t.rd i.warp.w).r (d + k))))
       ∃ e : StoreEnt, e.ti = ti ∧ e.cells = bytes.zipIdx.map (fun (v, k) => { addr := p.pa + k, mask := 0xFF, val := v }) ∧
         e.sides = [] ∧ e.lines = [] ∧ e.nblk = 0 ∧ e.more = false ∧ e.sc = p.sc ∧ (s2.buffer i.blk.bid ti e).mem = s2.mem ∧
         (p.sc = false → exec ins s = .next ((s2.buffer i.blk.bid ti e).modThread i.blk.bid ti (fun u => u.advance x.sw x.len))) ∧
         (p.sc = true → exec ins s = .next ((s2.buffer i.blk.bid ti e).modThread i.blk.bid ti (fun u =>
           { u with pc := u.pc + BitVec.ofNat 64 x.len, park := .sc none, mark := x.sw, back := x.len }))))
   (∀ x : FormX, stores (.st x) (stSig x) (x.fld 55 53) x.d.toNat x.a.toNat x.b.toNat
     (sext 8 (x.fld 63 56) * 2 ^ x.fld 55 53) (if x.fld 51 50 = 1 then some (x.fld 49 48) else none)) ∧
   (∀ f : FormB, stores (.st32 f) (Gen.ofB 0x4A f).theSig 2 f.d.toNat f.a.toNat 0xFF (f.imm.toInt * 4) none) ∧
   (∀ f : FormB, stores (.st128 f) (Gen.ofB 0x4B f).theSig 4 f.d.toNat f.a.toNat 0xFF (f.imm.toInt * 16) none) ∧
   (∀ x : FormX,
     (x.fld 52 46 = 0x4A →
       stores (.wide x) (Gen.ofWide x).theSig 2 x.d.toNat x.a.toNat 0xFF (sext 10 (x.fld 62 53) * 4) none) ∧
     (x.fld 52 46 = 0x4B →
       stores (.wide x) (Gen.ofWide x).theSig 4 x.d.toNat x.a.toNat 0xFF (sext 10 (x.fld 62 53) * 16) none))) ∧
  (∀ (s : State) (bid ti : Nat) (e : StoreEnt) (b : Block) (w : Warp), s.block? bid = some b → b.warps[b.warpIx ti]? = some w →
     ∃ b', (s.buffer bid ti e).block? bid = some b' ∧ b'.threads = b.threads ∧
       (b'.warps[b.warpIx ti]?).map (fun v => v.stores) = some (w.stores ++ [e])) ∧
  (let inTurn (ins : Instr) (x : Sig) (kind d a b : Nat) (off : Int) (rel : Option Nat) : Prop :=
     ∀ (s : State) (i : Iss) (pas : Thread → Pa), s.iss? = some i → kind ≤ 4 →
       let ps := parts x s.tick i
       let ea (t : Thread) : DWord := pairAt i.warp.w t a + (readSpec i.warp.w t b).signExtend 64 + BitVec.ofInt 64 off
       let scope (t : Thread) : Option Nat := match rel with
         | some k => some (max k (t.fenced.getD 0))
         | none => t.fenced
       (∀ t ∈ ps, (ea t).toNat % 2 ^ kind = 0 ∧ ((s.settleRun x i).reach i (ea t) accStore).2 = .inr (pas t) ∧ t.reds = [] ∧
         ((scope t).any (2 ≤ ·) = true → s.ackOpen i.blk.bid (i.blk.tindex t) = false)) →
       InTurn ins x s i (fun s0 ti t s' => ∃ s1 p, s0.reach i (ea t) accStore = (s1, .inr p) ∧ (ea t).toNat % 2 ^ kind = 0 ∧
         p.sc = false ∧
         let s2 := s1.releaseAt i.blk (scope t)
         let bytes := toBytes (2 ^ kind) (if kind ≤ 2 then (readSpec i.warp.w t d).toNat
           else fromWords ((List.range (2 ^ kind / 4)).map (fun k => (t.rd i.warp.w).r (d + k))))
         let whole (l : Nat) : Bool := (List.range 32).all (fun k => ps.any (fun u => (pas u).pa == 128 * l + 4 * k))
         s2.noRoute p = false ∧ s' = (s2.buffer i.blk.bid ti
           { ti := ti, cells := bytes.zipIdx.map (fun (v, k) => { addr := p.pa + k, mask := 0xFF, val := v }), sides := [],
             lines := [], nblk := 0,
             pay := if kind = 2 ∧ ps.all (fun u => u.slot ≤ t.slot) = true then
               ((ps.map (fun u => lineOf (pas u).pa)).eraseDups).filter whole else [] }).modThread i.blk.bid ti
           (fun u => u.advance x.sw x.len))
   (∀ x : FormX, inTurn (.st x) (stSig x) (x.fld 55 53) x.d.toNat x.a.toNat x.b.toNat
     (sext 8 (x.fld 63 56) * 2 ^ x.fld 55 53) (if x.fld 51 50 = 1 then some (x.fld 49 48) else none)) ∧
   (∀ f : FormB, inTurn (.st32 f) (Gen.ofB 0x4A f).theSig 2 f.d.toNat f.a.toNat 0xFF (f.imm.toInt * 4) none) ∧
   (∀ f : FormB, inTurn (.st128 f) (Gen.ofB 0x4B f).theSig 4 f.d.toNat f.a.toNat 0xFF (f.imm.toInt * 16) none)) ∧
  (∀ (s : State) (b c : Block) (e : StoreEnt) (t : Thread), s.block? b.bid = some c → c.threads[e.ti]? = some t →
     let done : Prop := (s.leaveQueue b e).scOpen b.bid e.ti = false
     (e.sc = true → t.park = .sc none → done → (s.leaveQueue b e).thread? b.bid e.ti = some t.release) ∧
     (e.sc = false ∨ t.park ≠ .sc none ∨ ¬ done → (s.leaveQueue b e).thread? b.bid e.ti = some t) ∧
     (s.leaveQueue b e).mem = (s.performStore e).mem) ∧
  (∀ (s : State) (die line bid ti : Nat) (w : PeerWrite) (ws : List PeerWrite) (t : Thread), s.fab.peer.writes = w :: ws →
     w.die = die → w.line = line → w.owner = .thread bid ti → s.thread? bid ti = some t → t.park = .sc none →
     (s.writeAcked die line).fab.peer.writes = ws ∧
     (w.sc = true → (∀ v ∈ ws, v.sc = true → v.owner ≠ .thread bid ti) →
       (s.writeAcked die line).thread? bid ti = some t.release) ∧
     (w.sc = false ∨ (∃ v ∈ ws, v.sc = true ∧ v.owner = .thread bid ti) → (s.writeAcked die line).thread? bid ti = some t)) ∧
  (∀ (s : State) (e : StoreEnt), s.memOk → s.churn = [] → (∀ c ∈ e.cells, bitsAt c.addr 53 1 = 0) →
     (∀ x ∈ e.sides, bitsAt (x.1 / 8 * 128) 53 1 = 0) →
     (∀ a, (s.performStore e).mem.byte a =
       e.cells.foldl (fun v c => if c.addr = a then (v &&& ~~~c.mask) ||| (c.val &&& c.mask) else v) (s.mem.byte a)) ∧
     (∀ line b, b < 8 → (s.performStore e).mem.side line b =
       e.sides.foldl (fun v x => if x.1 = line * 8 + b then x.2 else v) (s.mem.side line b)) ∧
     (s.performStore e).blocks = s.blocks ∧ (s.performStore e).churn = [])

/-- R183, R200: both judge their effective address before the index of the bit is added, and trap PAGE 2 where it is no
virtual address; `pst` stores the one bit that its predicate and index name, under a mask that leaves the byte's other bits, and as a release, or
after a fence that releases, first has the partials that its scope names merged (R214); `pld` delivers the bit that it names to its predicate. On an SC page both park
their thread until the access is performed (R218).
Where the manual leaves a point open, the model's choice holds: log entries 17 and 66. -/
def Obligations.PredicateAccessesNameOneBit : Prop :=
  ∀ (x : FormX) (s s1 : State) (i : Iss) (ti : Nat) (t : Thread) (p : Pa),
    let k := (readSpec i.warp.w t x.b.toNat).toNat
    let at_ := pairAt i.warp.w t x.a.toNat + BitVec.ofInt 64 (sext 8 (x.fld 63 56))
    let ea := at_ + BitVec.ofNat 64 (k / 8)
    let m : Byte := BitVec.ofNat 8 (2 ^ (k % 8))
    (2 ^ 53 ≤ at_.toNat →
      (Alone s (pstSig x) i ti t → exec (.pst x) s = .next ((s.settleRun (pstSig x) i).faultThread i ti .page 2 at_)) ∧
      (Alone s (pldSig x) i ti t → exec (.pld x) s = .next ((s.settleRun (pldSig x) i).faultThread i ti .page 2 at_))) ∧
    (Alone s (pstSig x) i ti t → at_.toNat < 2 ^ 53 → (s.settleRun (pstSig x) i).reach i ea accPst = (s1, .inr p) →
      let scope := t.relScope (x.fld 51 50 == 1) (x.fld 49 48)
      let s2 := s1.releaseAt i.blk scope
      s2.noRoute p = false → t.reds = [] → (scope.any (2 ≤ ·) = true → s.ackOpen i.blk.bid ti = false) →
      let buffered (f : Thread → Thread) : Prop := exec (.pst x) s = .next ((s2.buffer i.blk.bid ti
        { ti := ti, cells := [{ addr := p.pa, mask := m, val := if readPred t x.d.toNat then m else 0 }], sides := [],
          lines := [], pay := [], nblk := 0, sc := p.sc }).modThread i.blk.bid ti f)
      (p.sc = false → buffered (fun u => u.advance x.sw 8)) ∧
      (p.sc = true → buffered (fun u => { u with pc := u.pc + 8, park := .sc none, mark := x.sw, back := 8 }))) ∧
    (Alone s (pldSig x) i ti t → at_.toNat < 2 ^ 53 → (s.settleRun (pldSig x) i).reach i ea accLoad = (s1, .inr p) →
      t.reds = [] →
      let s2 := (s1.beforeRead i.blk.bid ti p).touch (lineOf p.pa)
      let es := ((s2.block? i.blk.bid).map (fun b => b.ownStores ti)).getD []
      let xs : List RegWrite := if x.d = 7 then []
        else [{ dest := .p x.d.toNat, val := if (ownByte s2.mem es p.pa).getLsbD (k % 8) then 1 else 0 }]
      let src := ResultKind.load (s2.farPa i.blk.die p.pa)
      s2.mem.marked (lineOf p.pa) = false → s2.noRoute p = false →
      (p.sc = false → exec (.pld x) s = .next (s2.modThread i.blk.bid ti (fun u =>
        (if x.d = 7 then u else u.addResult src [.p x.d.toNat] xs).advance x.sw 8))) ∧
      (p.sc = true → exec (.pld x) s = .next (s2.modThread i.blk.bid ti (fun u =>
        { u.keepResult src (xs.map RegWrite.dest) xs none with
          pc := u.pc + 8, park := .sc (some u.nextRid), mark := x.sw, back := 8 }))))

/-- R201 to R205: an atomic reads its location after the warp's earlier stores, writes the operation's result there in the
same step, and a returning one delivers the old value as a V-class result. Nothing else of memory changes after them. On an SC
page the thread is parked until the atomic is performed (R218). One on another package's memory is sent to its home as a packet,
and its result is outstanding until the home answers (R252, R254), which its thread waits for where it is an acquire (R214). As a
release, or after a fence that releases, it waits for the
thread's `red`s to windows and, at package scope and wider, for the acknowledgements of its writes to other packages (R211, R214,
R252, R266).
R204: the threads of a run perform their atomics one after another, in ascending position, each on what those before it left.
R264, R269: a `red` to a window of format FP32 contributes the block of its words to the window's reduction, and its thread
keeps its round in mind; the words of a block that several threads name are gathered into one contribution, those of one word summed
in ascending position; any other `red` to a window traps FABRIC 8.
R202: the operations that an atomic applies, on 32-bit and 64-bit values.
Where the manual leaves a point open, the model's choice holds: log entries 8, 13, 17, 18, 66 and 80. -/
def Obligations.AtomicsReadModifyAndWrite : Prop :=
  (∀ (x : FormX) (s s1 : State) (i : Iss) (ti : Nat) (t : Thread) (p : Pa),
     let b64 : Bool := x.fld 48 48 == 1
     let n : Nat := if x.fld 48 48 = 1 then 8 else 4
     let ea := pairAt i.warp.w t x.a.toNat + BitVec.ofInt 64 (sext 7 (x.fld 63 57) * n)
     let arg (r : Nat) : DWord := if x.fld 48 48 = 1 then pairAt i.warp.w t r else (readSpec i.warp.w t r).setWidth 64
     let scope : Option Nat := if 2 ≤ x.fld 52 51 then some (max (x.fld 50 49) (t.fenced.getD 0)) else t.fenced
     let s2 := s1.drainOf i.blk.bid ti
     let released : State := match scope with
       | some k => s2.release i.blk k
       | none => s2
     let ready : State := released.touch (lineOf p.pa)
     let old := BitVec.ofNat 64 (ready.mem.num p.pa n)
     let after (new : DWord) : State := ready.writeMem p.pa (toBytes n new.toNat)
     let xs := wrs x.d.toNat (if x.fld 48 48 = 1 then words2 old else [loWord old])
     let src := ResultKind.load (ready.farPa i.blk.die p.pa)
     let returns (ins : Instr) (ys : List RegWrite) (s3 : State) : Prop :=
       (p.sc = false → exec ins s = .next (s3.modThread i.blk.bid ti (fun u =>
         (u.addResult src (ys.map RegWrite.dest) ys).advance x.sw 8))) ∧
       (p.sc = true → exec ins s = .next (s3.modThread i.blk.bid ti (fun u =>
         { u.keepResult src (ys.map RegWrite.dest) ys none with
           pc := u.pc + 8, park := .sc (some u.nextRid), mark := x.sw, back := 8 })))
     let sent (cas : Nat) (ret : Bool) : State :=
       ((released.modPeer (fun y => { y.drop (lineOf p.pa) with atoms := y.atoms ++ [
           { die := i.blk.die, pa := p.pa, b64 := b64, waiters := [
             { ix := 0, bid := i.blk.bid, ti := ti, rid := if (ret || p.sc) = true then some t.nextRid else none, ret := ret,
               d := x.d.toNat, late := { code := .dataerr, sub := 0, addr := ea, info := BitVec.ofNat 32 x.d.toNat, late := true,
                                         tpc := t.pc, epc := t.pc } }] }] })).sendPeer i.blk.die .atomic
         (BitVec.ofNat 16 (x.fld 56 53 + 16 * x.fld 48 48 + 32 * cas)) p.pa
         [{ data := BitVec.ofNat 1024 ((arg x.b.toNat).toNat + cas * (arg x.c.toNat).toNat * 2 ^ 64), side := 0 }])
     let ds := xs.map RegWrite.dest
     let awaits (ins : Instr) (cas : Nat) (ret : Bool) : Prop :=
       let ys := if ret = true then ds else []
       let owes (u : Thread) : Thread := u.keepResult .away ys (ys.map (fun d => { dest := d, val := 0 })) none
       let acquire : Bool := ret && x.fld 52 51 % 2 == 1
       (p.sc = false → acquire = false → exec ins s = .next ((sent cas ret).modThread i.blk.bid ti (fun u =>
         (if ret = true then owes u else u).advance x.sw 8))) ∧
       (p.sc = false → acquire = true → exec ins s = .next ((sent cas ret).modThread i.blk.bid ti (fun u =>
         let v := (owes u).advance x.sw 8
         if v.park = .ready then { v with park := .retry (.answered [ti]) } else v))) ∧
       (p.sc = true → exec ins s = .next ((sent cas ret).modThread i.blk.bid ti (fun u =>
         { owes u with pc := u.pc + 8, park := .sc (some u.nextRid), mark := x.sw, back := 8 })))
     let waits (ins : Instr) (s3 : State) (c : Cond) : Prop :=
       exec ins s = .next (s3.modThread i.blk.bid ti (fun u => { u with park := .retry c }))
     let goes (ins : Instr) (sig : Sig) (acc : Acc) (red : Bool) (may : Prop) (done far : Prop) : Prop :=
       Alone s sig i ti t → may → (s.settleRun sig i).reach i ea acc red = (s1, .inr p) →
       (t.reds ≠ [] → scope ≠ none ∨ s.behindRed t p = true → waits ins s1 .redsDone) ∧
       (t.reds = [] → scope.any (2 ≤ ·) = true → s.ackOpen i.blk.bid ti = true → waits ins s2 (.acked [ti])) ∧
       (t.reds = [] ∨ (scope = none ∧ s.behindRed t p = false) → (scope.any (2 ≤ ·) = true → s.ackOpen i.blk.bid ti = false) →
         s2.noRoute p = false →
         (s2.elsewhere p.pa = false → s2.mem.marked (lineOf p.pa) = false → ready.noRoute p = false → done) ∧
         (s2.elsewhere p.pa = true → far))
     ea.toNat % n = 0 → p.tag = 0 → p.win = false →
     goes (.atom x) (atomSig x) accAtom false True
       (returns (.atom x) xs (after (atomOp (x.fld 56 53) b64 old (arg x.b.toNat)))) (awaits (.atom x) 0 true) ∧
     goes (.atomcas x) (atomcasSig x) accAtom false True
       (returns (.atomcas x) xs (after (if old = arg x.b.toNat then arg x.c.toNat else old))) (awaits (.atomcas x) 1 true) ∧
     goes (.red x) (redSig x) accRed true (x.fld 47 46 ≠ 2)
       (returns (.red x) [] (after (atomOp (x.fld 56 53) b64 old (arg x.b.toNat)))) (awaits (.red x) 0 false) ∧
     goes (.red x) (redSig x) accMerge true (x.fld 47 46 = 2)
       (returns (.red x) [] (s2.redMerge i.blk (x.fld 56 53) b64 p.pa (arg x.b.toNat))) (awaits (.red x) 0 false)) ∧
  (∀ (x : FormX) (s s1 : State) (i : Iss) (ti : Nat) (t : Thread) (p : Pa), Alone s (redSig x) i ti t → x.fld 47 46 ≠ 2 →
     let n : Nat := if x.fld 48 48 = 1 then 8 else 4
     let ea := pairAt i.warp.w t x.a.toNat + BitVec.ofInt 64 (sext 7 (x.fld 63 57) * n)
     ea.toNat % n = 0 → p.tag = 0 → p.win = true → (s.settleRun (redSig x) i).reach i ea accRed true = (s1, .inr p) →
     let may : Prop := x.fld 56 53 = 9 ∧ x.fld 48 48 = 0 ∧ ∃ w, windowAt? s1 p.pa = some w ∧ w.fmt = 0
     let win := p.pa / 2 ^ 33 % 2 ^ 19
     let off := p.pa % 2 ^ 33 / 128 * 128
     (¬ may → exec (.red x) s = .next (s1.faultThread i ti .fabric 8 ea)) ∧
     let scope : Option Nat := if x.fld 52 51 = 2 then some (max (x.fld 50 49) (t.fenced.getD 0)) else t.fenced
     (may → s1.noRoute p = false → scope ≠ none → t.reds ≠ [] → exec (.red x) s =
       .next (s1.modThread i.blk.bid ti (fun u => { u with park := .retry .redsDone }))) ∧
     (may → s1.noRoute p = false → t.reds = [] → scope.any (2 ≤ ·) = true → s.ackOpen i.blk.bid ti = true → exec (.red x) s =
       .next ((s1.drainOf i.blk.bid ti).modThread i.blk.bid ti (fun u => { u with park := .retry (.acked [ti]) }))) ∧
     (may → s1.noRoute p = false → scope = none ∨ t.reds = [] → (scope.any (2 ≤ ·) = true → s.ackOpen i.blk.bid ti = false) →
       let vs : List Val := (List.range 32).map (fun k =>
         if k = p.pa % 128 / 4 then f32 (readSpec i.warp.w t x.b.toNat) else .fin false 0 0)
       let scale := scaleRule (amaxOf vs) 0x10 0
       let s2 := (s1.drainOf i.blk.bid ti).release i.blk (scope.getD 0)
       let s3 := s2.contribute
         { gid := 0, win := win, off := off, round := 0, ep := s1.plat.fuses.pkg * 8 + i.blk.die, hop := 0,
           codes := vs.map (fun v => BitVec.ofNat 8 (quantise 0x10 scale .rne true v)), scale := BitVec.ofNat 8 scale,
           ctx := i.ctx.num, bid := some i.blk.bid, lid := some i.blk.lid, ctr := none, num := 0, entry := none,
           node := s1.nodeOf i.blk.lid }
       exec (.red x) s = .next (s3.modThread i.blk.bid ti (fun u => ({ u with reds := u.reds ++
         [(win, off, s3.fab.roundOf win off (s1.plat.fuses.pkg * 8 + i.blk.die) - 1)] } : Thread).advance x.sw 8)))) ∧
  (∀ (x : FormX) (s : State) (i : Iss), s.iss? = some i →
     let b64 : Bool := x.fld 48 48 == 1
     let n : Nat := if x.fld 48 48 = 1 then 8 else 4
     let arg (t : Thread) (r : Nat) : DWord := if x.fld 48 48 = 1 then pairAt i.warp.w t r else (readSpec i.warp.w t r).setWidth 64
     let scope (t : Thread) : Option Nat := if 2 ≤ x.fld 52 51 then some (max (x.fld 50 49) (t.fenced.getD 0)) else t.fenced
     let step (acc : Acc) (ret : Bool) (new : Thread → DWord → DWord) (s0 : State) (ti : Nat) (t : Thread) (s' : State) : Prop :=
       let ea := pairAt i.warp.w t x.a.toNat + BitVec.ofInt 64 (sext 7 (x.fld 63 57) * n)
       ∃ s1 p, ea.toNat % n = 0 ∧ s0.reach i ea acc (!ret) = (s1, .inr p) ∧ p.tag = 0 ∧ p.win = false ∧ p.sc = false ∧
         let s2 := s1.drainOf i.blk.bid ti
         let ready := (s2.releaseAt i.blk (scope t)).touch (lineOf p.pa)
         let old := BitVec.ofNat 64 (ready.mem.num p.pa n)
         let xs : List RegWrite := if ret = true then wrs x.d.toNat (if x.fld 48 48 = 1 then words2 old else [loWord old]) else []
         s2.noRoute p = false ∧ s2.elsewhere p.pa = false ∧ s2.mem.marked (lineOf p.pa) = false ∧ ready.noRoute p = false ∧
           s' = (ready.writeMem p.pa (toBytes n (new t old).toNat)).modThread i.blk.bid ti (fun u =>
             (u.addResult (.load (ready.farPa i.blk.die p.pa)) (xs.map RegWrite.dest) xs).advance x.sw 8)
     let may (sig : Sig) : Prop := ∀ t ∈ parts sig s.tick i, t.reds = [] ∧
       ((scope t).any (2 ≤ ·) = true → s.ackOpen i.blk.bid (i.blk.tindex t) = false)
     (may (atomSig x) → InTurn (.atom x) (atomSig x) s i
       (step accAtom true (fun t old => atomOp (x.fld 56 53) b64 old (arg t x.b.toNat)))) ∧
     (may (atomcasSig x) → InTurn (.atomcas x) (atomcasSig x) s i
       (step accAtom true (fun t old => if old = arg t x.b.toNat then arg t x.c.toNat else old))) ∧
     (x.fld 47 46 ≠ 2 → may (redSig x) → InTurn (.red x) (redSig x) s i
       (step accRed false (fun t old => atomOp (x.fld 56 53) b64 old (arg t x.b.toNat)))) ∧
     (x.fld 47 46 ≠ 2 → x.fld 56 53 = 9 → x.fld 48 48 = 0 → may (redSig x) → ∀ pas : Thread → Pa,
       let ps := parts (redSig x) s.tick i
       let ea (t : Thread) : DWord := pairAt i.warp.w t x.a.toNat + BitVec.ofInt 64 (sext 7 (x.fld 63 57) * 4)
       (∀ t ∈ ps, (ea t).toNat % 4 = 0 ∧ ((s.settleRun (redSig x) i).reach i (ea t) accRed true).2 = .inr (pas t) ∧ (pas t).tag = 0) →
       InTurn (.red x) (redSig x) s i (fun s0 ti t s' => ∃ s1 p w, s0.reach i (ea t) accRed true = (s1, .inr p) ∧
         (ea t).toNat % 4 = 0 ∧ p.tag = 0 ∧ p.win = true ∧ windowAt? s1 p.pa = some w ∧ w.fmt = 0 ∧ s1.noRoute p = false ∧
         let win := p.pa / 2 ^ 33 % 2 ^ 19
         let off := p.pa % 2 ^ 33 / 128 * 128
         let ep := s1.plat.fuses.pkg * 8 + i.blk.die
         let vs : List Val := (List.range 32).map (fun k =>
           match (ps.filter (fun u => (pas u).pa == 128 * (p.pa / 128) + 4 * k)).map (fun u => f32 (readSpec i.warp.w u x.b.toNat)) with
           | [] => .fin false 0 0
           | v :: us => us.foldl (fun y u => f32 (rne32 (y.add u))) v)
         let scale := scaleRule (amaxOf vs) 0x10 0
         let s2 := (s1.drainOf i.blk.bid ti).releaseAt i.blk (scope t)
         let s3 := if ps.any (fun u => u.slot < t.slot && (pas u).pa / 128 == p.pa / 128) then s2 else s2.contribute
           { gid := 0, win := win, off := off, round := 0, ep := ep, hop := 0,
             codes := vs.map (fun v => BitVec.ofNat 8 (quantise 0x10 scale .rne true v)), scale := BitVec.ofNat 8 scale,
             ctx := i.ctx.num, bid := some i.blk.bid, lid := some i.blk.lid, ctr := none, num := 0, entry := none,
             node := s1.nodeOf i.blk.lid }
         s' = s3.modThread i.blk.bid ti (fun u => ({ u with reds := u.reds ++
           [(win, off, s3.fab.roundOf win off ep - 1)] } : Thread).advance x.sw 8)))) ∧
  (∀ (s : State) (c : Contrib),
     let k := s.fab.roundOf c.win c.off c.ep
     (s.contribute c).fab.contribs = s.fab.contribs ++ [{ c with round := k }] ∧
     (s.contribute c).fab.roundOf c.win c.off c.ep = k + 1 ∧ (s.contribute c).mem = s.mem ∧
     (s.contribute c).blocks = s.blocks) ∧
  ((∀ a b : Word,
     atomOp 0 false (a.setWidth 64) (b.setWidth 64) = (a + b).setWidth 64 ∧
     atomOp 1 false (a.setWidth 64) (b.setWidth 64) = (if b.slt a then b else a).setWidth 64 ∧
     atomOp 2 false (a.setWidth 64) (b.setWidth 64) = (if a.slt b then b else a).setWidth 64 ∧
     atomOp 3 false (a.setWidth 64) (b.setWidth 64) = (if b.ult a then b else a).setWidth 64 ∧
     atomOp 4 false (a.setWidth 64) (b.setWidth 64) = (if a.ult b then b else a).setWidth 64 ∧
     atomOp 5 false (a.setWidth 64) (b.setWidth 64) = (a &&& b).setWidth 64 ∧
     atomOp 6 false (a.setWidth 64) (b.setWidth 64) = (a ||| b).setWidth 64 ∧
     atomOp 7 false (a.setWidth 64) (b.setWidth 64) = (a ^^^ b).setWidth 64 ∧
     atomOp 8 false (a.setWidth 64) (b.setWidth 64) = b.setWidth 64 ∧
     atomOp 9 false (a.setWidth 64) (b.setWidth 64) = (rne32 ((f32 a).add (f32 b))).setWidth 64 ∧
     atomOp 10 false (a.setWidth 64) (b.setWidth 64) =
       BitVec.ofNat 64 (if (f32 a).isNan = true ∧ (f32 b).isNan = true then 0x7FC00000 else if (f32 a).isNan = true then b.toNat
         else if (f32 b).isNan = true then a.toNat
         else if (f32 a).lt (f32 b) = true ∨ ((f32 a).eq (f32 b) = true ∧ a.getLsbD 31 = true ∧ b.getLsbD 31 = false) then a.toNat
         else b.toNat) ∧
     atomOp 11 false (a.setWidth 64) (b.setWidth 64) =
       BitVec.ofNat 64 (if (f32 a).isNan = true ∧ (f32 b).isNan = true then 0x7FC00000 else if (f32 a).isNan = true then b.toNat
         else if (f32 b).isNan = true then a.toNat
         else if (f32 a).lt (f32 b) = true ∨ ((f32 a).eq (f32 b) = true ∧ a.getLsbD 31 = true ∧ b.getLsbD 31 = false) then b.toNat
         else a.toNat)) ∧
   (∀ a b : DWord,
     atomOp 0 true a b = a + b ∧ atomOp 1 true a b = (if b.slt a then b else a) ∧
     atomOp 2 true a b = (if a.slt b then b else a) ∧ atomOp 3 true a b = (if b.ult a then b else a) ∧
     atomOp 4 true a b = (if a.ult b then b else a) ∧ atomOp 5 true a b = a &&& b ∧ atomOp 6 true a b = a ||| b ∧
     atomOp 7 true a b = a ^^^ b ∧ atomOp 8 true a b = b))

/-- R209, R210: `waita` answers true at once where its condition holds, false at once where its time limit is 0, and parks
else, its line watched at its home slice for its bay; its eight conditions are those of R209's table. `fence` performs what its
kind releases and goes on.
R221, R222: `pref`, `cmaint.wb` and `cmaint.wbinv` change nothing but translations, and go on even where their address
faults; `cmaint.merge` merges its line's partials; `cmaint.zero` buffers a store of zeros over its line with its sidecar.
R214, R215: a fence that releases performs its thread's stores, has the partials that its scope names merged, and makes its later
writes releases at that scope or a wider one; the `red`s of the thread to windows it waits for (R266), and at package scope and
wider the acknowledgements of its writes to other packages (R252). One that acquires waits for the answers of the thread's far
atomics (R254).
Where the manual leaves a point open, the model's choice holds: log entries 7, 10, 17, 53, 66 and 80. -/
def Obligations.WaitsFencesAndHints : Prop :=
  ((∀ (x : FormX) (s s1 : State) (i : Iss) (ti : Nat) (t : Thread) (p : Pa), Alone s (waitaSig x) i ti t →
     let n : Nat := if x.fld 52 52 = 1 then 8 else 4
     let ea := pairAt i.warp.w t x.a.toNat + BitVec.ofInt 64 (sext 8 (x.fld 63 56) * n)
     ea.toNat % n = 0 → (s.settleRun (waitaSig x) i).reach i ea accWaita = (s1, .inr p) →
     let s2 := (s1.beforeRead i.blk.bid ti p).touch (lineOf p.pa)
     s2.mem.marked (lineOf p.pa) = false → s2.noRoute p = false → t.reds = [] →
     let es := ((s2.block? i.blk.bid).map (fun b => b.ownStores ti)).getD []
     let v := BitVec.ofNat 64 (ownNum (s2.touch (lineOf p.pa)).mem es p.pa n)
     let arg : DWord := if x.fld 52 52 = 1 then pairAt i.warp.w t x.b.toNat else (readSpec i.warp.w t x.b.toNat).setWidth 64
     let limit := pairAt i.warp.w t x.c.toNat
     let holds : Bool := waitaCond (x.fld 55 53) (x.fld 52 52 == 1) v arg
     (holds = true → exec (.waita x) s = .next (s2.modThread i.blk.bid ti (fun u =>
       (u.setP x.d.toNat true).advance x.sw 8))) ∧
     (holds = false → x.c ≠ 0xFF → limit = 0 → exec (.waita x) s = .next (s2.modThread i.blk.bid ti (fun u =>
       (u.setP x.d.toNat false).advance x.sw 8))) ∧
     (holds = false → x.c = 0xFF ∨ limit ≠ 0 →
       exec (.waita x) s = .next ((s2.watch i.blk (lineOf p.pa)).modThread i.blk.bid ti (fun u =>
       { u with
         pc := u.pc + 8
         park := .waita { va := ea, pa := p.pa, cond := x.fld 55 53, x := arg, b64 := x.fld 52 52 == 1, pd := x.d.toNat,
                          deadline := if x.c = 0xFF then none else some (s.plat.time + limit.toNat) }
         mark := x.sw
         back := 8 })))) ∧
   (∀ (x : FormX) (s : State) (i : Iss) (ti : Nat) (t : Thread), Alone s (fenceSig x) i ti t →
     let s0 := s.settleRun (fenceSig x) i
     (x.fld 47 46 ≠ 1 → s0.atomsOpen i.blk.bid ti = true → MakesThread (.fence x) s i ti { t with park := .retry (.answered [ti]) }) ∧
     (x.fld 47 46 = 1 ∨ s0.atomsOpen i.blk.bid ti = false →
     (x.fld 47 46 = 0 → MakesThread (.fence x) s i ti (t.advance x.sw 8)) ∧
     (x.fld 47 46 ≠ 0 → t.reds ≠ [] → MakesThread (.fence x) s i ti { t with park := .retry .redsDone }) ∧
     (x.fld 47 46 ≠ 0 → t.reds = [] → 2 ≤ x.fld 49 48 → s0.ackOpen i.blk.bid ti = true → exec (.fence x) s =
       .next ((s0.drainOf i.blk.bid ti).modThread i.blk.bid ti (fun u => { u with park := .retry (.acked [ti]) }))) ∧
     (x.fld 47 46 ≠ 0 → t.reds = [] → (2 ≤ x.fld 49 48 → s0.ackOpen i.blk.bid ti = false) → exec (.fence x) s =
       .next (((s0.drainOf i.blk.bid ti).release i.blk (x.fld 49 48)).modThread i.blk.bid ti (fun u =>
         ({ u with fenced := some (max (x.fld 49 48) (u.fenced.getD 0)) } : Thread).advance x.sw 8)))))) ∧
  ((∀ v x : DWord,
     waitaCond 0 true v x = (v == x) ∧ waitaCond 1 true v x = (v != x) ∧ waitaCond 2 true v x = v.slt x ∧
     waitaCond 3 true v x = !v.slt x ∧ waitaCond 4 true v x = v.ult x ∧ waitaCond 5 true v x = !v.ult x ∧
     waitaCond 6 true v x = (v &&& x != 0) ∧ waitaCond 7 true v x = (v &&& x == 0)) ∧
   (∀ v x : Word,
     let holds (c : Nat) : Bool := waitaCond c false (v.setWidth 64) (x.setWidth 64)
     holds 0 = (v == x) ∧ holds 1 = (v != x) ∧ holds 2 = v.slt x ∧ holds 3 = !v.slt x ∧ holds 4 = v.ult x ∧
     holds 5 = !v.ult x ∧ holds 6 = (v &&& x != 0) ∧ holds 7 = (v &&& x == 0))) ∧
  (∀ (x : FormX) (s s1 : State) (i : Iss) (ti : Nat) (t : Thread) (p : Pa),
     let ea := pairAt i.warp.w t x.a.toNat + BitVec.ofInt 64 (sext 8 (x.fld 63 56))
     let goesOn (ins : Instr) (s2 : State) : Prop := exec ins s = .next (s2.modThread i.blk.bid ti (fun u => u.advance x.sw 8))
     (∀ ins ∈ [Instr.pref x, Instr.cmaintWb x, Instr.cmaintWbinv x, Instr.cmaintMerge x], Alone s (sigOf [] ins) i ti t →
       ∀ f, ((s.settleRun (sigOf [] ins) i).reach i ea accLoad).2 = .inl f →
       MakesThread ins s i ti (t.advance x.sw 8)) ∧
     (∀ ins ∈ [Instr.pref x, Instr.cmaintWb x, Instr.cmaintWbinv x], Alone s (sigOf [] ins) i ti t →
       (s.settleRun (sigOf [] ins) i).reach i ea accLoad = (s1, .inr p) → goesOn ins s1) ∧
     (Alone s (cmaintSig x) i ti t → (s.settleRun (cmaintSig x) i).reach i ea accLoad = (s1, .inr p) →
       goesOn (.cmaintMerge x) (s1.touch (lineOf p.pa))) ∧
     (Alone s (cmaintSig x) i ti t → ea.toNat % 128 ≠ 0 →
       MakesThread (.cmaintZero x) s i ti (t.fault i.ctx .misalign 2 ea)) ∧
     (Alone s (cmaintSig x) i ti t → ea.toNat % 128 = 0 →
       (s.settleRun (cmaintSig x) i).reach i ea accZero = (s1, .inr p) → (s1.releaseAt i.blk t.fenced).noRoute p = false →
       t.reds = [] → (t.fenced.any (2 ≤ ·) = true → s.ackOpen i.blk.bid ti = false) →
       let s2 := (s1.releaseAt i.blk t.fenced).buffer i.blk.bid ti
         { ti := ti, cells := plainCells p.pa (List.replicate 128 0),
           sides := (List.range 8).map (fun k => (lineOf p.pa * 8 + k, 0)), lines := [lineOf p.pa], pay := [], nblk := 0,
           sc := p.sc }
       (p.sc = false → goesOn (.cmaintZero x) s2) ∧
       (p.sc = true → exec (.cmaintZero x) s = .next (s2.modThread i.blk.bid ti (fun u =>
         { u with pc := u.pc + 8, park := .sc none, mark := x.sw, back := 8 })))))

/-- R219, R220: `qwait` goes on where the counter's completed value has reached its target, and parks else; `qread`
delivers the issued or completed value; `qadv` takes numbers that are done at once. As a release, or after a fence that releases, it
performs its thread's stores first, and waits for its `red`s to windows and, at package scope and wider, for the acknowledgements
of its writes to other packages (R211, R214, R252, R266).
R219: numbers done in turn advance the completed value at once; a number done early waits until those before it are.
Where the manual leaves a point open, the model's choice holds: log entries 17 and 66. -/
def Obligations.CountersReadAdvanceAndComplete : Prop :=
  (∀ (x : FormX) (s : State) (i : Iss) (ti : Nat) (t : Thread),
     let ref := FormX.ctr x
     let c := s.ctr i.ctx.num i.blk.die (some i.blk.bid) ref
     (Alone s (qwaitSig x) i ti t →
       let k := pairAt i.warp.w t x.b.toNat
       (k.toNat ≤ c.c.toNat → MakesThread (.qwait x) s i ti (t.advance x.sw 8)) ∧
       (c.c.toNat < k.toNat → MakesThread (.qwait x) s i ti { t with park := .retry (.counter ref k) })) ∧
     (Performs s (qreadSig x) i ti t →
       let xs := wrs x.d.toNat (words2 (if x.fld 46 46 = 1 then c.i else c.c))
       MakesThread (.qread x) s i ti ((t.addResult .ready (xs.map RegWrite.dest) xs).advance x.sw 8)) ∧
     (Alone s (qadvSig x) i ti t →
       let n : DWord := (readSpec i.warp.w t x.b.toNat).setWidth 64
       let s0 := s.settleRun (qadvSig x) i
       let scope : Option Nat := if x.fld 46 46 = 1 then some (max (x.fld 49 48) (t.fenced.getD 0)) else t.fenced
       let s1 := match scope with
         | some k => (s0.drainOf i.blk.bid ti).release i.blk k
         | none => s0
       let unheard : Prop := scope.any (2 ≤ ·) = true ∧ s0.ackOpen i.blk.bid ti = true
       (scope ≠ none → t.reds ≠ [] → MakesThread (.qadv x) s i ti { t with park := .retry .redsDone }) ∧
       (t.reds = [] → unheard → exec (.qadv x) s =
         .next ((s0.drainOf i.blk.bid ti).modThread i.blk.bid ti (fun u => { u with park := .retry (.acked [ti]) }))) ∧
       (scope = none ∨ t.reds = [] → ¬ unheard → exec (.qadv x) s =
         .next ((s1.modCtr i.ctx.num i.blk.die (some i.blk.bid) ref (fun y => y.advance n)).modThread i.blk.bid ti
           (fun u => u.advance x.sw 8))))) ∧
  ((∀ (x : Counter) (n : DWord), x.done = [] → x.c = x.i → n ≠ 0 →
     x.advance n = { i := x.i + n, c := x.c + n, done := [] }) ∧
   (∀ x : Counter, x.done = [] → x.finish (x.c + 1) 1 = { x with c := x.c + 1 }) ∧
   (∀ x : Counter, x.done = [] →
     x.finish (x.c + 2) 1 = { x with done := [(x.c + 2, 1)] } ∧
     (x.finish (x.c + 2) 1).finish (x.c + 1) 1 = { x with c := x.c + 2 }))

/-! ### The wide form -/

/-- R44: the wide form has the effect of its inner instruction, with 8-bit specifiers and a guard, and goes on by 8 bytes.
Shown of the operations on registers, `idiv` and `func` among them, of comparisons, `movs`, `movf`, the `ctrl` operations and
`jtab`; an inner major of another form, or none, traps ILLOP subcode 1, whatever else the word holds.
Where the manual leaves a point open, the model's choice holds: log entry 50. -/
def Obligations.WideFormsHaveTheirInnerEffect : Prop :=
  ∀ x : FormX,
    let sig := (Gen.ofWide x).theSig
    let two (mj : Nat) (val : Nat → Word → Word → Word) : Prop := x.fld 52 46 = mj →
      Writes (.wide x) sig x.sw x.d.toNat (fun _ i t =>
        [val (x.fld 56 53) (readSpec i.warp.w t x.a.toNat) (readSpec i.warp.w t x.b.toNat)])
    let one (mj : Nat) (val : Nat → Word → Word) : Prop := x.fld 52 46 = mj →
      Writes (.wide x) sig x.sw x.d.toNat (fun _ i t => [val (x.fld 56 53) (readSpec i.warp.w t x.a.toNat)])
    let owes (mj : Nat) (val : List Word → Thread → Word) : Prop := x.fld 52 46 = mj →
      Results (.wide x) sig (fun _ i t =>
        let xs := wr x.d.toNat (val i.warp.w t)
        (t.addResult .ready (xs.map RegWrite.dest) xs).advance x.sw 8)
    let imm (mj : Nat) (val : Word → Word → Word) : Prop := x.fld 52 46 = mj →
      Writes (.wide x) sig x.sw x.d.toNat (fun _ i t =>
        [val (readSpec i.warp.w t x.a.toNat) (BitVec.ofInt 32 (sext 10 (x.fld 62 53)))])
    let test (mj : Nat) (val : Nat → Word → Word → Bool) : Prop := x.fld 52 46 = mj →
      Results (.wide x) sig (fun _ i t =>
        (t.setP x.d.toNat (val (x.fld 56 53) (readSpec i.warp.w t x.a.toNat) (readSpec i.warp.w t x.b.toNat))).advance x.sw 8)
    (two 0x20 iaddVal ∧ two 0x21 imulVal ∧ two 0x22 iminmaxVal ∧ two 0x23 logicVal ∧
      two 0x24 (fun m a b => shiftVal m a (b.toNat % 64)) ∧ two 0x2E (fun m a b => a + b <<< m) ∧ two 0x2F bfxVal ∧
      two 0x38 faddVal ∧ two 0x39 fmulVal ∧
      two 0x3E (fun m a b => halves fun k => hopHalf m (half a k) (half b k))) ∧
    (owes 0x31 (fun w t => idivVal (x.fld 56 53) (readSpec w t x.a.toNat) (readSpec w t x.b.toNat)) ∧
      owes 0x3B (fun w t => funcVal (x.fld 56 53) (readSpec w t x.a.toNat))) ∧
    (x.fld 52 46 = 0x2B → Writes (.wide x) sig x.sw x.d.toNat (fun _ i t =>
      [shiftVal (x.fld 60 58) (readSpec i.warp.w t x.a.toNat) (x.fld 57 53)])) ∧
    (x.fld 52 46 = 0x30 → Writes (.wide x) sig x.sw x.d.toNat (fun _ i t =>
      [bfiVal (readSpec i.warp.w t x.d.toNat) (readSpec i.warp.w t x.a.toNat) (readSpec i.warp.w t x.b.toNat)])) ∧
    (x.fld 52 46 = 0x12 → Writes (.wide x) sig x.sw x.d.toNat (fun s i t =>
      let v := BitVec.ofNat 64 (specialVal s i t (x.fld 62 53))
      if 16 ≤ x.fld 62 53 ∧ x.fld 62 53 ≤ 18 then words2 v else [loWord v])) ∧
    (x.fld 52 46 = 0x50 → Writes (.wide x) sig x.sw x.d.toNat (fun _ i _ =>
      let slot := i.blk.slots.getD (x.fld 55 53) 0
      [if x.fld 56 56 = 1 then hiWord slot else loWord slot])) ∧
    (one 0x25 iunaryVal ∧ one 0x3C cvtfiVal ∧ one 0x3D cvtifVal) ∧
    (imm 0x27 (fun a k => a + k) ∧ imm 0x28 (fun a k => a &&& k) ∧ imm 0x29 (fun a k => a ||| k) ∧
      imm 0x2A (fun a k => a ^^^ k)) ∧
    (test 0x26 (fun m a b => icond m a b) ∧ test 0x3A fcond) ∧
    (x.fld 52 46 = 0x04 → x.fld 56 53 = 0 → Results (.wide x) sig (fun _ _ t => t.advance x.sw 8)) ∧
    (x.fld 52 46 = 0x04 → x.fld 56 53 = 4 → Results (.wide x) sig (fun _ i t =>
      t.trap i.ctx { code := .brk, sub := 0, addr := 0, info := 0, late := false, tpc := t.pc, epc := t.pc + 8 })) ∧
    (∀ (s : State) (i : Iss) (ti : Nat) (t : Thread), x.fld 52 46 = 0x04 → Alone s sig i ti t →
      (x.fld 56 53 = 1 → ∀ a rest, t.ret = a :: rest →
        MakesThread (.wide x) s i ti (({ t with ret := rest } : Thread).goto x.sw a)) ∧
      (x.fld 56 53 = 2 → i.blk.status = .resident → t.results = [] → t.lates = [] →
        (∀ c ∈ i.blk.conv, c.members.contains ti = true → c.st = .idle ∨ c.st = .declared) →
        exec (.wide x) s = .next (((s.settleRun sig i).modThread i.blk.bid ti (fun u =>
          { u with exited := true, v := [], badRegs := [], pend := [], ret := [], spilled := 0, park := .ready,
                   mark := false })).departed i.blk.bid)) ∧
      (x.fld 56 53 = 3 → ∃ s1, OnlyThreads s s1 i ti (t.advance x.sw 8) ∧
        (∀ y k, s1.sched? i.blk.die i.blk.core (i.blk.partOf i.run.crew) = some y →
          y.active.findIdx? (· == some (i.warp.ref i.blk.bid)) = some k →
          exec (.wide x) s = .next (s1.exchange i.blk.die i.blk.core (i.blk.partOf i.run.crew) k)) ∧
        ((∀ y, s1.sched? i.blk.die i.blk.core (i.blk.partOf i.run.crew) = some y →
            some (i.warp.ref i.blk.bid) ∉ y.active) → exec (.wide x) s = .next s1))) ∧
    (∀ (s : State) (i : Iss) (ti : Nat) (t : Thread), x.fld 52 46 = 0x06 → Alone s (sigOf [] (.wide x)) i ti t →
      let k := (readSpec i.warp.w t x.a.toNat).toNat
      let va := i.run.addr + BitVec.ofNat 64 (8 + 4 * k)
      let s0 := s.settleRun (sigOf [] (.wide x)) i
      (∀ w, k < x.fld 62 53 → fetchHalves s0 i.ctx i.blk.site va 2 = .inr w →
        exec (.wide x) s = .next (((s0.noteFetch i.ctx i.blk.site va).noteFetch i.ctx i.blk.site (va + 2)).modThread
          i.blk.bid ti (fun u => u.goto x.sw (i.run.addr + (BitVec.ofNat 32 w).signExtend 64 <<< 1)))) ∧
      (x.fld 62 53 ≤ k → MakesThread (.wide x) s i ti
        (t.fault i.ctx .badtarget 1 0 (readSpec i.warp.w t x.a.toNat)))) ∧
    (isFormA (x.fld 52 46) = false → isFormB (x.fld 52 46) = false →
      ∀ s i ti t, s.iss? = some i → i.blk.threads[ti]? = some t → i.run.has t = true →
        MakesThread (.wide x) s i ti (t.fault i.ctx .illop 1))

/-! ### Tiles -/

/-- R149, R170: `talloc` makes its free handle a tile of the shape, kind and format that it names: EMPTY, or READY where it
is a work or ridge tile, with every line zero. Its checks come in the order of the rule. Of several threads of a run the lowest
takes the handle, and the others find it taken.
R153, R171, R175 to R177: `tfree`, `tset` and `tfill` act on an EMPTY or READY tile after their warp's earlier stores.
In FILLING and DRAINING they wait; a FREE tile traps TILESTATE 2, an ENGAGED one TOKEN 1. `tfree` waits for its multicasts
too, and after a fence that releases `tfill` is a release at the fence's scope (R214, R252, R266). `tset.ready` and `tfill` let the
streams read that wait for the lines which they fill (R174).
Where the manual leaves a point open, the model's choice holds: log entries 17, 66 and 78. -/
def Obligations.TilesAreAllocatedAndFreed : Prop :=
  (∀ (x : FormX) (s : State) (i : Iss) (ti : Nat) (t : Thread), Alone s (tallocSig x) i ti t →
     let shape := (readSpec i.warp.w t x.a.toNat).toNat
     let rows := shape % 2 ^ 16
     let cols := shape / 2 ^ 16 % 2 ^ 16
     let fmt := x.fld 50 46
     let kind := x.fld 52 51
     let h := x.d.toNat
     let bad : Prop := rows = 0 ∨ 8192 < rows ∨ cols = 0 ∨ 16384 < cols ∨ (fmtBlock fmt = true ∧ cols % 32 ≠ 0)
     let lines := rows * ((cols + eplOf fmt - 1) / eplOf fmt) + (if kind = 2 then (rows + 15) / 16 else 0)
     let need := (lines + 31) / 32
     let used := (i.blk.tiles.map (fun u => if u.st = .free then 0 else (tileLines u.fmt u.rows u.cols u.kind + 31) / 32)).sum
     ((i.blk.tile h).st ≠ .free → MakesThread (.talloc x) s i ti (t.fault i.ctx .tilestate 1)) ∧
     ((i.blk.tile h).st = .free → fmtAssigned fmt = false → MakesThread (.talloc x) s i ti (t.fault i.ctx .format 1)) ∧
     ((i.blk.tile h).st = .free → fmtAssigned fmt = true → kind ≠ 0 → fmt ≠ 0 →
       MakesThread (.talloc x) s i ti (t.fault i.ctx .format 3)) ∧
     ((i.blk.tile h).st = .free → fmtAssigned fmt = true → kind = 0 ∨ fmt = 0 → bad →
       MakesThread (.talloc x) s i ti (t.fault i.ctx .tilebound 1)) ∧
     ((i.blk.tile h).st = .free → fmtAssigned fmt = true → kind = 0 ∨ fmt = 0 → ¬ bad → i.blk.grans < used + need →
       MakesThread (.talloc x) s i ti (t.fault i.ctx .tilespace 1)) ∧
     ((i.blk.tile h).st = .free → fmtAssigned fmt = true → kind = 0 ∨ fmt = 0 → ¬ bad → used + need ≤ i.blk.grans →
       exec (.talloc x) s = .next ((((s.settleRun (tallocSig x) i).drainOf i.blk.bid ti).modTile i.blk.bid h (fun _ =>
         { st := if kind = 0 then .empty else .ready, kind := kind, level := x.fld 53 53 == 1, fmt := fmt, rows := rows,
           cols := cols, lines := List.replicate lines { data := 0, side := 0, fill := false, marked := false }, fills := 0,
           drains := 0, landed := 0, drop := 0, aborted := false, truncated := false, emptyRow := false })).modThread
             i.blk.bid ti (fun u => u.advance x.sw 8)))) ∧
  (∀ (x : FormX) (s : State) (i : Iss), s.iss? = some i → InTurn (.talloc x) (tallocSig x) s i (fun s0 ti t s' =>
     let shape := (readSpec i.warp.w t x.a.toNat).toNat
     let rows := shape % 2 ^ 16
     let cols := shape / 2 ^ 16
     let fmt := x.fld 50 46
     let kind := x.fld 52 51
     let lines := rows * ((cols + eplOf fmt - 1) / eplOf fmt) + (if kind = 2 then (rows + 15) / 16 else 0)
     ((s0.tile i.blk.bid x.d.toNat).st ≠ .free ∧ s' = s0.faultThread i ti .tilestate 1) ∨
     ((s0.tile i.blk.bid x.d.toNat).st = .free ∧ fmtAssigned fmt = true ∧ (kind = 0 ∨ fmt = 0) ∧ 1 ≤ rows ∧ rows ≤ 8192 ∧
       1 ≤ cols ∧ cols ≤ 16384 ∧ (fmtBlock fmt = true → cols % 32 = 0) ∧
       (∃ b, s0.block? i.blk.bid = some b ∧
         (b.tiles.map (fun u => if u.st = .free then 0 else (tileLines u.fmt u.rows u.cols u.kind + 31) / 32)).sum +
           (lines + 31) / 32 ≤ b.grans) ∧
       s' = ((s0.drainOf i.blk.bid ti).modTile i.blk.bid x.d.toNat (fun _ =>
         { st := if kind = 0 then .empty else .ready, kind := kind, level := x.fld 53 53 == 1, fmt := fmt, rows := rows,
           cols := cols, lines := List.replicate lines { data := 0, side := 0, fill := false, marked := false }, fills := 0,
           drains := 0, landed := 0, drop := 0, aborted := false, truncated := false, emptyRow := false })).modThread
             i.blk.bid ti (fun u => u.advance x.sw 8)))) ∧
  (∀ (x : FormX) (s : State) (i : Iss) (ti : Nat) (t : Thread),
     let h := x.d.toNat
     let T := i.blk.tile h
     let acts (ins : Instr) (x' : Sig) (f : Tile → Tile) : Prop :=
       exec ins s = .next ((((s.settleRun x' i).drainOf i.blk.bid ti).modTile i.blk.bid h f).modThread i.blk.bid ti
         (fun u => u.advance x.sw 8))
     (∀ ins ∈ [Instr.tfree x, .tsetEmpty x, .tsetReady x, .tfill x], Alone s (sigOf [] ins) i ti t →
       (T.st = .free → MakesThread ins s i ti (t.fault i.ctx .tilestate 2)) ∧
       (T.st = .engaged → MakesThread ins s i ti (t.fault i.ctx .token 1)) ∧
       (T.st = .filling ∨ T.st = .draining →
         MakesThread ins s i ti { t with park := .retry (.tileNot h [.filling, .draining]) })) ∧
     (T.st = .empty ∨ T.st = .ready →
       (Alone s (tfreeSig x) i ti t →
         (s.copies.any (fun c => c.bid == some i.blk.bid && c.handle == some h) = true →
           MakesThread (.tfree x) s i ti { t with park := .retry (.mcastDone h) }) ∧
         (s.copies.any (fun c => c.bid == some i.blk.bid && c.handle == some h) = false →
           acts (.tfree x) (tfreeSig x) (fun _ => Tile.free))) ∧
       (Alone s (tsetSig x) i ti t →
         acts (.tsetEmpty x) (tsetSig x) (fun _ => if T.st = .empty then T else
           { T with st := .empty, lines := T.lines.map (fun l => { l with fill := false }) }) ∧
         exec (.tsetReady x) s = .next (((((s.settleRun (tsetSig x) i).drainOf i.blk.bid ti).modTile i.blk.bid h (fun _ =>
           if T.st = .ready then T else
           { T with st := .ready, lines := T.lines.map (fun l => { l with fill := true }) })).sampleStreams i.blk.bid).modThread
             i.blk.bid ti (fun u => u.advance x.sw 8))) ∧
       (Alone s (tfillSig x) i ti t →
         ((fmtBlock T.fmt = true ↔ x.c = 0xFF) → MakesThread (.tfill x) s i ti (t.fault i.ctx .illop 4)) ∧
         ((fmtBlock T.fmt = true ↔ x.c ≠ 0xFF) →
           let s0 := s.settleRun (tfillSig x) i
           (t.fenced ≠ none → t.reds ≠ [] → MakesThread (.tfill x) s i ti { t with park := .retry .redsDone }) ∧
           (t.fenced.any (2 ≤ ·) = true → t.reds = [] → s.ackOpen i.blk.bid ti = true → exec (.tfill x) s =
             .next ((s0.drainOf i.blk.bid ti).modThread i.blk.bid ti (fun u => { u with park := .retry (.acked [ti]) }))) ∧
           ((t.fenced ≠ none → t.reds = []) → (t.fenced.any (2 ≤ ·) = true → s.ackOpen i.blk.bid ti = false) →
             let s1 := match t.fenced with
               | some k => (s0.drainOf i.blk.bid ti).release i.blk k
               | none => s0
             exec (.tfill x) s = .next ((((s1.drainOf i.blk.bid ti).modTile i.blk.bid h (fun u =>
               u.fillWith (readSpec i.warp.w t x.a.toNat).toNat
                 (byteOf (readSpec i.warp.w t x.c.toNat) (x.fld 47 46)))).sampleStreams i.blk.bid).modThread i.blk.bid ti
                   (fun u => u.advance x.sw 8)))))) ∧
     (∀ (u : Tile) (v sc r c : Nat), sc < 256 → fmtAssigned u.fmt = true → r < u.rows → c < u.cols →
       u.lines.length = tileLines u.fmt u.rows u.cols u.kind →
       (u.fillWith v sc).code r c = v % 2 ^ fmtWidth u.fmt ∧
       (fmtBlock u.fmt = true → (u.fillWith v sc).scale r c = sc) ∧ (u.fillWith v sc).st = .ready ∧
       (u.kind = 2 → (u.fillWith v sc).m r = u.m r ∧ (u.fillWith v sc).l r = u.l r)))

/-- R172, R173: `tstat` delivers the status word of its tile in any state as a V-class result, and `.clr` then clears its
sticky bits; `twait` goes on in the states of its condition, traps on a FREE tile and on an ENGAGED one that its condition
does not name, and else waits for those states.
Where the manual leaves a point open, the model's choice holds: log entry 20. -/
def Obligations.TilesAreReportedAndAwaited : Prop :=
  ∀ (x : FormX) (s : State) (i : Iss) (ti : Nat) (t : Thread),
    let h := x.a.toNat
    let T := i.blk.tile h
    (Alone s (tstatSig x) i ti t →
      let xs := wrs x.d.toNat (words2 T.status)
      let s0 := s.settleRun (tstatSig x) i
      let s1 := if x.fld 46 46 = 1 then s0.modTile i.blk.bid h (fun u =>
        { u with drop := 0, aborted := false, truncated := false, emptyRow := false }) else s0
      exec (.tstat x) s = .next (s1.modThread i.blk.bid ti (fun u =>
        (u.addResult .ready (xs.map RegWrite.dest) xs).advance x.sw 8))) ∧
    (∀ u : Tile, u.landed < 2 ^ 32 → u.fills < 2 ^ 8 → u.fmt < 2 ^ 5 → u.kind < 4 →
      let w := u.status.toNat
      w / 2 ^ 32 = u.landed ∧ w / 2 ^ 24 % 2 ^ 8 = u.fills ∧ w / 2 ^ 16 % 2 ^ 8 = u.drop.toNat ∧ w / 2 ^ 14 % 4 = 0 ∧
      w.testBit 13 = u.aborted ∧ w.testBit 12 = u.truncated ∧ w.testBit 11 = u.emptyRow ∧ w / 2 ^ 6 % 2 ^ 5 = u.fmt ∧
      w.testBit 5 = u.level ∧ w / 8 % 4 = u.kind ∧ w % 8 = (match u.st with
        | .free => 0 | .empty => 1 | .filling => 2 | .ready => 3 | .draining => 4 | .engaged => 5)) ∧
    (Alone s (twaitSig x) i ti t →
      let yes : List TileState := match x.fld 47 46 with
        | 0 => [.ready]
        | 1 => [.ready, .draining, .engaged]
        | _ => [.empty, .ready, .engaged]
      (T.st ∈ yes → MakesThread (.twait x) s i ti (t.advance x.sw 8)) ∧
      (T.st = .free → MakesThread (.twait x) s i ti (t.fault i.ctx .tilestate 2)) ∧
      (T.st = .engaged → x.fld 47 46 = 0 → MakesThread (.twait x) s i ti (t.fault i.ctx .token 1)) ∧
      (T.st ∉ yes → T.st ≠ .free → T.st ≠ .engaged → ∃ park, (∀ st, st ∈ park ↔ st ∉ yes ∧ st ≠ .free ∧ st ≠ .engaged) ∧
        MakesThread (.twait x) s i ti { t with park := .retry (.tileNot h park) }))

/-- R153, R174, R175, R207, R208: `tld` of a READY or DRAINING tile delivers its elements as a V-class result; its stream form,
which a FILLING one permits as well, delivers when each of their lines has been filled, by whatever fills them. `tst` writes elements and the scale of its block after the warp's earlier stores; `tatom` and
`tred` read, change and write one element. An element written reads back, and the others read as before.
R175, R204: the threads of a run write, and perform their atomics, one after another, in ascending position; a block takes its scale
from the lowest of them that writes to it.
After a fence that releases, `tst`, `tatom` and `tred` are releases at the fence's scope: they wait for the thread's `red`s to
windows and, at package scope and wider, for the acknowledgements of its writes to other packages (R211, R214, R252, R266).
Where the manual leaves a point open, the model's choice holds: log entries 12, 17, 21, 66, 73 and 78. -/
def Obligations.TileElementsAreReadAndWritten : Prop :=
  let lines (T : Tile) (ml : Bool) (row col n : Nat) : List Nat :=
    if ml then [T.mlLine row] else ((List.range n).map (fun j => T.lineIx row (col + j))).eraseDups
  let values (T : Tile) (ml : Bool) (row col n d c byte : Nat) : List RegWrite :=
    if ml then wrs d [T.m row, T.l row]
    else wrs d (packCodes (fmtWidth T.fmt) (groupRegs n (fmtWidth T.fmt)) ((List.range n).map (fun j => T.code row (col + j)))) ++
      (if fmtBlock T.fmt then wrKByte (c - 0xC0) byte (T.scale row col) else [])
  (∀ (x : FormX) (s : State) (i : Iss) (ti : Nat) (t : Thread),
    let at_ := (readSpec i.warp.w t x.b.toNat).toNat
    let row := at_ % 2 ^ 16
    let col := at_ / 2 ^ 16 % 2 ^ 16
    let n := 2 ^ x.fld 48 46
    let ml : Bool := x.fld 51 51 == 1
    let byte := x.fld 50 49
    let released : Prop := (t.fenced ≠ none → t.reds = []) ∧ (t.fenced.any (2 ≤ ·) = true → s.ackOpen i.blk.bid ti = false)
    let before (sig : Sig) : State := match t.fenced with
      | some k => ((s.settleRun sig i).drainOf i.blk.bid ti).release i.blk k
      | none => s.settleRun sig i
    (Alone s (tldSig x) i ti t →
      let T := i.blk.tile x.a.toNat
      let ls := lines T ml row col n
      let xs := values T ml row col n x.d.toNat x.c.toNat byte
      let fate : Fate := groupFate i.blk t x.d.toNat (if ml then 2 else groupRegs n (fmtWidth T.fmt)) true
      (T.st = .free → MakesThread (.tld x) s i ti (t.fault i.ctx .tilestate 2)) ∧
      (fate = .go → T.st = .engaged → MakesThread (.tld x) s i ti (t.fault i.ctx .token 1)) ∧
      (fate = .go → x.fld 52 52 = 0 → T.st = .empty ∨ T.st = .filling →
        MakesThread (.tld x) s i ti { t with park := .retry (.tileNot x.a.toNat [.empty, .filling]) }) ∧
      (fate = .go → x.fld 52 52 = 1 → T.st = .empty →
        MakesThread (.tld x) s i ti { t with park := .retry (.tileNot x.a.toNat [.empty]) }) ∧
      (fate = .go → (T.st = .ready ∨ T.st = .draining ∨ (T.st = .filling ∧ x.fld 52 52 = 1)) →
        (∀ f, tileAccessFate T ml n row col x.d.toNat x.c.toNat = some f →
          MakesThread (.tld x) s i ti (t.fault i.ctx f.code f.sub)) ∧
        (tileAccessFate T ml n row col x.d.toNat x.c.toNat = none → (∀ l ∈ ls, (T.line l).marked = false) →
          (x.fld 52 52 = 0 ∨ (∀ l ∈ ls, (T.line l).fill = true) →
            MakesThread (.tld x) s i ti ((t.addResult .ready (xs.map RegWrite.dest) xs).advance x.sw 8)) ∧
          (x.fld 52 52 = 1 → (∃ l ∈ ls, (T.line l).fill = false) →
            MakesThread (.tld x) s i ti ((t.addResult (.stream x.a.toNat row col n x.d.toNat
              (if fmtBlock T.fmt && !ml then some (x.c.toNat - 0xC0) else none) (if ml then none else some byte))
                (xs.map RegWrite.dest) []).advance x.sw 8))))) ∧
    (Alone s (tstSig x) i ti t →
      let T := i.blk.tile x.d.toNat
      let r := readSpec i.warp.w t
      groupFate i.blk t x.a.toNat (if ml then 2 else groupRegs n (fmtWidth T.fmt)) false = .go →
      T.st = .empty ∨ T.st = .ready →
      tileAccessFate T ml n row col x.a.toNat x.c.toNat = none →
      (t.fenced ≠ none → t.reds ≠ [] → MakesThread (.tst x) s i ti { t with park := .retry .redsDone }) ∧
      (t.fenced.any (2 ≤ ·) = true → t.reds = [] → s.ackOpen i.blk.bid ti = true → exec (.tst x) s =
        .next (((s.settleRun (tstSig x) i).drainOf i.blk.bid ti).modThread i.blk.bid ti (fun u =>
          { u with park := .retry (.acked [ti]) }))) ∧
      (released → exec (.tst x) s = .next (((((before (tstSig x)).drainOf i.blk.bid ti).modTile i.blk.bid x.d.toNat (fun u =>
        if ml then (u.setMl row (r x.a.toNat) (r (if x.a = 0xFF then 0xFF else x.a.toNat + 1))).modLine (u.mlLine row)
          (fun l => { l with fill := true })
        else
          let codes := unpackCodes (fmtWidth u.fmt) n
            ((t.rd i.warp.w).regs x.a.toNat (groupRegs n (fmtWidth u.fmt)))
          let u1 := codes.zipIdx.foldl (fun u (c, j) => (u.setCode row (col + j) c).setFill row (col + j)) u
          if fmtBlock T.fmt then u1.setScale row col (byteOf (r x.c.toNat) byte) else u1)).sampleStreams i.blk.bid).modThread
            i.blk.bid ti (fun u => u.advance x.sw 8)))) ∧
    (let T := i.blk.tile x.a.toNat
     let old : Word := BitVec.ofNat 32 (T.code row col)
     let op := x.fld 56 53
     let new := atomOp32 op old (readSpec i.warp.w t x.c.toNat)
     let known : Prop := T.st = .ready ∧ ((T.fmt = 0x0B ∧ op ≤ 8) ∨ (T.fmt = 0 ∧ 8 ≤ op)) ∧ row < T.rows ∧ col < T.cols ∧
       (T.line (T.lineIx row col)).marked = false
     let after (sig : Sig) : State := ((before sig).drainOf i.blk.bid ti).modTile i.blk.bid x.a.toNat
       (fun u => u.setCode row col new.toNat)
     (∀ ins ∈ [Instr.tatom x, .tred x], Alone s (sigOf [] ins) i ti t → known → t.fenced ≠ none → t.reds ≠ [] →
       MakesThread ins s i ti { t with park := .retry .redsDone }) ∧
     (Alone s (tatomSig x) i ti t → known → released → exec (.tatom x) s = .next ((after (tatomSig x)).modThread i.blk.bid ti (fun u =>
       (u.addResult .ready ((wr x.d.toNat old).map RegWrite.dest) (wr x.d.toNat old)).advance x.sw 8))) ∧
     (Alone s (tredSig x) i ti t → known → released → exec (.tred x) s =
       .next ((after (tredSig x)).modThread i.blk.bid ti (fun u => u.advance x.sw 8))))) ∧
  (∀ (b : Block) (k : Nat) (t : Thread) (r : Result) (h row col n d : Nat) (kn kb : Option Nat), b.threads[k]? = some t →
    t.results = [r] → r.kind = .stream h row col n d kn kb →
    let T := b.tile h
    let ls := lines T (kb == none) row col n
    ((∀ l ∈ ls, (T.line l).fill = true) → b.sampleStreams.threads[k]? = some { t with results := [
      { r with kind := .ready, writes := values T (kb == none) row col n d (0xC0 + kn.getD 0) (kb.getD 0) }] }) ∧
    ((∃ l ∈ ls, (T.line l).fill = false) → b.sampleStreams.threads[k]? = some t)) ∧
  (∀ (s : State) (bid : Nat), s.sampleStreams bid = s.modBlock bid Block.sampleStreams) ∧
  (∀ (x : FormX) (s : State) (i : Iss), s.iss? = some i →
    let n := 2 ^ x.fld 48 46
    let ml : Bool := x.fld 51 51 == 1
    let row (u : Thread) : Nat := (readSpec i.warp.w u x.b.toNat).toNat % 2 ^ 16
    let col (u : Thread) : Nat := (readSpec i.warp.w u x.b.toNat).toNat / 2 ^ 16
    let ps := parts (tstSig x) s.tick i
    let group (T : Tile) : Nat := if ml then 2 else groupRegs n (fmtWidth T.fmt)
    (∀ t ∈ ps, t.fenced = none) → InTurn (.tst x) (tstSig x) s i (fun s0 ti t s' =>
      let T := s0.tile i.blk.bid x.d.toNat
      let r := readSpec i.warp.w t
      (T.st = .empty ∨ T.st = .ready) ∧ t.fenced = none ∧ (∀ b, s0.block? i.blk.bid = some b → groupFate b t x.a.toNat (group T) false = .go) ∧
      (∀ u ∈ ps, tileAccessFate T ml n (row u) (col u) x.a.toNat x.c.toNat = none ∧
        groupFate i.blk u x.a.toNat (group T) false = .go) ∧ tileAccessFate T ml n (row t) (col t) x.a.toNat x.c.toNat = none ∧
      let first := ps.all (fun u => t.slot ≤ u.slot || row u != row t || col u / 32 != col t / 32)
      let s1 := (s0.drainOf i.blk.bid ti).modTile i.blk.bid x.d.toNat (fun u =>
        if ml then (u.setMl (row t) (r x.a.toNat) (r (if x.a = 0xFF then 0xFF else x.a.toNat + 1))).modLine (u.mlLine (row t))
          (fun l => { l with fill := true })
        else
          let codes := unpackCodes (fmtWidth u.fmt) n ((t.rd i.warp.w).regs x.a.toNat (groupRegs n (fmtWidth u.fmt)))
          let u1 := codes.zipIdx.foldl (fun u (c, j) => (u.setCode (row t) (col t + j) c).setFill (row t) (col t + j)) u
          if fmtBlock T.fmt && first then u1.setScale (row t) (col t) (byteOf (r x.c.toNat) (x.fld 50 49)) else u1)
      s' = (if ps.any (fun u => t.slot < u.slot) then s1 else s1.sampleStreams i.blk.bid).modThread i.blk.bid ti
        (fun u => u.advance x.sw 8))) ∧
  (∀ (x : FormX) (s : State) (i : Iss), s.iss? = some i →
    let step (sig : Sig) (ret : Bool) : Prop := (∀ t ∈ parts sig s.tick i, t.fenced = none) →
      InTurn (if ret then .tatom x else .tred x) sig s i (fun s0 ti t s' =>
        let T := s0.tile i.blk.bid x.a.toNat
        let row := (readSpec i.warp.w t x.b.toNat).toNat % 2 ^ 16
        let col := (readSpec i.warp.w t x.b.toNat).toNat / 2 ^ 16
        let old : Word := BitVec.ofNat 32 (T.code row col)
        let op := x.fld 56 53
        T.st = .ready ∧ t.fenced = none ∧ ((T.fmt = 0x0B ∧ op ≤ 8) ∨ (T.fmt = 0 ∧ 8 ≤ op)) ∧ row < T.rows ∧ col < T.cols ∧
          (T.line (T.lineIx row col)).marked = false ∧
          s' = ((s0.drainOf i.blk.bid ti).modTile i.blk.bid x.a.toNat (fun u =>
            u.setCode row col (atomOp32 op old (readSpec i.warp.w t x.c.toNat)).toNat)).modThread i.blk.bid ti (fun u =>
              (if ret then u.addResult .ready ((wr x.d.toNat old).map RegWrite.dest) (wr x.d.toNat old) else u).advance x.sw 8))
    step (tatomSig x) true ∧ step (tredSig x) false) ∧
    (∀ (u : Tile) (r c v : Nat), fmtAssigned u.fmt = true → c < u.cols → u.lineIx r c < u.lines.length →
      (u.setCode r c v).code r c = v % 2 ^ fmtWidth u.fmt ∧
      ∀ r' c', (r', c') ≠ (r, c) → c' < u.cols → (u.setCode r c v).code r' c' = u.code r' c')

/-! ### Copies -/

/-- R156 to R158: a layout record that a copy accepts has an assigned format, a rank of 1 to 7, extents, windows and
sampling intervals that are not zero, and base and strides aligned as its format asks; a reserved format traps FORMAT 1, and
a rank of 0 or above 7 LAYOUT 1. An element of a plain format lies at the base plus its coordinates times the strides; one of a
block format in the block of its 32 along dimension 0, whose scale stands in the sidecar byte of the block's place in its line.
R153, R162, R178: the checks of a `cpyin` come in order: the tile's state, the mask, the layout record, the bounds
and the formats; one that passes them all moves the record's window from the tensor to the tile, and with a mask to its own
tile only where its own bit is set, and to the same handle at each other bay position named; a position without a block gets a
destination that no block has.
Where the manual leaves a point open, the model's choice holds: log entries 11 and 12. -/
def Obligations.CopyRecordsAndChecksComeInOrder : Prop :=
  ((∀ r : List Byte, fmtAssigned (field r 8 1 % 32) = false → parseLayout r = .inl ⟨.format, 1⟩) ∧
   (∀ r : List Byte, fmtAssigned (field r 8 1 % 32) = true → field r 9 1 = 0 ∨ 7 < field r 9 1 →
     parseLayout r = .inl ⟨.layout, 1⟩) ∧
   (∀ (r : List Byte) (l : Layout), parseLayout r = .inr l →
     fmtAssigned l.fmt = true ∧ l.fmt = field r 8 1 ∧ 1 ≤ field r 9 1 ∧ field r 9 1 ≤ 7 ∧ l.base.toNat = field r 0 8 ∧
     l.base.toNat < 2 ^ 53 ∧ l.ext.length = field r 9 1 ∧ l.win.length = field r 9 1 ∧
     (∀ e ∈ l.ext, 0 < e) ∧ (∀ e ∈ l.win, 0 < e) ∧ (∀ e ∈ l.samp, 0 < e) ∧
     l.base.toNat % layoutAlign l.fmt = 0 ∧ (∀ d ∈ l.stride, d % (layoutAlign l.fmt : Int) = 0) ∧ l.stride.headD 0 = 0 ∧
     (∀ k < field r 9 1, l.ext[k]? = some (field r (16 + 16 * k) 4) ∧ l.win[k]? = some (field r (27 + 16 * k) 2))) ∧
   (∀ (l : Layout) (c0 c1 : Nat) (d1 : Int), fmtBlock l.fmt = false → l.stride = [0, d1] →
     ((l.elem [c0, c1]).va : Int) =
       (((l.base.toNat : Int) + c1 * d1) % 2 ^ 64 + (fmtWidth l.fmt * c0 / 8 : Nat)) % 2 ^ 64 ∧
     (l.elem [c0, c1]).bit = fmtWidth l.fmt * c0 % 8) ∧
   (∀ (l : Layout) (c0 c1 : Nat) (d1 : Int), fmtBlock l.fmt = true → l.stride = [0, d1] →
     let w := fmtWidth l.fmt
     let e := l.elem [c0, c1]
     (e.blk : Int) = (((l.base.toNat : Int) + c1 * d1) % 2 ^ 64 +
       (if w = 6 then c0 / 160 * 128 + c0 / 32 % 5 * 24 else c0 / 32 * (4 * w) : Nat)) % 2 ^ 64 ∧
     e.va = (e.blk + w * (c0 % 32) / 8) % 2 ^ 64 ∧ e.bit = w * (c0 % 32) % 8 ∧
     e.side = (if w = 6 then c0 / 32 % 5 else e.blk % 128 / (4 * w)))) ∧
  (∀ (x : FormX) (s : State) (i : Iss) (r : Rd),
     let h := x.d.toNat
     let T := s.tile i.blk.bid h
     let m := (r.r x.c.toNat).toNat
     let own : Bool := x.c = 0xFF || m.testBit i.blk.pos
     let ready : Prop := T.st = .empty ∨ T.st = .ready ∨ T.st = .filling ∨ (T.st = .draining ∧ own = false)
     let named : Prop := ∀ k < 8, m.testBit k = true → i.blk.bmask.testBit k = true
     let masked : Prop := x.c = 0xFF ∨ (m < 256 ∧ m ≠ 0 ∧ named)
     (T.st = .free → planCpyin x s i r = (s, .trap ⟨.tilestate, 2⟩ 0)) ∧
     (T.st = .engaged → planCpyin x s i r = (s, .trap ⟨.token, 1⟩ 0)) ∧
     (T.st = .draining → own = true → planCpyin x s i r = (s, .wait (.tileNot h [.draining]))) ∧
     (ready → x.c ≠ 0xFF → 256 ≤ m → planCpyin x s i r = (s, .trap ⟨.mcmask, 3⟩ 0)) ∧
     (ready → x.c ≠ 0xFF → m = 0 → planCpyin x s i r = (s, .trap ⟨.mcmask, 2⟩ 0)) ∧
     (ready → x.c ≠ 0xFF → m ≠ 0 → m < 256 → ¬ named → planCpyin x s i r = (s, .trap ⟨.mcmask, 1⟩ 0)) ∧
     (∀ s1 f, ready → masked → s.readLayout i (r.pair x.a.toNat) = (s1, .inl f) →
       planCpyin x s i r = (s1, .trap f.f f.va)) ∧
     (∀ s1 l, ready → masked → s.readLayout i (r.pair x.a.toNat) = (s1, .inr l) →
       let T1 := s1.tile i.blk.bid h
       let o := (r.regs x.b.toNat 8).map (fun w => w.toNat)
       let row0 := o.getD 7 0 % 2 ^ 16
       let col0 := o.getD 7 0 / 2 ^ 16 % 2 ^ 16
       let aligned : Bool := dim0Ok l (o.getD 0 0) col0 (fmtBlock l.fmt || fmtBlock T1.fmt) (xfOf x == .rhad)
       let inside : Prop := row0 + l.win.tail.foldl (· * ·) 1 ≤ T1.rows ∧ col0 + l.win.headD 0 ≤ T1.cols
       (aligned = false → planCpyin x s i r = (s1, .trap ⟨.layout, 4⟩ 0)) ∧
       (aligned = true → ¬ inside → planCpyin x s i r = (s1, .trap ⟨.tilebound, 2⟩ 0)) ∧
       (aligned = true → inside → xfOf x = .raw → l.fmt ≠ T1.fmt → planCpyin x s i r = (s1, .trap ⟨.format, 3⟩ 0)) ∧
       (aligned = true → inside → (xfOf x = .raw → l.fmt = T1.fmt) →
         (xfOf x ≠ .raw → slotOk (i.blk.slots.getD (x.fld 48 46) 0) = true ∧
           fmtAssigned (slotFmt (i.blk.slots.getD (x.fld 48 46) 0)) = true) →
         planCpyin x s i r = (s1, .go (.tensor l (o.take 7)) l.win
           ((if own then [{ place := .tile i.blk.bid h row0 col0, pos := none, st := .accepted, todo := [], turned := false,
                            elems := 0, later := [] }] else []) ++
             (if x.c = 0xFF then [] else (List.range 8).filterMap (fun k =>
               if k ≠ i.blk.pos ∧ m.testBit k = true then
                 some { place := .tile (((s1.blocks.find? (fun b => b.cid == i.blk.cid && b.pos == k)).map
                          (fun b => b.bid)).getD s1.nextId) h row0 col0,
                        pos := some k, st := .coming, todo := [], turned := false, elems := 0, later := [] }
               else none)))
           (if x.c = 0xFF then none else some h)))))

/-- R162, R178 to R182: a copy instruction is planned after its warp's earlier stores. One whose checks fail traps, or
waits; where the engine holds 64 copies, or an own destination's fill count stands at 255, it waits too. One that passes takes
its counter's next number and starts: the engine holds one copy more, its source drains, its own destination fills, and the
thread goes on.
R179 to R182: a `cpyout` whose checks pass moves the record's window from the tile at its coordinates to the tensor at its own;
a `cpytt` a box of one tile to another, with a mask to the bay positions named; a `cpygg` the common window of two tensors; a
`stash` a whole tile to a tensor, and turned to a second one. The `red`s of the thread to windows are waited for first (R266).
Where the manual leaves a point open, the model's choice holds: log entries 11, 17, 66 and 71. -/
def Obligations.CopiesAreStarted : Prop :=
  (∀ (x : FormX) (s : State) (i : Iss) (ti : Nat) (t : Thread),
    let starts (ins : Instr) (sig : Sig) (plan : State → Iss → Rd → State × CopyPlan) : Prop :=
      (Alone s sig i ti t → t.reds ≠ [] → MakesThread ins s i ti { t with park := .retry .redsDone }) ∧
      (Alone s sig i ti t → t.reds = [] →
        ∀ s1 p, plan ((s.settleRun sig i).drainOf i.blk.bid ti) i (t.rd i.warp.w) = (s1, p) →
        let waits (c : Cond) : Prop :=
          exec ins s = .next (s1.modThread i.blk.bid ti (fun u => { u with park := .retry c }))
        let held := (s1.copies.filter (fun c => c.owner == .thread && c.die == i.blk.die && c.core == i.blk.core)).length
        let full (ds : List Dst) : Prop :=
          ∃ d ∈ ds, d.pos = none ∧ ∃ bid h r c, d.place = .tile bid h r c ∧ 255 ≤ (s1.tile bid h).fills
        (∀ f a, p = .trap f a → exec ins s = .next (s1.memFault i ti f a)) ∧
        (∀ c, p = .wait c → waits c) ∧
        (∀ src box ds hd, p = .go src box ds hd → 64 ≤ held → waits .copyRoom) ∧
        (∀ src box ds hd, p = .go src box ds hd → held < 64 → full ds → waits (.fillRoom x.d.toNat)) ∧
        (∀ src box ds hd, p = .go src box ds hd → held < 64 → ¬ full ds →
          let ctr := FormX.ctr x
          let s2 := s1.modCtr i.ctx.num i.blk.die (some i.blk.bid) ctr (fun y => { y with i := y.i + 1 })
          exec ins s = .next ((({ s2 with nextId := s2.nextId + 1 } : State).startCopy
            { cid := s2.nextId, clus := i.blk.cid, handle := hd, die := i.blk.die, bay := i.blk.bay, core := i.blk.core,
              bid := some i.blk.bid, lid := some i.blk.lid, ctx := i.ctx.num, owner := .thread, key := i.blk.seed,
              slot := i.blk.slots.getD (x.fld 48 46) 0, xf := xfOf x, src := src, box := box, dsts := ds,
              ctr := some ctr, num := (s1.ctr i.ctx.num i.blk.die (some i.blk.bid) ctr).i + 1, stalled := false,
              abandoned := false, short := false }).modThread i.blk.bid ti (fun u => u.advance x.sw 8))))
    starts (.cpyin x) (cpyinSig x) (planCpyin x) ∧ starts (.cpyout x) (cpyoutSig x) (planCpyout x) ∧
    starts (.cpytt x) (cpyttSig x) (planCpytt x) ∧ starts (.cpygg x) (cpyggSig x) (planCpygg x) ∧
    starts (.stash x) (stashSig x) (planStash x)) ∧
  (∀ (s : State) (c : Copy),
    (s.startCopy c).copies.map (fun y => y.cid) = s.copies.map (fun y => y.cid) ++ [c.cid] ∧
    (s.startCopy c).mem = s.mem ∧ (s.startCopy c).ctxs = s.ctxs ∧
    (∀ b bid h r0 c0 lay o, s.block? bid = some b → h < b.tiles.length → c.src = .tile bid h r0 c0 →
      (∀ d ∈ c.dsts, d.place = .tensor lay o) →
      (s.startCopy c).tile bid h = { s.tile bid h with drains := (s.tile bid h).drains + 1, st := .draining }) ∧
    (∀ b bid h r0 c0 d lay o, s.block? bid = some b → h < b.tiles.length → c.src = .tensor lay o → c.dsts = [d] →
      d.place = .tile bid h r0 c0 → d.st = .accepted →
      ((s.startCopy c).tile bid h).st = .filling ∧ ((s.startCopy c).tile bid h).fills = (s.tile bid h).fills + 1)) ∧
  (∀ (x : FormX) (s s1 s2 : State) (i : Iss) (r : Rd) (ra rb : List Byte) (la lb : Layout),
    let slot := i.blk.slots.getD (x.fld 48 46) 0
    let formats (f g : Nat) : Prop :=
      if xfOf x = .raw then f = g else slotOk slot = true ∧ fmtAssigned (slotFmt slot) = true
    let half (w k : Nat) : Nat := w / 2 ^ (16 * k) % 2 ^ 16
    let dest (p : Place) (turned : Bool) : Dst :=
      { place := p, pos := none, st := .accepted, todo := [], turned := turned, elems := 0, later := [] }
    let h := x.d.toNat
    let T := s2.tile i.blk.bid h
    let ready (u : Tile) : Prop := u.st = .ready ∨ u.st = .draining
    let regs (d n : Nat) : List Nat := (r.regs d n).map (fun w => w.toNat)
    let o := regs x.b.toNat 8
    let row0 := half (o.getD 7 0) 0
    let col0 := half (o.getD 7 0) 1
    (ready (s.tile i.blk.bid h) → s.readRecord i (r.pair x.a.toNat) 128 128 = (s2, .inr ra) → parseLayout ra = .inr la →
      dim0Ok la (o.getD 0 0) col0 (fmtBlock la.fmt || fmtBlock T.fmt) (xfOf x == .rhad) = true →
      row0 + la.win.tail.foldl (· * ·) 1 ≤ T.rows → col0 + la.win.headD 0 ≤ T.cols → formats T.fmt la.fmt →
      planCpyout x s i r = (s2, .go (.tile i.blk.bid h row0 col0) la.win [dest (.tensor la (o.take 7)) false] none)) ∧
    (let q := regs x.b.toNat 4
     let rows := half (q.getD 2 0) 0
     let cols := half (q.getD 2 0) 1
     let m := (r.r x.c.toNat).toNat
     let own : Bool := x.c = 0xFF || m.testBit i.blk.pos
     let S := s.tile i.blk.bid x.a.toNat
     let D := s.tile i.blk.bid h
     let inside (u : Tile) (w : Nat) : Prop := half w 0 + rows ≤ u.rows ∧ half w 1 + cols ≤ u.cols
     let even : Prop := half (q.getD 0 0) 1 % 32 = 0 ∧ half (q.getD 1 0) 1 % 32 = 0 ∧ cols % 32 = 0
     let block : Prop := fmtBlock S.fmt = true ∨ fmtBlock D.fmt = true
     (own = true → h ≠ x.a.toNat) → ready S → D.st = .empty ∨ D.st = .ready ∨ D.st = .filling ∨ (D.st = .draining ∧ own = false) →
     x.c = 0xFF ∨ (m < 256 ∧ m ≠ 0 ∧ ∀ k < 8, m.testBit k = true → i.blk.bmask.testBit k = true) → rows ≠ 0 → cols ≠ 0 →
     inside S (q.getD 0 0) → inside D (q.getD 1 0) →
     (block → ¬ even → planCpytt x s i r = (s, .trap ⟨.tilebound, 3⟩ 0)) ∧
     ((block → even) → formats S.fmt D.fmt → planCpytt x s i r = (s, .go (.tile i.blk.bid x.a.toNat (half (q.getD 0 0) 0) (half (q.getD 0 0) 1)) [cols, rows]
       ((if own then [dest (.tile i.blk.bid h (half (q.getD 1 0) 0) (half (q.getD 1 0) 1)) false] else []) ++
         (if x.c = 0xFF then [] else (List.range 8).filterMap (fun k =>
           if k ≠ i.blk.pos ∧ m.testBit k = true then
             some { dest (.tile (((s.blocks.find? (fun b => b.cid == i.blk.cid && b.pos == k)).map (fun b => b.bid)).getD
                      s.nextId) h (half (q.getD 1 0) 0) (half (q.getD 1 0) 1)) false with pos := some k, st := .coming }
           else none)))
       (if x.c = 0xFF then none else some h)))) ∧
    (s.readRecord i (r.pair x.a.toNat) 128 128 = (s1, .inr ra) → s1.readRecord i (r.pair x.d.toNat) 128 128 = (s2, .inr rb) →
      parseLayout ra = .inr la → parseLayout rb = .inr lb →
      (la.win ≠ lb.win → planCpygg x s i r = (s2, .trap ⟨.layout, 5⟩ 0)) ∧
      (la.win = lb.win → (∀ y ∈ [(la, (r.r x.b.toNat).toNat), (lb, (r.r x.c.toNat).toNat)],
          dim0Ok y.1 y.2 0 (fmtBlock la.fmt || fmtBlock lb.fmt) (xfOf x == .rhad) = true) → formats la.fmt lb.fmt →
        planCpygg x s i r =
          (s2, .go (.tensor la (regs x.b.toNat 7)) la.win [dest (.tensor lb (regs x.c.toNat 7)) false] none))) ∧
    (ready (s.tile i.blk.bid h) → s.readRecord i (r.pair x.a.toNat) 128 128 = (s1, .inr ra) →
      s1.readRecord i (r.pair x.a.toNat + 128) 128 128 = (s2, .inr rb) → parseLayout ra = .inr la → parseLayout rb = .inr lb →
      let ri := (r.r x.b.toNat).toNat
      let ci := (r.r (x.b.toNat + 1)).toNat
      let blk := fmtBlock T.fmt || fmtBlock la.fmt || fmtBlock lb.fmt
      la.win = [T.cols, T.rows] → lb.win = [T.rows, T.cols] → la.samp = [1, 1] → lb.samp = [1, 1] →
      dim0Ok la ci 0 blk false = true → dim0Ok lb ri 0 blk false = true → formats T.fmt la.fmt → formats T.fmt lb.fmt →
      (xfOf x = .raw → blk = false) →
      planStash x s i r = (s2, .go (.tile i.blk.bid h 0 0) la.win
        [dest (.tensor la [ci, ri]) false, dest (.tensor lb [ri, ci]) true] none)))

/-- R152, R158, R160, R163, R166, R167: a line of a copy lands only at an accepted destination of a copy that neither stalls nor
is abandoned, and only the first of those of its destination that have still to land, whatever it moves: `cpyin`, `cpyout`, `cpytt`, `cpygg`, `stash` (R178 to R182), a message that lands in a tile or a
tensor (R281), a work entry's copy. A marked source line, or a line that cannot be reached, stalls the copy with a report.
In memory the line writes the codes of its elements at their addresses (R158), the sidecar bytes of their blocks, and zeros in the
unused bytes of a block format's lines (R123); every other byte and sidecar byte reads as before. In a tile it moves the codes and
scales of its elements, counts its bytes, and fills its line; the maximum and the sum of a ridge row travel with it (R180).
R161: a raw line moves the codes and scales that it reads; a converting one rounds the values of its elements under the slot, in a
block format under the scale of the scale rule for each 32 of them; a rotating one rounds the rotation of each 64 of them.
R270, R281: a whole line of a message replaces a line of its tile, and a work entry's line a line of memory with its sidecar.
An arriving multicast is accepted, what its tile has filled by then read by the streams that wait for it, held while its tile drains, or dropped. A copy that is done, its writes to other packages
acknowledged (R252), finishes its tiles and then its counter.
Where the manual leaves a point open, the model's choice holds: log entries 18, 19, 62 and 74. -/
def Obligations.CopiesLandAndComplete : Prop :=
  (∀ (s : State) (cid di unit : Nat) (c : Copy) (d : Dst) (x : Context) (u : Nat × Nat), s.copy? cid = some c →
    c.dsts[di]? = some d → s.ctx? c.ctx = some x → d.todo[unit]? = some u →
    let enabled : Prop := unit = 0 ∧ d.st = .accepted ∧ c.stalled = false ∧ c.abandoned = false
    let step : Host.Outcome State Fault Refusal := exec (.lineLanded cid di unit) s
    let moved (y : State) (v : Nat × Nat) (n : Nat) : State := y.modCopy cid (fun z =>
      { z with dsts := modAt z.dsts di (fun e => { e with todo := e.todo.filter (· != v), elems := e.elems + n }) })
    let shape := (d.place.tile? s).getD Tile.free
    let fmt := d.place.fmt s
    let w := fmtWidth fmt
    let es := (c.rowElems d u.1).filter (fun e => d.place.lineKey shape e.2.2 == u.2)
    let reads := if c.xf = .rhad then (c.rowElems d u.1).filter (fun e => es.any (fun y => y.1 / 64 == e.1 / 64)) else es
    let sources : List Nat := match c.src with
      | .tensor l _ => l.linesOf (reads.map (fun e => e.2.1))
      | _ => []
    let targeted : List Nat := match d.place with
      | .tensor l _ => l.linesOf (es.map (fun e => e.2.2))
      | _ => []
    (¬ enabled → step = .next s) ∧
    (enabled → c.markedSource s d u = true → step = .next (s.stallMarked c)) ∧
    (enabled → c.markedSource s d u = false → c.xf ≠ .lines →
      (∀ s1 f, s.mapLines x c.site accCopyIn sources = (s1, .inl f) → step = .next (s1.stallCopy c f)) ∧
      (∀ s1 lm, s.mapLines x c.site accCopyIn sources = (s1, .inr lm) →
        (∀ s2 f, s1.mapLines x c.site accCopyOut targeted = (s2, .inl f) → step = .next (s2.stallCopy c f)) ∧
        (∀ s2 dm, s1.mapLines x c.site accCopyOut targeted = (s2, .inr dm) →
          let codes := c.codes s2 d shape lm u.1 fmt es
          (∀ lay o, d.place = .tensor lay o → s2.memOk → s2.churn = [] →
            let lines := targeted.map (fun k => lineOf (dm.pa (128 * k)))
            let cells := (es.zip codes).flatMap (fun y => (lay.elem y.1.2.2).cells dm w y.2.1) ++
              (if fmtBlock fmt = true then lines.flatMap (padCells fmt) else [])
            let sides : List (Nat × Byte) := if fmtBlock fmt = true then
                ((es.zip codes).map (fun y => (lineOf (dm.pa (lay.elem y.1.2.2).blk) * 8 + (lay.elem y.1.2.2).side,
                  BitVec.ofNat 8 y.2.2))).eraseDups ++ lines.flatMap (padSides fmt)
              else []
            (∀ k ∈ cells, bitsAt k.addr 53 1 = 0) → (∀ y ∈ sides, bitsAt (y.1 / 8 * 128) 53 1 = 0) →
            ∃ s', step = .next s' ∧ s'.blocks = s2.blocks ∧ s'.copies = (moved s2 u es.length).copies ∧
              (∀ a, s'.mem.byte a = cells.foldl (fun v k =>
                if k.addr = a then (v &&& ~~~k.mask) ||| (k.val &&& k.mask) else v) (s2.mem.byte a)) ∧
              (∀ line b, b < 8 → s'.mem.side line b = sides.foldl (fun v y => if y.1 = line * 8 + b then y.2 else v)
                (s2.mem.side line b)) ∧
              (∀ a, (∀ k ∈ cells, k.addr ≠ a) → s'.mem.byte a = s2.mem.byte a) ∧
              (∀ line b, b < 8 → (∀ y ∈ sides, y.1 ≠ line * 8 + b) → s'.mem.side line b = s2.mem.side line b)) ∧
          (∀ bid h row0 col0, d.place = .tile bid h row0 col0 →
            let ps := es.map (fun e => (e.2.2.getD 0 0, e.2.2.getD 1 0))
            let lands (f : Tile → Tile) : Prop :=
              step = .next ((((moved s2 u es.length).modTile bid h f).noteOver c bid h ps).fillLines bid h [u.2])
            (u.2 < shape.rows * shape.pitch → lands (fun t =>
              let t1 := t.putUnit d.later (ps.zip codes)
              let t2 := { t1 with landed := t1.landed + (((d.elems + es.length) * w + 7) / 8 - (d.elems * w + 7) / 8) }
              if es.length = eplOf fmt then t2.modLine u.2 (fun l => { l with marked := false }) else t2)) ∧
            (shape.rows * shape.pitch ≤ u.2 → ∀ sb sh srow scol, c.src = .tile sb sh srow scol → lands (fun t =>
              t.setMl (row0 + u.1) ((s2.tile sb sh).m (srow + u.1)) ((s2.tile sb sh).l (srow + u.1)))))))) ∧
    (enabled → c.markedSource s d u = false → c.xf = .lines →
      (∀ data f cols bad bid h row0 col0, c.src = .lines data f cols bad → d.place = .tile bid h row0 col0 →
        let new := data.getD u.1 { data := 0, side := 0 }
        let s1 := s.modTile bid h (fun t =>
          let t1 := if (u.1, 0) ∈ d.later then t else t.modLine u.1 (fun l =>
            { l with data := new.data, side := new.side, marked := false })
          { t1 with landed := t1.landed + 128 })
        step = .next ((moved (s1.noteOver c bid h [(u.1, 0)]) (u.1, u.1) 128).fillLines bid h [u.1])) ∧
      (∀ src so dst dp, c.src = .tensor src so → d.place = .tensor dst dp →
        let at_ (l : Layout) : List Nat := [l.base.toNat / 128 + u.1]
        (∀ s1 f, s.mapLines x c.site accCopyIn (at_ src) = (s1, .inl f) → step = .next (s1.stallCopy c f)) ∧
        (∀ s1 s2 f lm, s.mapLines x c.site accCopyIn (at_ src) = (s1, .inr lm) →
          s1.mapLines x c.site accCopyOut (at_ dst) = (s2, .inl f) → step = .next (s2.stallCopy c f)) ∧
        (∀ s1 s2 lm dm, s.mapLines x c.site accCopyIn (at_ src) = (s1, .inr lm) →
          s1.mapLines x c.site accCopyOut (at_ dst) = (s2, .inr dm) → s2.memOk → s2.churn = [] →
          let line := lineOf (lm.pa (src.base.toNat + 128 * u.1))
          let lines := (targets s2 (dm.pa (dst.base.toNat + 128 * u.1))).map lineOf
          ∃ s', step = .next s' ∧ s'.blocks = s2.blocks ∧ s'.copies = (moved s2 (u.1, u.1) 128).copies ∧
            (∀ l ∈ lines, (∀ k, k < 128 → s'.mem.byte (128 * l + k) = s2.mem.byte (128 * line + k)) ∧
              ∀ b, b < 8 → s'.mem.side l b = s2.mem.side line b) ∧
            (∀ a, lineOf a ∉ lines → s'.mem.byte a = s2.mem.byte a) ∧
            (∀ l b, b < 8 → l ∉ lines → s'.mem.side l b = s2.mem.side l b))))) ∧
  (∀ (s : State) (c : Copy) (d : Dst) (shape : Tile) (lm : LineMap) (r fmt : Nat) (es : List (Nat × List Nat × List Nat)),
    let read (e : Nat × List Nat × List Nat) : Nat × Nat := c.src.read s lm e.2.1
    let val (e : Nat × List Nat × List Nat) : Val := codeVal (c.src.fmt s) (read e)
    let rotated (e : Nat × List Nat × List Nat) : Val :=
      let group := (c.rowElems d r).filter (fun y => y.1 / 64 == e.1 / 64)
      let signed (y : Nat × List Nat × List Nat) : Val :=
        signIf (chg c.key (slotStream c.slot) (c.ctrOf d shape y.2.1 y.2.2)).msb (f32 (rne32 (val y)))
      ((rhadStages 6 1 (group.map signed)).map (fun v => f32 (rne32 (v.scale (-3))))).getD (e.1 % 64) .nan
    let new := if c.xf = .rhad then rotated else val
    let mode (e : Nat × List Nat × List Nat) : RMode := slotMode c.slot c.key (c.ctrOf d shape e.2.1 e.2.2)
    let scale (e : Nat × List Nat × List Nat) : Nat :=
      scaleRule (amaxOf ((es.filter (fun y => y.1 / 32 == e.1 / 32)).map new)) fmt (slotAx4 c.slot)
    (c.xf = .raw → c.codes s d shape lm r fmt es = es.map read) ∧
    (c.xf ≠ .raw → fmtBlock fmt = true →
      c.codes s d shape lm r fmt es = es.map (fun e => (quantise fmt (scale e) (mode e) true (new e), scale e))) ∧
    (c.xf ≠ .raw → fmtBlock fmt = false → ∀ k, elemOf fmt 0 = some k →
      c.codes s d shape lm r fmt es = es.map (fun e => (roundElem k (mode e) (slotSat c.slot) (new e), 0)))) ∧
  (∀ (e : ElemAt) (lm : LineMap) (w code : Nat),
    (e.bit = 0 → w % 8 = 0 → e.cells lm w code = (List.range (w / 8)).map (fun k =>
      { addr := lm.pa (e.va + k), mask := 0xFF, val := BitVec.ofNat 8 (code / 2 ^ (8 * k)) })) ∧
    (0 < w → e.bit + w ≤ 8 → e.cells lm w code =
      [{ addr := lm.pa e.va, mask := BitVec.ofNat 8 ((2 ^ w - 1) * 2 ^ e.bit), val := BitVec.ofNat 8 (code % 2 ^ w * 2 ^ e.bit) }])) ∧
  (∀ (s : State) (cid di : Nat) (c : Copy) (d : Dst) (bid h row0 col0 ib ih p : Nat) (b : Block), s.copy? cid = some c →
    c.dsts[di]? = some d → d.place = .tile bid h row0 col0 → c.owner = .thread → c.bid = some ib → c.handle = some ih →
    d.pos = some p → c.abandoned = false → s.block? bid = some b → b.status ≠ .ended →
    let T := s.tile bid h
    let fits : Prop := T.rows = (s.tile ib ih).rows ∧ T.cols = (s.tile ib ih).cols ∧ T.fmt = (s.tile ib ih).fmt ∧
      T.kind = (s.tile ib ih).kind ∧ T.level = true
    let set (f : Dst → Dst) : State := s.modCopy cid (fun y => { y with dsts := modAt y.dsts di f })
    ∀ ins ∈ [Instr.mcArrival cid di, .landingAcceptAfterDrain cid di],
      ins = .mcArrival cid di ∧ d.st = .coming ∨ ins = .landingAcceptAfterDrain cid di ∧ d.st = .held →
      (T.st = .free ∨ T.st = .engaged ∨ ¬ fits → exec ins s = .next ((set (fun e => { e with st := .dropped, todo := [] })).modTile
        ib ih (fun t => { t with drop := t.drop ||| BitVec.ofNat 8 (2 ^ p) }))) ∧
      (T.st ≠ .free → T.st ≠ .engaged → fits → T.st = .draining ∨ 255 ≤ T.fills →
        exec ins s = .next (set (fun e => { e with st := .held }))) ∧
      (T.st = .empty ∨ T.st = .ready ∨ T.st = .filling → fits → T.fills < 255 →
        exec ins s = .next (((set (fun e => { e with st := .accepted })).modTile bid h (fun t =>
          t.accept (d.todo.map (fun v => v.2)))).sampleStreams bid))) ∧
  (∀ (t : Tile) (ls : List Nat), (t.accept ls).st = .filling ∧ (t.accept ls).fills = t.fills + 1 ∧
    (t.accept ls).landed = (if t.st = .filling then t.landed else 0) ∧
    (∀ (k : Nat) (l : Line), t.lines[k]? = some l → (t.accept ls).lines[k]? =
      some { l with fill := if k ∈ ls then false else l.fill || t.st == .empty })) ∧
  (∀ (s : State) (cid : Nat) (c : Copy), s.copy? cid = some c → c.owner = .thread →
    let done : Prop := s.writesOpen (.copy cid) = false ∧ (c.abandoned = true ∨ (c.stalled = false ∧
      ∀ d ∈ c.dsts, d.st = .dropped ∨ (d.st = .accepted ∧ d.todo = [])))
    (¬ done → exec (.copyComplete cid) s = .next s) ∧
    (done → exec (.copyComplete cid) s = .next (((s.finishTiles c).doneNum c.ctx c.die c.bid c.ctr c.num).reapBlocks)) ∧
    (s.finishTiles c).copies = s.copies.filter (fun o => o.cid != cid) ∧
    (∀ d bid h row0 col0 lay o b, c.dsts = [d] → d.st = .accepted → d.place = .tile bid h row0 col0 → c.src = .tensor lay o →
      s.block? bid = some b → h < b.tiles.length → (s.finishTiles c).tile bid h =
        { s.tile bid h with
          fills := (s.tile bid h).fills - 1
          st := if (s.tile bid h).fills - 1 = 0 ∧ (s.tile bid h).st = .filling then .ready else (s.tile bid h).st }))

/-! ### The matrix unit -/

/-- R225 to R230: `jdecl` declares an idle register over the first threads of its crews, `jfree` frees a declared one, and
`mma` joins the thread that executes it to the operation: the first join fixes the word, and the last one makes it wait for
the queue, which it enters with what its members hold then: the shares of A and B and their scale bytes (R235). A thread
outside the members, a second join, another word or an idle register trap JOIN.
R229, R231, R233: a first join with an exited member halts the block with JOIN 2; else its checks come in the order of R233, and each
that fails gives its fate. Every join then checks the registers that the operation reads from its member (R235).
R336: an operation that reads a marked register as it enters the queue, or a line marked by then, marks the lines that it writes.
R234, R236: the unit adds to each element of the window the run of its row and column, rounded once; with `z` it replaces it.
The run is the sum of the exact group sums, or of the products of BF16 and FP16, each cut off 40 places below the highest bit
among them; NaN, infinities and zeros come out as the rule says. Nothing outside the window changes.
R127: a row put into a tile of a block format takes the scale of the scale rule for each 32 columns, and saturates whatever its
slot says.
Where the manual leaves a point open, the model's choice holds: log entries 7, 8, 24 and 72. -/
def Obligations.JoinsFormOperations : Prop :=
  (∀ (x : FormX) (s : State) (i : Iss) (ti : Nat) (t : Thread), Alone s (jdeclSig x) i ti t →
    let j := x.fld 63 60
    let crews := x.fld 59 56
    let n := 64 * 2 ^ x.fld 55 54
    let c := i.blk.conv.getD j Conv.idle
    let ms := (List.range i.blk.threads.length).filter (fun k =>
      ((i.blk.threads[k]?).map (fun u => crews.testBit u.crew)).getD false)
    let short : Prop := (∃ k < 4, crews.testBit k = true ∧ i.blk.ncrew ≤ k) ∨ ms.length < n
    (c.st = .idle → short → MakesThread (.jdecl x) s i ti (t.fault i.ctx .join 6)) ∧
    (c.st = .idle → ¬ short → exec (.jdecl x) s = .next (((s.settleRun (jdeclSig x) i).modBlock i.blk.bid (fun b =>
      { b with conv := modAt b.conv j (fun y => { y with
          st := .declared, crews := BitVec.ofNat 4 crews, cnt := x.fld 55 54, members := ms.take n, joined := [],
          word := none }) })).modThread i.blk.bid ti (fun u => u.advance x.sw 8))) ∧
    (c.st ≠ .idle → c.crews.toNat = crews → c.cnt = x.fld 55 54 → MakesThread (.jdecl x) s i ti (t.advance x.sw 8)) ∧
    (c.st ≠ .idle → ¬ (c.crews.toNat = crews ∧ c.cnt = x.fld 55 54) →
      MakesThread (.jdecl x) s i ti (t.fault i.ctx .join 7))) ∧
  (∀ (x : FormX) (s : State) (i : Iss) (ti : Nat) (t : Thread), Alone s (jfreeSig x) i ti t →
    let j := x.fld 63 60
    let c := i.blk.conv.getD j Conv.idle
    let set (f : Conv → Conv) : State :=
      (s.settleRun (jfreeSig x) i).modBlock i.blk.bid (fun b => { b with conv := modAt b.conv j f })
    (c.st = .idle → MakesThread (.jfree x) s i ti (t.advance x.sw 8)) ∧
    (c.st = .declared → exec (.jfree x) s =
      .next ((set (fun _ => Conv.idle)).modThread i.blk.bid ti (fun u => u.advance x.sw 8))) ∧
    (c.st = .joining → MakesThread (.jfree x) s i ti (t.fault i.ctx .join 7)) ∧
    (c.st = .complete → exec (.jfree x) s = .next ((set (fun y => { y with freeing := true })).modThread i.blk.bid ti
      (fun u => { u with pc := u.pc + 8, park := .conv j, mark := x.sw, back := 8 })))) ∧
  (∀ (x : FormX) (s : State) (i : Iss) (ti : Nat) (t : Thread), Alone s (mmaSig x) i ti t → i.blk.status = .resident →
    let j := x.fld 63 60
    let c := i.blk.conv.getD j Conv.idle
    let s0 := s.settleRun (mmaSig x) i
    let word : FormX := { x with sw := false }
    let sa := i.blk.slots.getD (x.fld 55 53) 0
    let sb := i.blk.slots.getD (x.fld 52 50) 0
    let wa := fmtWidth (slotFmt sa)
    let wb := fmtWidth (slotFmt sb)
    let M := 64 * 2 ^ x.fld 59 58
    let N := 64 * 2 ^ x.fld 57 56
    let G := if wa = 16 then 1 else if wa = 4 ∧ wb = 4 then 4 else 2
    let share (w : Nat) : Nat := if w = 4 then 1 else if w = 16 then 4 else 2
    let k := c.members.idxOf ti
    let scaled (lim : Nat) : Bool := wa != 16 && k % 4 == 0 && decide (k < lim)
    let reads : List Opd := (if k < M then [{ spec := x.a.toNat, n := 4 * G * share wa, rd := true }] else []) ++
      (if k < N then [{ spec := x.b.toNat, n := 4 * G * share wb, rd := true }] else []) ++
      (if scaled M then [{ spec := x.c.toNat, k := true, n := G, rd := true }] else []) ++
      (if scaled N then [{ spec := x.c.toNat + G, k := true, n := G, rd := true }] else [])
    let passes : Prop := ∀ o ∈ reads, o.beyond t = false ∧ o.pending t = false ∧ o.marked [] t = false
    let T := i.blk.tile x.d.toNat
    let sound (y : DWord) : Prop := slotOk y = true ∧ fmtAssigned (slotFmt y) = true
    let pair : Prop := (fmtBlock (slotFmt sa) = true ∧ fmtBlock (slotFmt sb) = true) ∨
      (slotFmt sa = slotFmt sb ∧ (slotFmt sa = 1 ∨ slotFmt sa = 2))
    let formed : Prop := sound sa ∧ sound sb ∧ pair ∧ (x.c = 0xFF ↔ wa = 16)
    let fits : Prop := M ≤ T.rows ∧ N ≤ T.cols
    let spoiled : Prop := x.fld 49 49 = 0 ∧ ∃ l ∈ T.windowLines M N, (T.line l).marked = true
    let live : Prop := ∀ m ∈ c.members, ∃ u, i.blk.threads[m]? = some u ∧ u.exited = false
    let traps (code : TrapCode) (sub : Nat) (info : Nat) : Prop :=
      MakesThread (.mma x) s i ti (t.fault i.ctx code sub 0 (BitVec.ofNat 32 info))
    let joins (st : ConvState) : State := s0.modBlock i.blk.bid (fun b =>
      { b with conv := modAt b.conv j (fun y => { y with st := st, word := some word, joined := y.joined ++ [ti] }) })
    (c.st = .idle → MakesThread (.mma x) s i ti (t.fault i.ctx .join 4)) ∧
    (c.st ≠ .idle → ti ∉ c.members → MakesThread (.mma x) s i ti (t.fault i.ctx .join 3)) ∧
    (ti ∈ c.members → c.st = .complete → MakesThread (.mma x) s i ti { t with park := .retry (.convIdle j) }) ∧
    (ti ∈ c.members → c.st = .joining → ti ∈ c.joined → MakesThread (.mma x) s i ti (t.fault i.ctx .join 5)) ∧
    (ti ∈ c.members → c.st = .joining → ti ∉ c.joined → c.word ≠ some word →
      MakesThread (.mma x) s i ti (t.fault i.ctx .join 1)) ∧
    (ti ∈ c.members → c.st = .declared → ¬ live → exec (.mma x) s = .next (s0.haltBlock i.blk.bid .join 2)) ∧
    (ti ∈ c.members → c.st = .declared → live →
      (∀ y y', (y, y') = (sa, sb) ∨ ((y, y') = (sb, sa) ∧ sound sa) →
        (slotOk y = false → traps .format 2 0) ∧ (slotOk y = true → fmtAssigned (slotFmt y) = false → traps .format 1 0)) ∧
      (sound sa → sound sb → ¬ pair → traps .format 8 0) ∧
      (sound sa → sound sb → pair → ¬ (x.c = 0xFF ↔ wa = 16) → traps .format 8 0) ∧
      (formed → T.st = .free → traps .tilestate 2 0) ∧
      (formed → T.st ≠ .free → T.st ≠ .engaged → traps .token 2 0) ∧
      (formed → T.st = .engaged → T.kind ≠ 1 → T.kind ≠ 2 → traps .tilestate 4 0) ∧
      (formed → T.st = .engaged → T.kind = 1 ∨ T.kind = 2 → ¬ fits → traps .tilebound 2 0) ∧
      (formed → T.st = .engaged → T.kind = 1 ∨ T.kind = 2 → fits → c.members.length ≠ max M N → traps .join 6 0) ∧
      (formed → T.st = .engaged → T.kind = 1 ∨ T.kind = 2 → fits → c.members.length = max M N → spoiled →
        traps .dataerr 0 x.d.toNat)) ∧
    (ti ∈ c.members → (c.st = .joining ∧ ti ∉ c.joined ∧ c.word = some word) ∨
        (c.st = .declared ∧ live ∧ formed ∧ T.st = .engaged ∧ (T.kind = 1 ∨ T.kind = 2) ∧ fits ∧ c.members.length = max M N ∧
          ¬ spoiled) →
      ((∃ o ∈ reads, o.beyond t = true) → ∃ o ∈ reads, o.beyond t = true ∧ traps .maxreg 0 o.spec) ∧
      ((∀ o ∈ reads, o.beyond t = false) → (∃ o ∈ reads, o.pending t = true) →
        ∃ o ∈ reads, o.pending t = true ∧ traps .hazard 1 o.spec) ∧
      ((∀ o ∈ reads, o.beyond t = false ∧ o.pending t = false) → (∃ o ∈ reads, o.marked [] t = true) →
        ∃ o ∈ reads, o.marked [] t = true ∧ traps .dataerr 0 o.spec) ∧
      (passes →
      (c.joined.length + 1 < c.members.length →
        exec (.mma x) s = .next ((joins .joining).modThread i.blk.bid ti (fun u => u.advance x.sw 8))) ∧
      (c.joined.length + 1 = c.members.length →
        exec (.mma x) s = .next (((joins .complete).modMat i.blk.die i.blk.core (fun u =>
          { u with waiting := u.waiting ++ [.conv i.blk.bid j] })).modThread i.blk.bid ti (fun u => u.advance x.sw 8)))))) ∧
  (∀ (x : FormX) (slots : List DWord),
    let sh := mmaShape x slots
    let fa := slotFmt (slots.getD (x.fld 55 53) 0)
    let fb := slotFmt (slots.getD (x.fld 52 50) 0)
    let share (w : Nat) : Nat := if w = 4 then 1 else if w = 16 then 4 else 2
    sh.m = 64 * 2 ^ x.fld 59 58 ∧ sh.n = 64 * 2 ^ x.fld 57 56 ∧ sh.fa = fa ∧ sh.fb = fb ∧ (sh.block = true ↔ fmtWidth fa ≠ 16) ∧
      sh.k = (if fmtWidth fa = 16 then 32 else if fmtWidth fa = 4 ∧ fmtWidth fb = 4 then 128 else 64) ∧
      sh.wa = share (fmtWidth fa) ∧ sh.wb = share (fmtWidth fb) ∧ sh.ka = sh.k / 32 ∧ sh.kb = sh.k / 32) ∧
  (∀ (s : State) (die core bid j : Nat) (ws : List MatWait) (b : Block) (c : Conv) (x : FormX),
    let u := s.mat die core
    (8 ≤ u.queue.length → exec (.matrixQueueEnter die core) s = .next s) ∧
    (u.queue.length < 8 → u.waiting = .conv bid j :: ws → s.block? bid = some b → b.conv[j]? = some c → c.word = some x →
      exec (.matrixQueueEnter die core) s = .next ((s.modMat die core (fun v =>
          { v with waiting := ws, queue := v.queue ++ [captureMma b j c x] })).modBlock bid (fun y => y.convEntered j)) ∧
        (captureMma b j c x).bid = b.bid ∧ (captureMma b j c x).tiles = [x.d.toNat])) ∧
  (∀ (b : Block) (j : Nat) (c : Conv) (x : FormX),
    let sh := mmaShape x b.slots
    let g := sh.k / 32
    let member (k : Nat) : Option Thread := (c.members[k]?).bind (fun n => b.threads[n]?)
    let share (base w width k : Nat) : List Nat := (List.range g).flatMap fun q => (List.range 4).flatMap fun m =>
      ((member (k / 4 * 4 + m)).map (fun t =>
        unpackCodes width 8 ((List.range w).map (fun y => t.reg (base + (k % 4 * g + q) * w + y))))).getD []
    let scales (base k : Nat) : List Nat := (List.range g).map fun q =>
      ((member (k / 4 * 4)).map (fun t => byteOf (t.k.getD (base + (k % 4 * g + q) / 4) 0) ((k % 4 * g + q) % 4))).getD 0
    let marked : Bool := c.members.zipIdx.any (fun m => (b.threads[m.1]?).any (fun t =>
      (mmaReads x sh m.2).any (fun o => o.marked [] t)))
    captureMma b j c x = .mma b.bid j x
      ((List.range sh.m).map (share x.a.toNat sh.wa (fmtWidth sh.fa))) ((List.range sh.n).map (share x.b.toNat sh.wb (fmtWidth sh.fb)))
      (if sh.block = true then (List.range sh.m).map (scales (x.c.toNat - 0xC0)) else [])
      (if sh.block = true then (List.range sh.n).map (scales (x.c.toNat - 0xC0 + sh.ka)) else []) marked) ∧
  (∀ (b : Block) (op : MatOp),
    let spoiled : Prop := op.bad = true ∨ ∃ l ∈ op.reads b, b.lineMarked l = true
    (spoiled → ∀ l ∈ op.writes b, l.1 < b.tiles.length → l.2 < ((b.perform op).tile l.1).lines.length →
      (b.performMarked op).lineMarked l = true) ∧
    (¬ spoiled → b.performMarked op = b.perform op)) ∧
  (let sound (t : Tile) : Prop := t.lines.length = tileLines t.fmt t.rows t.cols t.kind ∧ fmtAssigned t.fmt = true
   let word (t : Tile) (i k : Nat) : Word := BitVec.ofNat 32 (t.code i k)
   (∀ (b : Block) (bid j : Nat) (x : FormX) (A B SA SB : List (List Nat)) (bad : Bool) (r c : Nat),
     let sh := mmaShape x b.slots
     let d := x.d.toNat
     let T := b.tile d
     let T' := (b.perform (.mma bid j x A B SA SB bad)).tile d
     let sa (g : Nat) : Nat := (SA.getD r []).getD g 0
     let sb (g : Nat) : Nat := (SB.getD c []).getD g 0
     let pairs : List (Nat × Nat) := (A.getD r []).zip (B.getD c [])
     let parts : List Val :=
       if sh.block = true then (List.range (sh.k / 32)).map (fun g =>
         (((((A.getD r []).drop (32 * g)).take 32).zip (((B.getD c []).drop (32 * g)).take 32)).map (fun (p, q) =>
           (bareVal sh.fa (sa g) p).mul (bareVal sh.fb (sb g) q))).foldl Val.add (.fin false 0 0) |>.scale
             (scaleExp sh.fa (sa g) + scaleExp sh.fb (sb g)))
       else pairs.map (fun (p, q) => (plainVal sh.fa p).mul (plainVal sh.fb q))
     let tops : List Int := (parts.filter (fun v => !v.isZero)).map floorLog2
     let u : Int := tops.tail.foldl max (tops.headD 0) - 40
     let cutTo (v : Val) : Int := match v with
       | .fin n m e =>
         let y : Nat := if u ≤ e then m * 2 ^ (e - u).toNat else m / 2 ^ (u - e).toNat
         if n then -(y : Int) else y
       | _ => 0
     let sum : Int := (parts.map cutTo).sum
     let run : Val :=
       if (∃ v ∈ parts, v.isNan = true) ∨ (Val.inf false ∈ parts ∧ Val.inf true ∈ parts) then .nan
       else if Val.inf false ∈ parts then .inf false
       else if Val.inf true ∈ parts then .inf true
       else if tops = [] then .fin false 0 0
       else .fin (decide (sum < 0)) sum.natAbs u
     d < b.tiles.length → sound T → T.fmt = 0 → sh.m ≤ T.rows → sh.n ≤ T.cols → r < T.rows → c < T.cols →
     (sh.block = false → sh.fa = sh.fb) →
     (r < sh.m → c < sh.n →
       T'.code r c = (rne32 ((if x.fld 49 49 = 1 then .fin false 0 0 else f32 (word T r c)).add run)).toNat) ∧
     (sh.m ≤ r ∨ sh.n ≤ c → T'.code r c = T.code r c) ∧ (T.kind = 2 → T'.m r = T.m r ∧ T'.l r = T.l r)) ∧
   (∀ (t : Tile) (slot seed : DWord) (i j : Nat) (vs : List Val) (v : Val), sound t → i < t.rows → vs.length = t.cols →
     vs[j]? = some v →
     let mode := slotMode slot seed (BitVec.ofNat 64 (i * t.cols + j))
     let sc := scaleRule (((vs.drop (j / 32 * 32)).take 32).foldl amax2 (.fin false 0 0)) t.fmt (slotAx4 slot)
     (fmtBlock t.fmt = false → ∀ k, elemOf t.fmt 0 = some k →
       (t.putRow slot seed i vs).code i j = roundElem k mode (slotSat slot) v % 2 ^ fmtWidth t.fmt) ∧
     (fmtBlock t.fmt = true → t.cols % 32 = 0 → (t.putRow slot seed i vs).scale i j = sc % 256 ∧
       (t.putRow slot seed i vs).code i j = quantise t.fmt sc mode true v % 2 ^ fmtWidth t.fmt)))

/-- R223, R224, R237, R239 to R245: `trel` engages a READY tile, and `tacq` takes an engaged one back once nothing names it;
the threads parked for it are released together when it becomes READY.
A ridge instruction checks in the order of R239 that its tiles, with the rows mask the length tile among them, are engaged and of
their kinds, its slot, their formats and shapes, and that no two roles name one tile, and traps with the subcode of the first that
fails, or DATAERR where it reads a marked line (R336). One that passes puts its operation into the queue, or parks behind what waits
for it; the unit performs the operation at the head on its block's tiles, which go back to the threads parked
for them once nothing names them.
R243 to R245: `smxupd`, `smxmrg` and `smxfin` give every row of their tiles the maximum, the sum and the elements that the
rules compute, in ascending columns with one rounding each; a row of a plain tile is rounded under its slot, one of a block
format takes the scale of the scale rule for each 32 columns (R127).
Where the manual leaves a point open, the model's choice holds: log entries 7, 8, 17, 66 and 72. -/
def Obligations.RidgeOperationsAreQueuedAndPerformed : Prop :=
  (∀ (x : FormX) (s : State) (i : Iss) (ti : Nat) (t : Thread), Alone s (trelSig x) i ti t →
    let h := x.d.toNat
    let T := i.blk.tile h
    let s0 := s.settleRun (trelSig x) i
    let passes (ins : Instr) (f : Tile → Tile) : Prop :=
      exec ins s = .next (((s0.drainOf i.blk.bid ti).modTile i.blk.bid h f).modThread i.blk.bid ti (fun u => u.advance x.sw 8))
    (T.st = .free → MakesThread (.trel x) s i ti (t.fault i.ctx .tilestate 2) ∧
      MakesThread (.tacq x) s i ti (t.fault i.ctx .tilestate 2)) ∧
    (T.st = .ready ∨ T.st = .engaged → t.reds = [] → passes (.trel x) (fun u => { u with st := .engaged })) ∧
    (T.st = .ready ∨ T.st = .engaged → t.reds ≠ [] →
      MakesThread (.trel x) s i ti { t with park := .retry .redsDone }) ∧
    (T.st = .empty ∨ T.st = .filling ∨ T.st = .draining →
      MakesThread (.trel x) s i ti { t with park := .retry (.tileNot h [.empty, .filling, .draining]) }) ∧
    (T.st = .engaged → s0.tileNamed i.blk.bid h = true →
      MakesThread (.tacq x) s i ti { t with park := .retry (.tokenFree h), mark := x.sw }) ∧
    (T.st ≠ .free → T.st ≠ .engaged → passes (.tacq x) id) ∧
    (T.st = .engaged → s0.tileNamed i.blk.bid h = false → exec (.tacq x) s = .next (((s0.drainOf i.blk.bid ti).modThread
      i.blk.bid ti (fun u => u.advance x.sw 8)).tokenBack i.blk.bid h))) ∧
  (∀ (s : State) (bid h n : Nat) (b : Block) (u : Thread), s.block? bid = some b → b.threads[n]? = some u →
    (h < b.tiles.length → ((s.tokenBack bid h).tile bid h).st = .ready) ∧
    (u.park = .retry (.tokenFree h) →
      (s.tokenBack bid h).thread? bid n = some (({ u with park := .ready } : Thread).advance u.mark 8)) ∧
    (u.park ≠ .retry (.tokenFree h) → (s.tokenBack bid h).thread? bid n = some u)) ∧
  (∀ (x : FormX) (s : State) (i : Iss) (ti : Nat) (t : Thread),
    let T (h : Nat) : Tile := i.blk.tile h
    let queues (ins : Instr) (sig : Sig) (op : MatOp) : Prop :=
      let s0 := s.settleRun sig i
      ((s.mat i.blk.die i.blk.core).waiting = [] → (s.mat i.blk.die i.blk.core).queue.length < 8 →
        exec ins s = .next ((s0.modMat i.blk.die i.blk.core (fun u => { u with queue := u.queue ++ [op] })).modThread
          i.blk.bid ti (fun u => u.advance x.sw 8))) ∧
      ((s.mat i.blk.die i.blk.core).waiting ≠ [] ∨ 8 ≤ (s.mat i.blk.die i.blk.core).queue.length →
        exec ins s = .next ((s0.modMat i.blk.die i.blk.core (fun u =>
          { u with waiting := u.waiting ++ [.ridge op i.blk.bid ti] })).modThread i.blk.bid ti (fun u =>
            { u with park := .queued, mark := x.sw })))
    let ridge (ins : Instr) (sig : Sig) (roles : List (Nat × Nat)) (slot : Option DWord) (formats shapes : Prop) (op : MatOp) :
        Prop := Alone s sig i ti t →
      let traps (code : TrapCode) (sub : Nat) : Prop := MakesThread ins s i ti (t.fault i.ctx code sub)
      let engaged : Prop := ∀ r ∈ roles, (T r.1).st = .engaged
      let kinds : Prop := engaged ∧ ∀ r ∈ roles, (T r.1).kind = r.2
      let sound : Prop := kinds ∧ ∀ y, slot = some y → slotOk y = true ∧ fmtAssigned (slotFmt y) = true
      let apart : Prop := sound ∧ formats ∧ shapes ∧ (roles.map (fun r => r.1)).Nodup
      (∀ before r after, roles = before ++ r :: after → (∀ y ∈ before, (T y.1).st = .engaged) →
        ((T r.1).st = .free → traps .tilestate 2) ∧ ((T r.1).st ≠ .free → (T r.1).st ≠ .engaged → traps .token 2)) ∧
      (engaged → ¬ kinds → traps .tilestate 4) ∧
      (kinds → ∀ y, slot = some y → (slotOk y = false → traps .format 2) ∧
        (slotOk y = true → fmtAssigned (slotFmt y) = false → traps .format 1)) ∧
      (sound → ¬ formats → traps .format 8) ∧
      (sound → formats → ¬ shapes → traps .tilebound 4) ∧
      (sound → formats → shapes → ¬ (roles.map (fun r => r.1)).Nodup → traps .tilestate 5) ∧
      (apart → (∃ l ∈ op.reads i.blk, i.blk.lineMarked l = true) → ∃ l ∈ op.reads i.blk, i.blk.lineMarked l = true ∧
        MakesThread ins s i ti (t.fault i.ctx .dataerr 0 0 (BitVec.ofNat 32 l.1))) ∧
      (apart → (∀ l ∈ op.reads i.blk, i.blk.lineMarked l = false) → queues ins sig op)
    let d := x.d.toNat
    let a := x.a.toNat
    let same (h g : Nat) : Prop := (T h).rows = (T g).rows ∧ (T h).cols = (T g).cols
    let slot := i.blk.slots.getD (x.fld 61 59) 0
    let finSlot := i.blk.slots.getD (x.fld 63 61) 0
    let f := slotFmt slot
    let mask := x.fld 63 62
    let word := readSpec i.warp.w t (x.c.toNat + 1)
    let L := word.toNat % 64
    ridge (.smxinit x) (smxinitSig x) [(d, 2)] none True True (.init i.blk.bid d) ∧
    ridge (.smxmrg x) (smxmrgSig x) [(d, 2), (a, 2)] none True (same d a) (.merge i.blk.bid d a) ∧
    ridge (.smxfin x) (smxfinSig x) [(d, 0), (a, 2)] (some finSlot) ((T d).fmt = slotFmt finSlot) (same d a)
      (.fin i.blk.bid d a finSlot) ∧
    ridge (.smxupd x) (smxupdSig x) ([(d, 2), (a, 1), (x.b.toNat, 0)] ++ if mask = 2 then [(L, 0)] else []) (some slot)
      ((T a).fmt = 0 ∧ (T x.b.toNat).fmt = f ∧ (f ≤ 2 ∨ fmtBlock f = true) ∧ (mask = 2 → (T L).fmt = 0x0B))
      ((T a).rows = (T d).rows ∧ same x.b.toNat a ∧ (mask = 2 → (T d).rows ≤ (T L).rows))
      (.upd i.blk.bid d a x.b.toNat mask slot (readSpec i.warp.w t x.c.toNat) word)) ∧
  (∀ (s : State) (die core : Nat) (op : MatOp) (q : List MatOp), (s.mat die core).queue = op :: q →
    let s1 := (s.modBlock op.bid (fun b => b.performMarked op)).modMat die core (fun u => { u with queue := q })
    exec (.matrixOpComplete die core) s = .next ((s1.tokensFree op).reapBlocks) ∧
    (∀ b, (∀ l ∈ op.reads b, b.lineMarked l = false) → b.performMarked op = b.perform op) ∧
    (∀ h b n, op.tiles = [h] → s1.block? op.bid = some b → n ∈ b.takers h → (s1.tile op.bid h).st = .engaged →
      s1.tileNamed op.bid h = false → s1.tokensFree op = s1.tokenBack op.bid h) ∧
    (∀ bid ti ws, (s.mat die core).queue.length < 8 → (s.mat die core).waiting = .ridge op bid ti :: ws →
      exec (.matrixQueueEnter die core) s = .next ((s.modMat die core (fun v =>
        { v with waiting := ws, queue := v.queue ++ [op] })).modThread bid ti (fun u =>
          ({ u with park := .ready } : Thread).advance u.mark 8)))) ∧
  (∀ (b : Block) (bid d r j : Nat), d < b.tiles.length → (b.tile d).kind = 2 → (b.tile d).fmt = 0 → r < (b.tile d).rows →
    j < (b.tile d).cols → (b.tile d).lines.length = tileLines 0 (b.tile d).rows (b.tile d).cols 2 →
    let T := (b.perform (.init bid d)).tile d
    T.m r = 0xFF800000 ∧ T.l r = 0 ∧ T.code r j = 0) ∧
  (∀ (b : Block) (bid d a r j : Nat), d < b.tiles.length → (b.tile d).kind = 2 → (b.tile d).fmt = 0 → r < (b.tile d).rows →
    j < (b.tile d).cols → (b.tile d).lines.length = tileLines 0 (b.tile d).rows (b.tile d).cols 2 → a ≠ d →
    (f32 ((b.tile a).m r)).isNan = true →
    let T := (b.perform (.merge bid d a)).tile d
    T.m r = 0x7FC00000 ∧ T.l r = 0x7FC00000 ∧ T.code r j = 0x7FC00000) ∧
  (let sound (t : Tile) : Prop := t.lines.length = tileLines t.fmt t.rows t.cols t.kind ∧ fmtAssigned t.fmt = true
   let word (t : Tile) (i k : Nat) : Word := BitVec.ofNat 32 (t.code i k)
   let nan (w : Word) : Prop := (f32 w).isNan = true
   let times (a b : Word) : Word := rne32 ((f32 a).mul (f32 b))
   let power (a b : Word) : Word := exp2a (rne32 ((f32 a).add (f32 b).negate))
   let isRow (t : Tile) (i : Nat) (m l : Word) (sum : Nat → Word) : Prop :=
     t.m i = m ∧ t.l i = l ∧ ∀ k < t.cols, word t i k = sum k
   let sameRow (t u : Tile) (i : Nat) : Prop := ∀ k < u.cols, t.code i k = u.code i k ∧ t.scale i k = u.scale i k
   (∀ (b : Block) (bid d a p mask : Nat) (slot : DWord) (sigma at_ : Word) (i : Nat),
     let O := b.tile d
     let S := b.tile a
     let P := b.tile p
     let b' := b.perform (.upd bid d a p mask slot sigma at_)
     let x (k : Nat) : Word := times sigma (word S i k)
     let inU (k : Nat) : Bool := match mask with
       | 0 => true
       | 1 => decide ((k : Int) ≤ i + at_.toInt)
       | _ => decide ((k : Int) < (word (b.tile (at_.toNat % 64)) i 0).toInt)
     let U := (List.range S.cols).filter inU
     let bad : Prop := (∃ w ∈ [sigma, O.m i, O.l i] ++ U.map x, nan w) ∨ (0x7F800000 : Word) ∈ O.m i :: U.map x
     let m1 := (U.map x).foldl (fun r w => BitVec.ofNat 32 (minMax fp32 true r.toNat w.toNat)) (O.m i)
     let ps := (List.range S.cols).map (fun k => if inU k then f32 (power (x k) m1) else .fin false 0 0)
     let row (vs : List Val) : Tile := P.putRow slot b.seed i vs
     let first : Prop := O.m i = 0xFF800000
     d < b.tiles.length → p < b.tiles.length → d ≠ a → d ≠ p → a ≠ p → sound O → sound S → sound P → O.fmt = 0 → O.kind = 2 →
     S.fmt = 0 → i < O.rows → S.rows = O.rows → P.rows = S.rows → P.cols = S.cols →
     (bad → isRow (b'.tile d) i 0x7FC00000 0x7FC00000 (fun _ => 0x7FC00000) ∧
       sameRow (b'.tile p) (row (List.replicate S.cols .nan)) i) ∧
     (¬ bad → m1 = 0xFF800000 → isRow (b'.tile d) i 0xFF800000 0 (fun _ => 0) ∧
       sameRow (b'.tile p) (row (List.replicate S.cols (.fin false 0 0))) i) ∧
     (¬ bad → m1 ≠ 0xFF800000 → sameRow (b'.tile p) (row ps) i ∧
       isRow (b'.tile d) i m1
         ((List.range S.cols).foldl (fun l k => rne32 ((f32 l).add ((row ps).val i k)))
           (if first then 0 else times (O.l i) (power (O.m i) m1)))
         (fun k => if first then 0 else times (word O i k) (power (O.m i) m1)))) ∧
   (∀ (b : Block) (bid d a i : Nat),
     let D := b.tile d
     let A := b.tile a
     let D' := (b.perform (.merge bid d a)).tile d
     let bad : Prop := (∃ w ∈ [D.m i, A.m i, D.l i, A.l i], nan w) ∨ D.m i = 0x7F800000 ∨ A.m i = 0x7F800000
     let m : Word := BitVec.ofNat 32 (minMax fp32 true (D.m i).toNat (A.m i).toNat)
     let weight (y : Word) : Word := if y = 0xFF800000 then 0 else power y m
     let both (y z : Word) : Word := rne32 (((f32 y).mul (f32 (weight (D.m i)))).add (f32 (times z (weight (A.m i)))))
     d < b.tiles.length → d ≠ a → sound D → sound A → D.fmt = 0 → D.kind = 2 → A.fmt = 0 → A.kind = 2 → i < D.rows →
     A.rows = D.rows → A.cols = D.cols →
     (bad → isRow D' i 0x7FC00000 0x7FC00000 (fun _ => 0x7FC00000)) ∧
     (¬ bad → m = 0xFF800000 → isRow D' i 0xFF800000 0 (fun _ => 0)) ∧
     (¬ bad → m ≠ 0xFF800000 → isRow D' i m (both (D.l i) (A.l i)) (fun k => both (word D i k) (word A i k))) ∧
     (b.perform (.merge bid d a)).tile a = A) ∧
   (∀ (b : Block) (bid d a : Nat) (slot : DWord) (i : Nat),
     let D := b.tile d
     let A := b.tile a
     let D' := (b.perform (.fin bid d a slot)).tile d
     let row (vs : List Val) : Tile := D.putRow slot b.seed i vs
     let quotient (k : Nat) : Val := (f32 (word A i k)).div (f32 (A.l i))
     let zero (r : Nat) : Prop := (f32 (A.l r)).isZero = true
     d < b.tiles.length → d ≠ a → sound D → sound A → A.fmt = 0 → A.kind = 2 → D.rows = A.rows → D.cols = A.cols → i < D.rows →
     (zero i → sameRow D' (row (List.replicate D.cols (.fin false 0 0))) i) ∧
     (¬ zero i → fmtBlock D.fmt = false → sameRow D' (row ((List.range D.cols).map quotient)) i) ∧
     (¬ zero i → fmtBlock D.fmt = true →
       sameRow D' (row ((List.range D.cols).map (fun k => f32 (rne32 (quotient k))))) i) ∧
     (D'.emptyRow = true ↔ D.emptyRow = true ∨ ∃ r < D.rows, zero r) ∧ (b.perform (.fin bid d a slot)).tile a = A))

/-! ### The fabric -/

/-- R274: a `send` to an endpoint that is not present traps FABRIC 1, one of memory with a length that is no multiple of
128 FABRIC 2, one at an address that is not aligned MISALIGN 2. One that passes lets the thread's ready work entries fire
first (R260); where the die then holds its limit of sends, or an entry of the thread is left over, the thread waits, and for
the `red`s of the thread to windows too (R266). It performs the thread's earlier stores where it releases or where its source
reads one of them (R217), takes its counter's number and puts its message in flight; a tile that it sends begins to drain. As a
release it waits for the acknowledgements of the thread's writes to other packages (R252).
Where the manual leaves a point open, the model's choice holds: log entries 13, 17, 66 and 72. -/
def Obligations.SendsPutMessagesInFlight : Prop :=
  (∀ (x : FormX) (s : State) (i : Iss) (ti : Nat) (t : Thread), Alone s (sendSig x) i ti t →
    let tile : Bool := x.fld 50 50 == 1
    let h := x.a.toNat
    let T := i.blk.tile h
    let s0 := s.settleRun (sendSig x) i
    let ep := (readSpec i.warp.w t x.d.toNat).toNat
    let len := if tile then 128 * (T.rows * T.pitch) else (readSpec i.warp.w t x.b.toNat).toNat
    let va := if tile then 0 else pairAt i.warp.w t x.a.toNat
    let known : Prop := ep < 32768 ∧ s.plat.present (ep / 8) = true
    let s1 := State.fireReady s0.fab.entries.length i.blk.bid ti s0
    let held := (s1.fab.msgs.filter (fun m => m.src == s1.endpoint i.blk.die && !m.sent)).length
    let room : Prop := held < 1024 ∧ s1.readyEntries i.blk.bid ti = []
    let waits (c : Cond) : Prop := exec (.send x) s = .next (s1.modThread i.blk.bid ti (fun u => { u with park := .retry c }))
    let mine := (((s1.block? i.blk.bid).map (fun b => b.ownStores ti)).getD []).flatMap (fun e => e.cells)
    let reads : Prop := ∃ k < (if tile then 0 else len / 128), ∃ p,
      (s1.reach i (va + BitVec.ofNat 64 (128 * k)) accCopyIn).2 = .inr p ∧
      ∃ c ∈ mine, lineOf c.addr = lineOf p.pa ∨ bitsAt c.addr 53 1 = 1
    let sent (s2 : State) : Prop :=
      let ctr := FormX.ctr x
      let s3 := s2.modCtr i.ctx.num i.blk.die (some i.blk.bid) ctr (fun y => { y with i := y.i + 1 })
      let s4 : State := { s3 with nextId := s3.nextId + 1 }
      let s5 := if tile then s4.modTile i.blk.bid h (fun u => { u with drains := u.drains + 1, st := .draining }) else s4
      exec (.send x) s = .next ((s5.modFab (fun f => { f with msgs := f.msgs ++ [
        { mid := s3.nextId, job := i.ctx.jobid, ctx := i.ctx.num, src := s5.plat.fuses.pkg * 8 + i.blk.die, dst := ep,
          tag := readSpec i.warp.w t x.c.toNat, len := len, slot := s5.sendSlot i.blk.die, data := [], unread := len / 128, va := va,
          tile := if tile then some (i.blk.bid, h) else none, bid := some i.blk.bid, lid := some i.blk.lid, ctr := some ctr,
          num := (s2.ctr i.ctx.num i.blk.die (some i.blk.bid) ctr).i + 1, entry := none, order := 0, st := .flight,
          tries := 0, retryAt := 0, sent := false, stalled := false, cut := false, node := s5.nodeOf i.blk.lid }] })).modThread
            i.blk.bid ti (fun u => u.advance x.sw 8))
    let goes : Prop :=
      (¬ room → waits .sendRoom) ∧
      (∀ u, room → s1.thread? i.blk.bid ti = some u → u.reds ≠ [] → waits .redsDone) ∧
      (room → (∀ u, s1.thread? i.blk.bid ti = some u → u.reds = []) →
        (x.fld 49 49 = 1 → s1.ackOpen i.blk.bid ti = true → exec (.send x) s =
          .next ((s1.drainOf i.blk.bid ti).modThread i.blk.bid ti (fun u => { u with park := .retry (.acked [ti]) }))) ∧
        (x.fld 49 49 = 1 → s1.ackOpen i.blk.bid ti = false → sent ((s1.drainOf i.blk.bid ti).release i.blk 2)) ∧
        (x.fld 49 49 ≠ 1 → reads → sent (s1.drainOf i.blk.bid ti)) ∧ (x.fld 49 49 ≠ 1 → ¬ reads → sent s1))
    (tile = false →
      (¬ known → MakesThread (.send x) s i ti (t.fault i.ctx .fabric 1)) ∧
      (known → len % 128 ≠ 0 ∨ 0xFFFFFF80 < len → MakesThread (.send x) s i ti (t.fault i.ctx .fabric 2)) ∧
      (known → len % 128 = 0 → len ≤ 0xFFFFFF80 → va.toNat % 128 ≠ 0 →
        MakesThread (.send x) s i ti (t.fault i.ctx .misalign 2 va)) ∧
      (known → len % 128 = 0 → len ≤ 0xFFFFFF80 → va.toNat % 128 = 0 → goes)) ∧
    (tile = true →
      (T.st = .free → MakesThread (.send x) s i ti (t.fault i.ctx .tilestate 2)) ∧
      (T.st = .engaged → MakesThread (.send x) s i ti (t.fault i.ctx .token 1)) ∧
      (T.st = .empty ∨ T.st = .filling →
        MakesThread (.send x) s i ti { t with park := .retry (.tileNot h [.empty, .filling]) }) ∧
      (T.st = .ready ∨ T.st = .draining → T.kind = 2 → MakesThread (.send x) s i ti (t.fault i.ctx .tilestate 4)) ∧
      (T.st = .ready ∨ T.st = .draining → T.kind ≠ 2 → ¬ known → MakesThread (.send x) s i ti (t.fault i.ctx .fabric 1)) ∧
      (T.st = .ready ∨ T.st = .draining → T.kind ≠ 2 → known → goes))) ∧
  (∀ (s : State) (bid ti n : Nat),
    (s.readyEntries bid ti = [] → State.fireReady n bid ti s = s) ∧
    (∀ e es t, s.readyEntries bid ti = e :: es → exec (.workEntryFire e.eid) s = .next t →
      State.fireReady (n + 1) bid ti s = State.fireReady n bid ti t) ∧
    (∀ e, e ∈ s.readyEntries bid ti ↔ e ∈ s.fab.entries ∧ e.bid = some bid ∧ e.ti = some ti ∧ s.entryReady e = true))

/-- R270, R271, R277, R278: `rpost` posts the receive of its record, or lands the unexpected message that matches it and
arrived first; `wpost` stores the entry of its record with its threshold. Each takes its counter's number. A record of
`rpost` that is malformed traps RECV with the subcode that R288 gives its field, one of `wpost` FABRIC 3, and where the die holds its
limit the thread waits. A receive into a tile that is FREE traps TILESTATE 2, into one that is ENGAGED TOKEN 1, and into one that drains waits;
a receive into a tensor reads the layout record that it names, and traps LAYOUT 4 where dimension 0 is not as R159 asks. The
record of `wpost` is read before its address is judged, which traps MISALIGN 2 unless it is a multiple of 64. Both instructions
wait for the `red`s of the thread to windows (R266).
Where the manual leaves a point open, the model's choice holds: log entries 17, 55 and 66. -/
def Obligations.ReceivesAndEntriesArePosted : Prop :=
  (∀ (x : FormX) (s s1 : State) (i : Iss) (ti : Nat) (t : Thread) (r : List Byte), Alone s (rpostSig x) i ti t →
    let ea := pairAt i.warp.w t x.a.toNat
    let h := field r 13 1
    let ctr := FormX.ctr x
    let posts (s2 : State) (tile : Option Nat) (lay : Option Layout) (origin : List Nat) : Prop :=
      let held := (s2.fab.recvs.filter (fun q => q.die == i.blk.die)).length
      let s3 := s2.modCtr i.ctx.num i.blk.die (some i.blk.bid) ctr (fun y => { y with i := y.i + 1 })
      (4096 ≤ held → exec (.rpost x) s = .next (s2.modThread i.blk.bid ti (fun u => { u with park := .retry .recvRoom }))) ∧
      (held < 4096 → exec (.rpost x) s = .next ((({ s3 with nextId := s3.nextId + 1 } : State).post
        { rid := s3.nextId, ctx := i.ctx.num, die := i.blk.die, bid := i.blk.bid, src := BitVec.ofNat 32 (field r 0 4),
          tag := BitVec.ofNat 32 (field r 4 4), mask := BitVec.ofNat 32 (field r 8 4), tile := tile, lay := lay,
          origin := origin, max := field r 16 8, status := BitVec.ofNat 64 (field r 32 8), ctr := ctr,
          num := (s2.ctr i.ctx.num i.blk.die (some i.blk.bid) ctr).i + 1, st := .posted, mid := none, from_ := 0, mtag := 0,
          mlen := 0, landed := 0, flags := 0, node := s3.nodeOf i.blk.lid } i.ctx.jobid).modThread i.blk.bid ti (fun u => u.advance x.sw 8)))
    (t.reds ≠ [] → MakesThread (.rpost x) s i ti { t with park := .retry .redsDone }) ∧
    (t.reds = [] → ((s.settleRun (rpostSig x) i).drainOf i.blk.bid ti).readRecord i ea 64 1 = (s1, .inr r) →
    (∀ n, recvFate s1 i.blk.bid r ea (x.b != 0xFF) = some n → exec (.rpost x) s = .next (s1.faultThread i ti .recv n)) ∧
    (recvFate s1 i.blk.bid r ea (x.b != 0xFF) = none → field r 12 1 = 0 →
      s1.thread? i.blk.bid ti = some t →
      ((s1.tile i.blk.bid h).st = .free → exec (.rpost x) s = .next (s1.faultThread i ti .tilestate 2)) ∧
      ((s1.tile i.blk.bid h).st = .engaged → exec (.rpost x) s = .next (s1.faultThread i ti .token 1)) ∧
      ((s1.tile i.blk.bid h).st = .draining → exec (.rpost x) s =
        .next (s1.modThread i.blk.bid ti (fun u => { u with park := .retry (.tileNot h [.draining]) }))) ∧
      ((s1.tile i.blk.bid h).st = .empty ∨ (s1.tile i.blk.bid h).st = .ready ∨ (s1.tile i.blk.bid h).st = .filling →
        posts s1 (some h) none [])) ∧
    (recvFate s1 i.blk.bid r ea (x.b != 0xFF) = none → field r 12 1 = 1 →
      (∀ s2 f, s1.readLayout i (BitVec.ofNat 64 (field r 24 8)) = (s2, .inl f) → f.f.isHold = false →
        exec (.rpost x) s = .next (s2.faultThread i ti f.f.code f.f.sub f.va)) ∧
      (∀ s2 l, s1.readLayout i (BitVec.ofNat 64 (field r 24 8)) = (s2, .inr l) →
        let ok : Bool := dim0Ok l (readSpec i.warp.w t x.b.toNat).toNat 0 (fmtBlock l.fmt) false
        (ok = false → exec (.rpost x) s = .next (s2.faultThread i ti .layout 4)) ∧
        (ok = true → posts s2 none (some l)
          ((List.range 7).map (fun k => (readSpec i.warp.w t (x.b.toNat + k)).toNat))))))) ∧
  (∀ (s : State) (bid : Nat) (r : List Byte) (va : DWord) (octet : Bool), r.length = 64 →
    let kind := field r 12 1
    let h := field r 13 1
    let src := field r 0 4
    let fields : Prop := kind ≤ 1 ∧ h ≤ 63 ∧ (kind = 1 → h = 0) ∧ field r 14 2 = 0 ∧ (kind = 0 → field r 24 8 = 0) ∧
      field r 40 24 = 0 ∧ (src < 32768 ∨ src = 0xFFFFFFFF)
    let max : Prop := field r 16 8 % 128 = 0 ∧ field r 16 8 ≤ 0xFFFFFF80
    let places : Prop := va.toNat % 64 = 0 ∧ field r 32 8 % 32 = 0 ∧ (kind = 1 → field r 24 8 % 128 = 0)
    let plain : Prop := kind = 0 → (s.tile bid h).st = .free ∨ (s.tile bid h).kind = 0
    let fate := recvFate s bid r va octet
    (¬ fields → fate = some 1) ∧ (fields → ¬ max → fate = some 2) ∧ (fields → max → ¬ places → fate = some 3) ∧
    (fields → max → places → ¬ plain → fate = some 4) ∧
    (fields → max → places → plain → (octet = true ↔ kind = 0) → fate = some 5) ∧
    (fields → max → places → plain → (octet = true ↔ kind = 1) → fate = none)) ∧
  (∀ (s : State) (r : Recv) (job : Word),
    let ms := (s.unexpected r.die).filter (fun m => m.job == job && matchesMsg r.src r.tag r.mask m)
    let s1 := s.modFab (fun f => { f with recvs := f.recvs ++ [r] })
    (ms = [] → s.post r job = s1) ∧
    (ms ≠ [] → ∃ m ∈ ms, (∀ o ∈ ms, m.order ≤ o.order) ∧ s.post r job = s1.land m r)) ∧
  (∀ (src tag mask : Word) (m : Msg), matchesMsg src tag mask m = true ↔
    (src = 0xFFFFFFFF ∨ src.toNat = m.src) ∧ (m.tag ^^^ tag) &&& mask = 0) ∧
  (∀ (x : FormX) (s s1 : State) (i : Iss) (ti : Nat) (t : Thread) (r : List Byte), Alone s (wpostSig x) i ti t →
    let ea := pairAt i.warp.w t x.a.toNat
    (t.reds ≠ [] → MakesThread (.wpost x) s i ti { t with park := .retry .redsDone }) ∧
    (t.reds = [] → ∀ u f, ((s.settleRun (wpostSig x) i).drainOf i.blk.bid ti).readRecord i ea 64 1 = (u, .inl f) →
      f.isHold = false → exec (.wpost x) s = .next (u.faultThread i ti f.code f.sub ea)) ∧
    (t.reds = [] → ((s.settleRun (wpostSig x) i).drainOf i.blk.bid ti).readRecord i ea 64 1 = (s1, .inr r) →
    (ea.toNat % 64 ≠ 0 → exec (.wpost x) s = .next (s1.faultThread i ti .misalign 2 ea)) ∧
    (ea.toNat % 64 = 0 → parseEntry s1 r = none → exec (.wpost x) s = .next (s1.faultThread i ti .fabric 3)) ∧
    (∀ e, ea.toNat % 64 = 0 → parseEntry s1 r = some e →
      let held := (s1.fab.entries.filter (fun q => q.die == i.blk.die)).length
      let ctr := FormX.ctr x
      let s2 := s1.modCtr i.ctx.num i.blk.die (some i.blk.bid) ctr (fun y => { y with i := y.i + 1 })
      (8192 ≤ held → exec (.wpost x) s = .next (s1.modThread i.blk.bid ti (fun u => { u with park := .retry .workRoom }))) ∧
      (held < 8192 → exec (.wpost x) s = .next ((({ s2 with nextId := s2.nextId + 1 } : State).modFab (fun f =>
        { f with entries := f.entries ++ [{ e with
            eid := s2.nextId, die := i.blk.die, ctx := i.ctx.num, bid := some i.blk.bid, ti := some ti,
            slot := i.blk.slots.getD e.slot.toNat 0, key := i.blk.seed, threshold := pairAt i.warp.w t x.b.toNat, ctr := ctr,
            num := (s1.ctr i.ctx.num i.blk.die (some i.blk.bid) ctr).i + 1, lnode := s2.nodeOf i.blk.lid }] })).modThread
              i.blk.bid ti (fun u => u.advance x.sw 8)))))) ∧
  (∀ (s : State) (r : List Byte) (e : WorkEnt), parseEntry s r = some e →
    e.kind = field r 0 1 ∧ e.kind ≤ 2 ∧ e.trigger = field r 2 2 ∧ e.remote = field r 4 4 ∧ e.src.toNat = field r 8 8 ∧
    e.dst.toNat = field r 16 8 ∧ e.len = field r 24 8 ∧ e.rctr = field r 32 2 ∧ e.amount = field r 36 4 ∧
    e.src.toNat % 128 = 0 ∧ e.len % 128 = 0 ∧ e.remote < 32768 ∧ s.plat.present (e.remote / 8) = true ∧ e.st = .armed)

/-- R286, R287: `rcancel` parks its thread past the instruction until it is answered: a posted receive of its counter and
number leaves, its status record, if it has one, written with flag 1 and nothing landed, and its number is done; the predicate tells
whether there was one. A status record that faults is held and reported (R373), and one homed in another package is done once its
home answers. `rprobe` delivers the unexpected message that matches and
arrived first, and `fstat` its item, as V-class results.
Where the manual leaves a point open, the model's choice holds: log entries 10, 13 and 74. -/
def Obligations.FabricQueriesAreAnswered : Prop :=
  (∀ x : FormX, Results (.rcancel x) (rcancelSig x) (fun _ i t =>
    { t with pc := t.pc + 8, park := .cancel (FormX.ctr x) (pairAt i.warp.w t x.b.toNat) x.d.toNat, mark := x.sw, back := 8 })) ∧
  (∀ (s : State) (bid ti pd : Nat) (b : Block) (t : Thread) (c : CtrRef) (num : DWord), s.block? bid = some b →
    b.threads[ti]? = some t → t.park = .cancel c num pd →
    let hit := s.fab.recvs.find? (fun r =>
      r.ctx == b.ctx && r.die == b.die && r.ctr == c && r.num == num && (c.net || r.bid == bid) && r.st == .posted)
    (hit = none → exec (.rcancelAnswer bid ti) s = .next (s.modThread bid ti (fun u => (u.setP pd false).release))) ∧
    (∀ r, hit = some r →
      exec (.rcancelAnswer bid ti) s = .next ((s.cancelRecv r).modThread bid ti (fun u => (u.setP pd true).release)))) ∧
  (∀ (s : State) (r : Recv),
    let s0 := s.modRecv r.rid (fun _ => { r with st := .recordHeld, from_ := 0, mtag := 0, mlen := 0, landed := 0, flags := 2 })
    let leaves (y : State) : State := ((y.modFab (fun f => { f with recvs := f.recvs.filter (fun q => q.rid != r.rid) })).doneNum
      r.ctx r.die (some r.bid) (some r.ctr) r.num).reapMsgs
    let record := s0.writeRecord r.ctx r.die r.status (statusBytes 0 0 0 0 2) (.recv r.rid)
    (r.status = 0 → s.cancelRecv r = leaves s0) ∧
    (r.status ≠ 0 → ∀ y, record = (y, none) →
      (y.writesOpen (.recv r.rid) = false → s.cancelRecv r = leaves y) ∧
      (y.writesOpen (.recv r.rid) = true →
        s.cancelRecv r = y.modRecv r.rid (fun q => { q with st := .recordOut, flags := 2, landed := 0 }))) ∧
    (r.status ≠ 0 → ∀ y f, record = (y, some f) →
      let held := y.modRecv r.rid (fun q => { q with st := .recordHeld, flags := 2, landed := 0 })
      (f.isHold = true → s.cancelRecv r = held) ∧
      (f.isHold = false → s.cancelRecv r =
        held.opReport r.ctx r.die (some r.bid) ⟨f, r.status⟩ (some r.ctr) r.num (.recv r.rid) (some r.node)))) ∧
  (∀ (x : FormX) (s : State) (i : Iss) (ti : Nat) (t : Thread), Performs s (rprobeSig x) i ti t →
    let r (k : Nat) : Word := readSpec i.warp.w t (x.a.toNat + k)
    let ms := (s.unexpected i.blk.die).filter (fun m => m.job == i.ctx.jobid && matchesMsg (r 0) (r 1) (r 2) m)
    let gives (ws : List Word) : Prop := MakesThread (.rprobe x) s i ti
      ((t.addResult .ready ((wrs x.d.toNat ws).map RegWrite.dest) (wrs x.d.toNat ws)).advance x.sw 8)
    x.a ≠ 0xFF →
    (ms = [] → gives [0xFFFFFFFF, 0, 0, 0]) ∧
    (ms ≠ [] → ∃ m ∈ ms, (∀ o ∈ ms, m.order ≤ o.order) ∧
      gives [BitVec.ofNat 32 m.src, m.tag, BitVec.ofNat 32 m.len, if m.len ≤ 16384 then 1 else 3])) ∧
  (∀ (x : FormX) (s : State) (i : Iss) (ti : Nat) (t : Thread), Performs s (fstatSig x) i ti t →
    let st := (i.ctx.stats.find? (fun y => y.die == i.blk.die)).getD
      { die := i.blk.die, refused := 0, truncated := 0, abandoned := 0 }
    let val : Nat := match x.fld 53 46 with
      | 0 => s.plat.fuses.pkg * 8 + i.blk.die
      | 1 => i.ctx.jobid.toNat
      | 2 => s.bufUsed i.blk.die
      | 3 => (s.unexpected i.blk.die).length
      | 4 => (s.fab.recvs.filter (fun q => q.die == i.blk.die)).length
      | 5 => (s.fab.entries.filter (fun q => q.die == i.blk.die)).length
      | 6 => st.refused
      | 7 => st.truncated
      | 8 => st.abandoned
      | 9 => s.plat.replayed
      | 10 => (s.plat.ports.filter (fun p => (p.lanes.filter id).length == 1)).length
      | _ => (i.ctx.once.filter (fun o => o.ep == s.plat.fuses.pkg * 8 + i.blk.die)).length
    let ws := wrs x.d.toNat (words2 (BitVec.ofNat 64 val))
    MakesThread (.fstat x) s i ti ((t.addResult .ready (ws.map RegWrite.dest) ws).advance x.sw 8))

/-- R264 to R268: `rred` narrows the block of its quad to MXFP8-E4M3 and sends it to its target with the counter's number;
a once tag of 0 traps FABRIC 7 and one toward a window FABRIC 8, in every thread of the quad. The quad waits for the `red`s of its
threads to windows, and after a fence at package scope or wider for the acknowledgements of their writes to other packages; its
threads' stores are performed before it (R214, R217, R252). A contribution to a window waits for the earlier rounds of its block
(R212), until every member of its leaf has contributed, then until every leaf has its result. A hop adds its inputs in the order of
their endpoints and narrows the sums, and forwards a single one (R265); the last hop's result goes to every member. The final hop
adds the block to its target once, FP32 or MXFP8-E4M3 (R266), and is done. A once tag seen before applies nothing, and where no context of its job can take a tagged write it
is refused for good (R251). A write homed in another package is sent to it, a once-tagged one with its job id, and is performed
once that answers (R251, R252). A write to a package that no route reaches is held and reported (R254), and so is one at a marked
target and a round whose window's table is marked (R336), with the counter and number of its work entry, if it has one, and its
launch's node (R272, R311); one on a stack that is not ready waits (R339).
Where the manual leaves a point open, the model's choice holds: log entries 8, 13, 17, 56 (a trapping thread of the quad gives
+0), 64, 66 and 72. -/
def Obligations.ReducingWritesApplyOnce : Prop :=
  (∀ (x : FormX) (s s1 : State) (i : Iss) (t : Thread) (q : List Thread) (p : Pa) (wide : Bool), s.iss? = some i →
    parts (rredSig x) s.tick i = t :: q → (∀ u ∈ q, u.slot / 4 = t.slot / 4) → ((t :: q).map i.blk.tindex).Nodup →
    let ea := pairAt i.warp.w t x.a.toNat + (readSpec i.warp.w t x.b.toNat).signExtend 64
    let slot := i.blk.slots.getD (x.fld 48 46) 0
    let once := if x.fld 50 50 = 1 then some (pairAt i.warp.w t x.c.toNat) else none
    let aligned : Prop := ea.toNat % (if wide then 128 else 32) = 0
    let quad (s2 : State) (f : State → Nat → State) : Prop :=
      exec (.rred x) s = .next (((t :: q).map i.blk.tindex).foldl f s2)
    (s.settleRun (rredSig x) i).redTarget i.ctx i.blk.site ea = (s1, .inr (p, wide)) →
    (¬ aligned → quad s1 (fun s ti => s.faultThread i ti .misalign 2 ea)) ∧
    (∀ f, aligned → redSlotFate slot = some f → quad s1 (fun s ti => s.faultThread i ti .format f.sub)) ∧
    (aligned → redSlotFate slot = none → once = some 0 → quad s1 (fun s ti => s.faultThread i ti .fabric 7)) ∧
    (aligned → redSlotFate slot = none → once ≠ none → once ≠ some 0 → p.win = true →
      quad s1 (fun s ti => s.faultThread i ti .fabric 8)) ∧
    let ok : Prop := aligned ∧ redSlotFate slot = none ∧ once ≠ some 0 ∧ (once ≠ none → p.win = false)
    let behind := ((t :: q).filter (fun u => u.reds != [])).map i.blk.tindex
    let unheard := ((t :: q).filter (fun u => u.fenced.any (2 ≤ ·) && s1.ackOpen i.blk.bid (i.blk.tindex u))).map i.blk.tindex
    (ok → behind ≠ [] → quad s1 (fun s ti => s.modThread i.blk.bid ti (fun u =>
      { u with park := .retry (if behind = [ti] then .redsDone else .after behind) }))) ∧
    (ok → behind = [] → unheard ≠ [] → quad s1 (fun s ti =>
      (unheard.foldl (fun y w => y.drainOf i.blk.bid w) s).modThread i.blk.bid ti (fun u =>
        { u with park := .retry (.acked unheard) }))) ∧
    (ok → behind = [] → unheard = [] →
      let vs : List Val := (List.range 32).map (fun e =>
        match (t :: q).find? (fun u => u.slot == t.slot / 4 * 4 + e / 8) with
        | some u => f32 (readSpec i.warp.w u (x.d.toNat + e % 8))
        | none => .fin false 0 0)
      let scale := scaleRule (amaxOf vs) 0x10 0
      let codes := vs.zipIdx.map (fun (v, e) => BitVec.ofNat 8 (quantise 0x10 scale (slotMode slot i.blk.seed
        (BitVec.ofNat 64 (ea.toNat / (if wide then 128 else 32) * 32 + e))) (slotSat slot) v))
      let drained := ((t :: q).map i.blk.tindex).foldl (fun y ti => y.drainOf i.blk.bid ti) s1
      let s2 := match ((t :: q).filterMap (fun u => u.fenced)).max? with
        | some k => drained.release i.blk k
        | none => drained
      let ctr := FormX.ctr x
      let s3 := s2.modCtr i.ctx.num i.blk.die (some i.blk.bid) ctr (fun y => { y with i := y.i + 1 })
      quad (s3.reduceTo p wide codes (BitVec.ofNat 8 scale) once i.blk.die i.ctx (some i.blk.bid) (some i.blk.lid) (some ctr)
          ((s2.ctr i.ctx.num i.blk.die (some i.blk.bid) ctr).i + 1) none (s3.nodeOf i.blk.lid))
        (fun s ti => s.modThread i.blk.bid ti (fun u => u.advance x.sw 8)))) ∧
  (∀ (s : State) (win off round : Nat) (leaf : Option Nat),
    let first := s.fab.contribs.find? (fun c =>
      c.win == win && c.off == off && c.round == round && c.gid == 0 && c.hop != 1 && c.ep / 8 == s.plat.fuses.pkg)
    let die := (first.map (fun c => c.ep % 8)).getD 0
    let turn : Prop := ∀ c ∈ s.fab.contribs, c.win = win → c.off = off → round ≤ c.round
    (¬ turn → exec (.reductionHop win off round leaf) s = .next s) ∧
    (∀ h, turn → windowHold s (engineSite die) win = some h → exec (.reductionHop win off round leaf) s = .next (s.askFor die h)) ∧
    (turn → windowHold s (engineSite die) win = none → windowMarked s win = true →
      (s.reported (.round win off round) = true ∨ first = none → exec (.reductionHop win off round leaf) s = .next s) ∧
      (∀ c, s.reported (.round win off round) = false → first = some c →
        let own := s.numOf c.entry c.ctr c.num
        exec (.reductionHop win off round leaf) s =
          .next (s.opReport c.ctx (c.ep % 8) c.bid ⟨⟨.dataerr, 0⟩, 0⟩ own.1 own.2 (.round win off round) (some c.node))))) ∧
  (∀ (s : State) (win off round l : Nat) (w : Window), windowMarked s win = false → window? s win = some w →
    windowHold s (engineSite (((s.ownContrib win off round).map (fun c => c.ep % 8)).getD 0)) win = none →
    (∀ c ∈ s.fab.contribs, c.win = win → c.off = off → round ≤ c.round) →
    let eps := (w.members.filter (fun m => m.2 == l)).map (fun m => m.1)
    let leaves := (w.members.map (fun m => m.2)).eraseDups
    let cs := (s.fab.at_ win off round 0).filter (fun c => eps.contains c.ep)
    let spine := s.fab.at_ win off round 1
    ((∃ e ∈ eps, ∀ c ∈ cs, c.ep ≠ e) → exec (.reductionHop win off round (some l)) s = .next s) ∧
    ((∀ e ∈ eps, ∃ c ∈ cs, c.ep = e) → cs ≠ [] → leaves.length ≤ 1 →
      ∃ c ∈ cs, (∀ o ∈ cs, c.ep ≤ o.ep) ∧ exec (.reductionHop win off round (some l)) s =
        .next (s.toMembers w win off round (hopBlock (hopInputs cs)) c)) ∧
    ((∀ e ∈ eps, ∃ c ∈ cs, c.ep = e) → cs ≠ [] → 1 < leaves.length →
      ∃ c ∈ cs, (∀ o ∈ cs, c.ep ≤ o.ep) ∧ exec (.reductionHop win off round (some l)) s = .next (s.modFab (fun f =>
        { f with contribs :=
          (f.contribs.map (fun y => if y.win = win ∧ y.off = off ∧ y.round = round ∧ y.hop = 0 ∧ eps.contains y.ep = true
            then { y with hop := 2 } else y)) ++
          [{ c with hop := 1, codes := (hopBlock (hopInputs cs)).2, scale := (hopBlock (hopInputs cs)).1, ctr := none,
                    bid := none, lid := none, entry := none }] }))) ∧
    (spine.length < leaves.length → exec (.reductionHop win off round none) s = .next s) ∧
    (∀ c rest, spine = c :: rest → leaves.length ≤ spine.length → 1 < leaves.length →
      exec (.reductionHop win off round none) s = .next (s.toMembers w win off round (hopBlock (hopInputs spine)) c))) ∧
  ((∀ cs : List Contrib, ∃ ds : List Contrib, ds.Perm cs ∧ ds.Pairwise (fun a b => a.ep ≤ b.ep) ∧
     hopInputs cs = ds.map (fun c => (c.scale, c.codes))) ∧
   (∀ x : Byte × List Byte, hopBlock [x] = x) ∧
   (∀ (x y : Byte × List Byte) (zs : List (Byte × List Byte)) (e : Nat), (∀ z ∈ x :: y :: zs, z.2.length = 32) → e < 32 →
     let val (z : Byte × List Byte) (k : Nat) : Val := blockVal 0x10 z.1.toNat (z.2.getD k 0).toNat
     let sum (k : Nat) : Val := (y :: zs).foldl (fun v z => f32 (rne32 (v.add (val z k)))) (f32 (rne32 (val x k)))
     let scale := scaleRule (amaxOf ((List.range 32).map sum)) 0x10 0
     (hopBlock (x :: y :: zs)).1 = BitVec.ofNat 8 scale ∧
     (hopBlock (x :: y :: zs)).2[e]? = some (BitVec.ofNat 8 (quantise 0x10 scale .rne true (sum e))))) ∧
  (∀ (s : State) (w : Window) (win off round : Nat) (r : Byte × List Byte) (c : Contrib),
    let o := (s.fab.contribs.find? (fun y => y.win == win && y.off == off && y.round == round && y.gid == 0 && y.hop != 1 &&
      y.ep / 8 == s.plat.fuses.pkg)).getD c
    let s' := s.toMembers w win off round r c
    s'.fab.reds = s.fab.reds ++ w.members.zipIdx.map (fun (m, k) =>
      { rid := s.nextId + 1 + k, ctx := o.ctx, die := o.ep % 8, job := 0, from_ := none, pa := w.member m.1 off, fp32 := w.fmt == 0,
        codes := r.2, scale := r.1, once := none, group := some s.nextId, bid := o.bid, lid := o.lid, ctr := o.ctr, num := o.num,
        entry := o.entry, held := false, node := o.node }) ∧
    s'.fab.contribs = (s.fab.contribs.filter (fun y =>
      !(y.win == win && y.off == off && y.round == round && y.hop == 1 && y.gid == 0))).map (fun y =>
        if y.win = win ∧ y.off = off ∧ y.round = round ∧ y.gid = 0 then { y with gid := s.nextId, hop := 2 } else y) ∧
    s'.mem = s.mem ∧ s'.blocks = s.blocks) ∧
  (∀ (s : State) (rid : Nat) (r : Reduction), s.red? rid = some r →
    r.away = true ∨ s.reported (.reduction rid) = true ∨ s.redWaits r = true → exec (.finalHop rid) s = .next s) ∧
  (∀ (s : State) (rid : Nat) (r : Reduction), s.red? rid = some r → r.away = false → s.reported (.reduction rid) = false →
    s.redWaits r = false → s.cutOff (bitsAt r.pa 40 12) = true →
    exec (.finalHop rid) s = .next (s.holdRed r ⟨.fabric, 4⟩ (.reduction rid))) ∧
  (∀ (s : State) (rid : Nat) (r : Reduction), s.red? rid = some r → r.away = false → s.reported (.reduction rid) = false →
    s.redWaits r = false → s.cutOff (bitsAt r.pa 40 12) = false → s.elsewhere r.pa = true →
    let slot := freeSlot ((s.fab.reds.filter (fun o => o.die == r.die && o.away)).map (fun o => o.slot))
    (8192 ≤ slot → exec (.finalHop rid) s = .next s) ∧
    (slot < 8192 → exec (.finalHop rid) s = .next
      (((s.modRed r.rid (fun o => { o with away := true, slot := slot })).modPeer (fun y => y.drop (lineOf r.pa))).sendPacket
        { kind := .reducingWrite
          flags := opFlags ((if r.fp32 = true then 1 else 0) + (if r.once = none then 0 else 2)) slot
          src := s.plat.fuses.pkg * 8 + r.die, dst := r.pa / 2 ^ 37
          job := if r.once = none then 0 else r.job
          order := 0, field := BitVec.ofNat 64 r.pa
          lines := [{ data := BitVec.ofNat 1024 (fromBytes r.codes + (r.once.getD 0).toNat * 2 ^ 256), side := r.scale.setWidth 64 }] }))) ∧
  (∀ (s : State) (rid : Nat) (r : Reduction), s.red? rid = some r → r.away = false → s.reported (.reduction rid) = false →
    s.redWaits r = false → s.cutOff (bitsAt r.pa 40 12) = false → s.elsewhere r.pa = false →
    let applied (s1 : State) : State := (s1.finalApply r.pa r.fp32 r.scale r.codes).redGone r
    let own := s.numOf r.entry r.ctr r.num
    (r.once = none → s.mem.marked (lineOf r.pa) = false → exec (.finalHop rid) s = .next (applied s)) ∧
    (r.once = none → s.mem.marked (lineOf r.pa) = true →
      exec (.finalHop rid) s = .next (s.holdRed r ⟨.dataerr, 0⟩ (.reduction rid))) ∧
    (∀ tag c, r.once = some tag → s.ctxOfJob r.job = some c →
      let pair : OnceTag := { ep := r.pa / 2 ^ 37, tag := tag, pa := r.pa }
      let full : Prop := 1048576 ≤ (c.once.filter (fun o => o.ep == r.pa / 2 ^ 37)).length
      (pair ∈ c.once → exec (.finalHop rid) s = .next (s.redGone r)) ∧
      (pair ∉ c.once → full → exec (.finalHop rid) s = .next (s.holdRed r ⟨.fabric, 6⟩ .none)) ∧
      (pair ∉ c.once → ¬ full → s.mem.marked (lineOf r.pa) = true →
        exec (.finalHop rid) s = .next (s.holdRed r ⟨.dataerr, 0⟩ (.reduction rid))) ∧
      (pair ∉ c.once → ¬ full → s.mem.marked (lineOf r.pa) = false → exec (.finalHop rid) s =
        .next (applied (s.modCtx c.num (fun y => { y with once := pair :: y.once }))))) ∧
    (∀ tag, r.once = some tag → s.ctxOfJob r.job = none →
      (r.from_ = none → exec (.finalHop rid) s =
        .next ((s.opReport r.ctx r.die r.bid ⟨⟨.fabric, 5⟩, 0⟩ own.1 own.2 .none (some r.node)).redGone r)) ∧
      (∀ ep, r.from_ = some ep → exec (.finalHop rid) s = .next ((s.sendPacket
        { kind := .refusal, flags := opFlags 3 r.slot, src := r.pa / 2 ^ 37, dst := ep, job := r.job, order := 0,
          field := BitVec.ofNat 64 r.pa, lines := [] }).modFab (fun f =>
            { f with reds := f.reds.filter (fun o => o.rid != r.rid) }))))) ∧
  (∀ (s : State) (r : Reduction) (f : MemFault) (tg : RepTarget),
    let s1 := s.modRed r.rid (fun o => { o with held := true })
    let own := s1.numOf r.entry r.ctr r.num
    (r.held = true → s.holdRed r f tg = s) ∧
    (r.held = false → r.from_ = none →
      s.holdRed r f tg = s1.opReport r.ctx r.die r.bid ⟨f, 0⟩ own.1 own.2 tg (some r.node))) ∧
  (∀ (s : State) (pa : Nat) (scale : Byte) (codes : List Byte) (e : Nat), s.memOk → s.churn = [] → codes.length = 32 → e < 32 →
    (BitVec.ofNat 32 ((s.finalApply pa true scale codes).mem.num (pa + 4 * e) 4) =
      rne32 ((f32 (BitVec.ofNat 32 (s.mem.num (pa + 4 * e) 4))).add (blockVal 0x10 scale.toNat (codes.getD e 0).toNat))) ∧
    (∀ a, a < pa ∨ pa + 128 ≤ a → (s.finalApply pa true scale codes).mem.byte a = s.mem.byte a) ∧
    (pa % 32 = 0 →
      let s' := s.finalApply pa false scale codes
      let blk := pa % 128 / 32
      let sum (k : Nat) : Val := f32 (rne32 ((blockVal 0x10 (s.mem.side (lineOf pa) blk).toNat (s.mem.byte (pa + k)).toNat).add
        (blockVal 0x10 scale.toNat (codes.getD k 0).toNat)))
      let sc := scaleRule (amaxOf ((List.range 32).map sum)) 0x10 0
      s'.mem.byte (pa + e) = BitVec.ofNat 8 (quantise 0x10 sc .rne true (sum e)) ∧
      s'.mem.side (lineOf pa) blk = BitVec.ofNat 8 sc ∧
      (∀ a, a < pa ∨ pa + 32 ≤ a → s'.mem.byte a = s.mem.byte a) ∧
      (∀ line b, b < 8 → (line, b) ≠ (lineOf pa, blk) → s'.mem.side line b =
        if line = lineOf pa ∧ 4 ≤ b then 0 else s.mem.side line b)))

/-- R273 to R276, R279 to R281: a message in flight whose stream is free reaches its destination once its payload is read:
it lands in the first posted receive that matches it, else is kept while there is room, else is refused and retried after
its back-off, and so while the destination's Skimmer is not ready (R339); without a context of its job it is refused for good
(R251). A rendezvous payload is pulled once matched, and a send
is complete once its message is taken, and its landing is done and performed where it is a rendezvous; one from another package is
then answered with an acknowledgement.
Where the manual leaves a point open, the model's choice holds: log entry 13. -/
def Obligations.MessagesMatchOrWait : Prop :=
  (∀ (s : State) (mid : Nat) (m : Msg), s.msg? mid = some m →
    (m.st ≠ .flight ∨ m.stalled = true ∨ s.streamBusy m = true → exec (.msgArrive mid) s = .next s) ∧
    (m.st = .flight → m.stalled = false → s.streamBusy m = false → m.unread = 0 ∨ 16384 < m.len →
      m.dst / 8 = s.plat.fuses.pkg →
      (s.ctxOfJob m.job = none → exec (.msgArrive mid) s = .next (s.refuseForGood m)) ∧
      (∀ c, s.ctxOfJob m.job = some c →
        (s.plat.rdymap.toNat.testBit (35 + m.dst % 8) = false → exec (.msgArrive mid) s = .next (s.refuse m)) ∧
        (s.plat.rdymap.toNat.testBit (35 + m.dst % 8) = true →
          let hit := s.fab.recvs.find? (fun r =>
            r.ctx == c.num && r.die == m.dst % 8 && r.st == .posted && matchesMsg r.src r.tag r.mask m)
          let room : Prop := (s.unexpected (m.dst % 8)).length < 16384 ∧
            (16384 < m.len ∨ s.bufUsed (m.dst % 8) + m.len ≤ s.bufSize (m.dst % 8))
          (∀ r, hit = some r → exec (.msgArrive mid) s = .next (s.land m r)) ∧
          (hit = none → room → exec (.msgArrive mid) s = .next (({ s with nextId := s.nextId + 1 } : State).modMsg mid (fun o =>
            { o with st := .unexpected, order := s.nextId }))) ∧
          (hit = none → ¬ room → exec (.msgArrive mid) s = .next (s.refuse m))))) ∧
    (m.st = .refused → m.src / 8 = s.plat.fuses.pkg → m.retryAt ≤ s.plat.time → s.streamBusy m = false →
      exec (.msgRetry mid) s = .next ((s.modMsg mid (fun o => { o with st := .flight })).msgGo { m with st := .flight })) ∧
    (m.st ≠ .refused ∨ m.src / 8 ≠ s.plat.fuses.pkg ∨ s.plat.time < m.retryAt ∨ s.streamBusy m = true →
      exec (.msgRetry mid) s = .next s) ∧
    (∀ rid, m.st = .matched rid → m.stalled = false → 16384 < m.len → m.unread ≠ 0 → m.src / 8 = s.plat.fuses.pkg →
      (∀ s1, s.gather m = (s1, none) → exec (.rendezvousPull mid) s = .next s1) ∧
      (∀ s1 m1 r, s.gather m = (s1, some m1) → s1.recv? rid = some r →
        exec (.rendezvousPull mid) s = .next (s1.landPulled m1 r))) ∧
    (m.sent = true ∨ s.sendDone m = false → exec (.sendComplete mid) s = .next s) ∧
    (m.sent = false → s.sendDone m = true → m.src / 8 = s.plat.fuses.pkg → exec (.sendComplete mid) s =
      .next (((s.modMsg mid (fun o => { o with sent := true })).doneNum m.ctx (m.src % 8) m.bid m.ctr m.num).reapMsgs)) ∧
    (m.sent = false → s.sendDone m = true → m.src / 8 ≠ s.plat.fuses.pkg → m.len ≤ 16384 → exec (.sendComplete mid) s =
      .next (((s.modMsg mid (fun o => { o with sent := true })).answer m .acknowledge 3).reapMsgs)) ∧
    (m.src / 8 = s.plat.fuses.pkg → s.refuse m = (s.modMsg mid (fun o =>
      { o with st := .refused, tries := o.tries + 1,
               retryAt := s.plat.time + min (2000 * 2 ^ min (o.tries + 1) 10) 1000000 })).stat
        m.ctx (m.src % 8) (fun y => { y with refused := y.refused + 1 })) ∧
    (m.src / 8 ≠ s.plat.fuses.pkg → s.refuse m =
      (s.modMsg mid (fun o => { o with st := .refused, data := [] })).answer m .refusal 0)) ∧
  (∀ (s : State) (m : Msg), m.len ≤ 16384 →
    (s.sendDone m = true ↔ m.st = .taken ∨ m.st = .unexpected ∨ ∃ rid, m.st = .matched rid ∧ m.unread = 0 ∧
      ∀ c ∈ s.copies, c.owner = .landing rid → (c.isDone = true ∧ s.writesOpen (.copy c.cid) = false) ∨ c.stalled = true)) ∧
  (∀ (s : State) (m : Msg), 16384 < m.len →
    (s.sendDone m = true ↔ m.st = .taken ∨ ∃ rid, m.st = .matched rid ∧ m.unread = 0 ∧
      ∀ c ∈ s.copies, c.owner = .landing rid → c.isDone = true ∧ s.writesOpen (.copy c.cid) = false)) ∧
  (∀ (s : State) (m : Msg) (r : Recv), s.recv? r.rid = some r → ∃ q, (s.land m r).recv? r.rid = some q ∧
    q.mid = some m.mid ∧ q.from_ = m.src ∧ q.mtag = m.tag ∧ q.mlen = m.len ∧ q.st = .landing)

/-- R272, R283: a receive whose landing is done frees its tile, marks a truncation in the tile's status and its own flags, writes
its status record, where it names one, and once that is performed its counter advances and the receive goes; a message cut short is no truncation (R274), and a landing cut short sets flag 2 (R284); a work entry fires once its trigger counter has reached its threshold, and is gone, with its advance sent, once
its transfer is done; an abandoned one is counted and advances nothing, and an advance that no route can carry is reported (R254). A counter advance reaches its counter, or is
reported where no context of its job is there (R251).
Where the manual leaves a point open, the model's choice holds: log entry 13. -/
def Obligations.ReceivesAndEntriesComplete : Prop :=
  (∀ (s : State) (rid : Nat) (r : Recv) (c : Copy), s.recv? rid = some r → r.st = .landing →
    s.copies.find? (fun o => o.owner == .landing rid) = some c →
    (c.isDone = false ∨ s.writesOpen (.copy c.cid) = true → exec (.receiveComplete rid) s = .next s) ∧
    (c.isDone = true → s.writesOpen (.copy c.cid) = false →
      let dropped : Prop := r.flags.toNat.testBit 3 = true
      let len : Nat := match r.mid.bind s.msg? with
        | some m => if m.cut = true then 128 * m.data.length else r.mlen
        | none => r.mlen
      let done (cut : Bool) (s1 : State) : Prop :=
        exec (.receiveComplete rid) s = .next ((if cut = true then
            s1.stat r.ctx r.die (fun x => { x with truncated := x.truncated + 1 }) else s1).recvRecord
          { r with landed := landedBytes r c
                   flags := r.flags ||| (if cut = true then 1 else 0) ||| (if c.short = true then 4 else 0) }).reapBlocks
      (len ≤ r.max → (dropped ∨ len ≤ 128 * s.roomOf r) → done false (s.finishTiles c)) ∧
      (r.max < len ∨ (¬ dropped ∧ 128 * s.roomOf r < len) →
        (∀ h, r.tile = some h → ¬ dropped →
          done true ((s.finishTiles c).modTile r.bid h (fun t => { t with truncated := true }))) ∧
        (r.tile = none ∨ dropped → done true (s.finishTiles c))))) ∧
  (∀ (s : State) (r : Recv) (c : Copy),
    let elems := (c.dsts.map (fun d => d.elems)).sum
    (∀ h, r.tile = some h → s.roomOf r = (s.tile r.bid h).lines.length ∧ landedBytes r c = elems) ∧
    (∀ l, r.tile = none → r.lay = some l → s.roomOf r = boxRows l.win * pitchOf l.fmt (l.win.headD 0) ∧
      landedBytes r c = (elems * fmtWidth l.fmt + 7) / 8)) ∧
  (∀ (s : State) (r : Recv),
    let gone (s1 : State) : State := ((s1.modFab (fun f => { f with recvs := f.recvs.filter (fun q => q.rid != r.rid) })).doneNum
      r.ctx r.die (some r.bid) (some r.ctr) r.num).reapMsgs
    (r.status = 0 → s.recvRecord r = gone s) ∧
    (∀ s1, r.status ≠ 0 → s.writeRecord r.ctx r.die r.status (toBytes 4 r.from_ ++ toBytes 4 r.mtag.toNat ++ toBytes 8 r.mlen ++
        toBytes 8 r.landed ++ toBytes 4 r.flags.toNat ++ toBytes 4 0) (.recv r.rid) = (s1, none) →
      (s1.writesOpen (.recv r.rid) = false → s.recvRecord r = gone s1) ∧
      (s1.writesOpen (.recv r.rid) = true → s.recvRecord r =
        s1.modRecv r.rid (fun q => { q with st := .recordOut, flags := r.flags, landed := r.landed }))) ∧
    (s.recv? r.rid = some r → r.st = .recordOut →
      (s.writesOpen (.recv r.rid) = true → exec (.receiveComplete r.rid) s = .next s) ∧
      (s.writesOpen (.recv r.rid) = false → exec (.receiveComplete r.rid) s = .next (gone s)))) ∧
  (∀ (s : State) (eid : Nat) (e : WorkEnt) (c : Context), s.ent? eid = some e → s.ctx? e.ctx = some c →
    let node := match e.node with
      | some n => n.2.2
      | none => e.lnode
    let due : Prop := e.st = .armed ∧ e.threshold.toNat ≤ (c.netCtr e.die e.trigger).c.toNat ∧
      (∀ o ∈ s.fab.entries, o.bid = e.bid → o.ti = e.ti → o.bid ≠ none → o.eid < e.eid → s.entryReady o = false) ∧
      (e.kind = 2 → s.sendsAt e.die < 1024)
    (¬ due → exec (.workEntryFire eid) s = .next s) ∧
    (due → e.kind = 0 →
      let line (va : DWord) : Place := .tensor
        { base := va, fmt := 0x07, samp := [1], ext := [128 * (e.len / 128)], stride := [0], win := [128 * (e.len / 128)] } [0]
      exec (.workEntryFire eid) s = .next
        (let s1 := s.modEnt e.eid (fun y => { y with st := .running })
         { s1 with
           nextId := s1.nextId + 1
           copies := s1.copies ++ [
             { cid := s1.nextId, clus := 0, handle := none, die := e.die, bay := 0, core := 48, bid := e.bid, lid := none,
               ctx := e.ctx, owner := .entry e.eid, key := 0, slot := 0, xf := .lines, src := line e.src, box := [e.len / 128],
               dsts := [{ place := line e.dst, pos := none, st := .accepted,
                          todo := (List.range (e.len / 128)).map (fun k => (k, k)), turned := false, elems := 0, later := [] }],
               ctr := some e.ctr, num := e.num, stalled := false, abandoned := false, short := false }] })) ∧
    (due → e.kind = 1 → exec (.workEntryFire eid) s =
      .next (State.entryBlocks (e.len / 128) (s.modEnt e.eid (fun y => { y with st := .running })) c e)) ∧
    (due → e.kind = 2 → exec (.workEntryFire eid) s =
      .next (let s1 := s.modEnt e.eid (fun y => { y with st := .running })
        ({ s1 with nextId := s1.nextId + 1 } : State).modFab (fun f => { f with msgs := f.msgs ++ [
          { mid := s1.nextId, job := c.jobid, ctx := e.ctx, src := s.plat.fuses.pkg * 8 + e.die, dst := e.remote,
            tag := loWord e.dst, len := e.len, slot := s1.sendSlot e.die, data := [], unread := e.len / 128, va := e.src,
            tile := none, bid := e.bid,
            lid := none, ctr := none, num := 0, entry := some e.eid, order := 0, st := .flight, tries := 0, retryAt := 0,
            sent := false, stalled := false, cut := false, node := node }] }))) ∧
    (s.entryDone e = false → exec (.workEntryDone eid) s = .next s) ∧
    (s.entryDone e = true ↔ e.abandoned = true ∨ (e.st = .running ∧
      (∀ o ∈ s.copies, o.owner = .entry e.eid → o.isDone = true ∧ s.writesOpen (.copy o.cid) = false) ∧
      (∀ r ∈ s.fab.reds, r.entry ≠ some e.eid) ∧ (∀ k ∈ s.fab.contribs, k.entry ≠ some e.eid) ∧
      ∀ m ∈ s.fab.msgs, m.entry = some e.eid → m.sent = true)) ∧
    let sf : State := (s.copies.filter (fun o => o.owner == .entry eid)).foldl State.finishTiles s
    (s.entryDone e = true → e.abandoned = false → e.rctr = 0xFFFF ∨ e.amount = 0 ∨ s.cutOff (e.remote / 8) = false →
      let gone (s1 : State) : State := (s1.modFab (fun f => { f with entries := f.entries.filter (fun o => o.eid != eid) })).doneNum
        e.ctx e.die e.bid (some e.ctr) e.num
      (e.rctr = 0xFFFF → exec (.workEntryDone eid) s = .next (gone sf)) ∧
      (e.rctr ≠ 0xFFFF → exec (.workEntryDone eid) s = .next (gone (sf.advanceAt
        { aid := 0, job := c.jobid, ctx := c.num, die := e.die, node := some node, ep := e.remote, ctr := e.rctr,
          amount := e.amount, bid := e.bid, lctr := some e.ctr, num := e.num })))) ∧
    (s.entryDone e = true → e.abandoned = true →
      exec (.workEntryDone eid) s = .next (((sf.stat e.ctx e.die (fun y => { y with abandoned := y.abandoned + 1 })).modFab (fun f =>
        { f with entries := f.entries.filter (fun o => o.eid != eid) })).doneNum e.ctx e.die e.bid (some e.ctr) e.num)) ∧
    (s.entryDone e = true → e.abandoned = false → e.rctr ≠ 0xFFFF → e.amount ≠ 0 → s.cutOff (e.remote / 8) = true →
      (s.reported (.entry eid) = true → exec (.workEntryDone eid) s = .next s) ∧
      (s.reported (.entry eid) = false → exec (.workEntryDone eid) s = .next (s.opReport e.ctx e.die e.bid ⟨⟨.fabric, 4⟩, 0⟩
        (some e.ctr) e.num (.entry eid) (some node))))) ∧
  (∀ (s : State) (a : Advance),
    let put (away : Bool) : State := ({ s with nextId := s.nextId + 1 } : State).modFab (fun f => { f with advances := f.advances ++
      [{ a with aid := s.nextId, away := away,
                slot := freeSlot ((s.fab.advances.filter (fun o => o.die == a.die && o.away)).map (fun o => o.slot)) }] })
    (a.amount = 0 → s.advanceAt a = s) ∧
    (a.amount ≠ 0 → a.ep / 8 = s.plat.fuses.pkg ∨ s.cutOff (a.ep / 8) = true → s.advanceAt a = put false) ∧
    (a.amount ≠ 0 → a.ep / 8 ≠ s.plat.fuses.pkg → s.cutOff (a.ep / 8) = false → s.advanceAt a = (put true).sendPacket
      { kind := .counterAdvance,
        flags := opFlags 0 (freeSlot ((s.fab.advances.filter (fun o => o.die == a.die && o.away)).map (fun o => o.slot))),
        src := s.plat.fuses.pkg * 8 + a.die, dst := a.ep, job := a.job, order := 0,
        field := BitVec.ofNat 64 (a.ctr + a.amount * 2 ^ 32), lines := [] })) ∧
  (∀ (s : State) (aid : Nat) (a : Advance), s.fab.advances.find? (fun y => y.aid == aid) = some a → a.aid = aid →
    let s1 := s.modFab (fun f => { f with advances := f.advances.filter (fun y => y.aid != aid) })
    (a.ep / 8 = s.plat.fuses.pkg →
      (∀ c, s1.ctxOfJob a.job = some c → exec (.counterAdvanceArrive aid) s =
        .next (s1.modCtx c.num (fun y => y.modNet (a.ep % 8) a.ctr (fun z => z.advance (BitVec.ofNat 64 a.amount))))) ∧
      (s1.ctxOfJob a.job = none → exec (.counterAdvanceArrive aid) s =
        .next (s1.opReport a.ctx a.die a.bid ⟨⟨.fabric, 5⟩, 0⟩ a.lctr a.num .none a.node))) ∧
    (a.ep / 8 ≠ s.plat.fuses.pkg →
      (a.away = true ∨ s.reported (.advance aid) = true → exec (.counterAdvanceArrive aid) s = .next s) ∧
      (a.away = false → s.reported (.advance aid) = false → s.cutOff (a.ep / 8) = true → exec (.counterAdvanceArrive aid) s =
        .next (s.opReport a.ctx a.die a.bid ⟨⟨.fabric, 4⟩, 0⟩ a.lctr a.num (.advance aid) a.node)) ∧
      (a.away = false → s.reported (.advance aid) = false → s.cutOff (a.ep / 8) = false →
        exec (.counterAdvanceArrive aid) s = .next (s1.advanceAt a))))

/-! ### Links -/

/-- R253, R255 to R260, R339: a flit that fails its check changes its port alone, which then discards and asks for the flit
again; a replay that fails counts against the lane that spoiled it. An acknowledgement drops the replay entries that it
covers, and a replay request has those left sent again; a data flit is acknowledged, and one that completes a packet has it
delivered. Bodies that wait go out as numbered flits while the replay buffer has room. Packets of a stream are delivered in
order, and one on a stack that is not ready is held. A lane retrains only after 16 failed replays in a row, and one that does
not train leaves its port. A directory line takes the endpoint that reads it; the read waits while another endpoint holds the
line in its way, or a buffered store is about to write it (R252). An invalidation of a die of this package takes its copy at
once; one of another endpoint's copy is sent, the entry then names the copy no more, and accesses wait until the endpoint has
answered; in group mode every endpoint of the marked groups is sent one. An entry names one exclusive owner or up to 4 sharers, and
marks groups from the fifth on (R253). The home's acknowledgement ends a write to another package's memory.
Where the manual leaves a point open, the model's choice holds: log entries 13, 14 and 64. -/
def Obligations.LinksCheckAndDeliver : Prop :=
  (∀ (s : State) (port : Nat) (flit : List Byte) (p : Port), s.plat.ports[port]? = some p → s.fab.outbox = [] →
    let gives (q : Port) (n : Nat) : State :=
      s.modPlat (fun y => { y with ports := setAt y.ports port q, replayed := y.replayed + n })
    let seq := field flit 0 4 % 2 ^ 24
    let kind := field flit 0 4 / 2 ^ 28 % 2 ^ 4
    let good : Prop := flit.length = 256 ∧ kind < 4 ∧ field flit 252 4 = flitCheck p.rxExpect (flit.take 252)
    let heard : Port := { p with discarding := false, resend := none, fails := p.fails.map (fun _ => 0) }
    let asks : List Byte := mkFlit 3 0 p.rxExpect p.txNext []
    (∀ lane, ¬ good → p.discarding = false → exec (.flitReceive port ⟨flit, lane⟩) s =
      .next (gives { p with discarding := true, resend := some p.rxExpect, wire := p.wire ++ [asks] } 0)) ∧
    (∀ l, ¬ good → p.discarding = true → exec (.flitReceive port ⟨flit, some l⟩) s =
      .next (gives { p with fails := modAt p.fails l (fun n => n + 1), wire := p.wire ++ [asks] } 0)) ∧
    (¬ good → p.discarding = true → exec (.flitReceive port ⟨flit, none⟩) s = .next (gives p 0)) ∧
    (∀ lane, good → kind = 2 → exec (.flitReceive port ⟨flit, lane⟩) s = .next (gives (heard.acked seq).flush 0)) ∧
    (∀ lane, good → kind = 3 →
      let q := heard.acked (seq + 2 ^ 24 - 1)
      exec (.flitReceive port ⟨flit, lane⟩) s =
        .next (gives ({ q with wire := q.wire ++ q.replay } : Port).flush q.replay.length)) ∧
    (∀ lane, good → kind = 1 →
      let q := { heard.acked seq with rxExpect := (p.rxExpect + 1) % 2 ^ 24 }
      let bs := p.rxBytes ++ (flit.drop 4).take 248
      let whole : Prop := (32 + 136 * field bs 20 4 + 247) / 248 * 248 ≤ bs.length
      let told (r : Port) : Port := { r with wire := r.wire ++ [mkFlit 2 0 ((q.rxExpect + 2 ^ 24 - 1) % 2 ^ 24) r.txNext []] }
      (¬ whole → exec (.flitReceive port ⟨flit, lane⟩) s = .next (gives (told ({ q with rxBytes := bs } : Port).flush) 0)) ∧
      (∀ k, whole → parsePacket bs = some k → exec (.flitReceive port ⟨flit, lane⟩) s =
        .next (let s1 := gives (told ({ q with rxBytes := [] } : Port).flush) 0
          { s1 with agenda := s1.agenda ++ [.event (.packetDeliver k)] })))) ∧
  (∀ p : Port, p.txNext < 2 ^ 24 → p.replay.length ≤ 1024 →
    (p.queue = [] ∨ p.replay.length = 1024 → p.flush = p) ∧
    (∀ b bs, p.queue = b :: bs → p.replay.length < 1024 →
      let f := mkFlit 1 0 ((p.rxExpect + 2 ^ 24 - 1) % 2 ^ 24) p.txNext b
      p.flush = ({ p with queue := bs, replay := p.replay ++ [f], wire := p.wire ++ [f],
                          txNext := (p.txNext + 1) % 2 ^ 24 } : Port).flush) ∧
    (∀ k ≤ p.replay.length, p.acked ((p.txNext + 2 ^ 24 - p.replay.length + k + 2 ^ 24 - 1) % 2 ^ 24) =
      { p with replay := p.replay.drop k })) ∧
  (∀ (s : State) (k : Packet) (x : Stream), k.dst.testBit 31 = false →
    s.fab.streams.find? (fun y => y.src == k.src && y.dst == k.dst && y.job == k.job) = some x → x.early = [] →
    (k.order = x.next → s.packetWaits k = false → exec (.packetDeliver k) s = .next ((s.deliver k).modFab (fun f =>
      { f with streams := { x with next := (x.next + 1) % 2 ^ 32 } ::
          f.streams.filter (fun y => !(y.src == k.src && y.dst == k.dst && y.job == k.job)) }))) ∧
    (k.order ≠ x.next ∨ s.packetWaits k = true → exec (.packetDeliver k) s = .next (s.modFab (fun f =>
      { f with streams := { x with early := [k] } ::
          f.streams.filter (fun y => !(y.src == k.src && y.dst == k.dst && y.job == k.job)) })))) ∧
  (∀ (s : State) (k : Packet), k.kind = .read →
    let line := k.field.toNat / 128
    let s1 := (s.touch line).noteSharer line k.src (k.flags.toNat.testBit 0)
    (s.packetWaits k = true ↔ k.field.toNat / 2 ^ 40 % 2 ^ 12 = s.plat.fuses.pkg ∧
      (s.plat.rdymap.toNat.testBit (11 + stackOf k.field.toNat) = false ∨
        s.lineHolders line (k.flags.toNat.testBit 0) (some k.src) ≠ [] ∨
        ∃ b ∈ s.blocks, ∃ w ∈ b.warps, ∃ e ∈ w.stores, ∃ c ∈ e.cells, lineOf c.addr = line)) ∧
    (s1.mem.marked line = false → s.deliver k = s1.sendPacket
      { kind := .readResponse, flags := 0, src := k.dst, dst := k.src, job := k.job, order := 0, field := k.field,
        lines := [s1.mem.wire line] }) ∧
    (s1.mem.marked line = true → s.deliver k = s1.sendPacket
      { kind := .readResponse, flags := 0x8000, src := k.dst, dst := k.src, job := k.job, order := 0,
        field := k.field, lines := [] })) ∧
  (∀ (s : State) (port lane : Nat) (trained : Bool) (p : Port), s.plat.ports[port]? = some p →
    let set (q : Port) : State := s.modPlat (fun y => { y with ports := setAt y.ports port q })
    (p.lanes.getD lane false = false ∨ p.fails.getD lane 0 < 16 → exec (.laneRetrain port lane trained) s = .next s) ∧
    (p.lanes.getD lane false = true → 16 ≤ p.fails.getD lane 0 → trained = true →
      exec (.laneRetrain port lane trained) s = .next (set { p with fails := setAt p.fails lane 0 })) ∧
    (p.lanes.getD lane false = true → 16 ≤ p.fails.getD lane 0 → trained = false →
      (setAt p.lanes lane false).any id = true →
      exec (.laneRetrain port lane trained) s =
        .next ((set { p with fails := setAt p.fails lane 0, lanes := setAt p.lanes lane false }).svc 5)) ∧
    (p.lanes.getD lane false = true → 16 ≤ p.fails.getD lane 0 → trained = false →
      (setAt p.lanes lane false).any id = false →
      let gone := (set { p with fails := setAt p.fails lane 0, lanes := setAt p.lanes lane false }).svc 6
      ((∃ o ∈ gone.plat.ports, true ∈ o.lanes) → exec (.laneRetrain port lane trained) s = .next gone) ∧
      ((∀ o ∈ gone.plat.ports, true ∉ o.lanes) → exec (.laneRetrain port lane trained) s =
        .next (gone.modPlat (fun y => { y with rdymap := y.rdymap &&& ~~~(BitVec.ofNat 64 (2 ^ 43)) }))))) ∧
  (∀ (s : State) (line ep : Nat),
    let changed (f : DirEntry → DirEntry) : State := { s with dir := s.dir.map (fun d => if d.line = line then f d else d) }
    (ep / 8 = s.plat.fuses.pkg → exec (.dirInvalidate line ep) s = .next (changed (fun d =>
      { d with owner := if d.owner = some ep then none else d.owner, sharers := d.sharers.filter (fun e => e != ep) }))) ∧
    (ep / 8 ≠ s.plat.fuses.pkg → s.dir.find? (fun d => d.line == line) = none → exec (.dirInvalidate line ep) s = .next s) ∧
    (∀ d, ep / 8 ≠ s.plat.fuses.pkg → s.dir.find? (fun d => d.line == line) = some d →
      let holder (e : Nat) : Prop := e / 8 ≠ s.plat.fuses.pkg ∧ s.plat.present (e / 8) = true ∧ e ∉ d.asked ∧
        (d.owner = some e ∨ e ∈ d.sharers ∨ e / 256 ∈ d.groups) ∧ (d.groups = [] ∨ d.asked = [])
      let asks (es : List Nat) : State := es.foldl (fun y e => y.sendPacket
        { kind := .invalidate, flags := 0, src := line / 2 ^ 30, dst := e, job := 0, order := 0,
          field := BitVec.ofNat 64 (128 * line), lines := [] }) (changed (fun d =>
          { d with owner := d.owner.filter (fun e => !(es.contains e)), sharers := d.sharers.filter (fun e => !(es.contains e)),
                   groups := [], asked := d.asked ++ es }))
      (¬ holder ep → exec (.dirInvalidate line ep) s = .next s) ∧
      (holder ep → d.groups = [] → exec (.dirInvalidate line ep) s = .next (asks [ep])) ∧
      (holder ep → d.groups ≠ [] → ∃ es : List Nat, es.Nodup ∧ (∀ e, e ∈ es ↔ holder e) ∧
        exec (.dirInvalidate line ep) s = .next (asks es)))) ∧
  (∀ (s : State) (k : Packet), k.kind = .acknowledge → k.flags.toNat % 4 = 0 →
    let line := k.field.toNat / 128
    let away : Prop := k.field.toNat / 2 ^ 52 % 4 = 0 ∧ k.field.toNat / 2 ^ 40 % 2 ^ 12 ≠ s.plat.fuses.pkg
    (away → s.deliver k = s.writeAcked (k.dst % 8) line) ∧
    (¬ away → s.deliver k = { s with dir := s.dir.map (fun d =>
      if d.line = line then { d with asked := d.asked.filter (fun e => e != k.src) } else d) })) ∧
  (∀ (d : DirEntry) (ep : Nat),
    (d.take ep true).owner = some ep ∧ (d.take ep true).sharers = [] ∧ (d.take ep true).groups = [] ∧
    (d.groups ≠ [] → ep / 256 ∈ (d.take ep false).groups ∧ ∀ g ∈ d.groups, g ∈ (d.take ep false).groups) ∧
    (d.groups = [] → let held := d.sharers ++ d.owner.toList
      (ep ∈ held → d.take ep false = d) ∧
      (ep ∉ held → held.length < 4 → d.take ep false = { d with owner := none, sharers := held ++ [ep] }) ∧
      (ep ∉ held → 4 ≤ held.length → (d.take ep false).owner = none ∧ (d.take ep false).sharers = [] ∧
        ∀ g, g ∈ (d.take ep false).groups ↔ ∃ e ∈ held ++ [ep], e / 256 = g)))

/-! ### Threads and warps -/

/-- R50, R209, R210, R307, R309, R315: an outstanding result that is known is written, or leaves zero where it fails late;
a thread that waits for its results then enters the handler, and the late failure that is earliest in program order is
delivered. A `waita` of a resident block ends with true once its condition holds, else with false at its deadline; it goes
back to its instruction where its line is marked (R336), and asks for its line again where that has gone back to another package (R252); an `idle` ends after its clocks, or at a wake.
R63, R67, R68, R206, R210, R213: a thread is ready where it neither has exited nor is parked, or where what it waits for holds. The
active warp that has been parked longest is exchanged with the oldest ready pending one, and
so is a warp that has issued for its 4,096 clocks, after the step by which that is due; a lane goes on after the same place. A result that its thread is parked for
at an SC page ends that (R218). A warp's oldest store leaves its queue alone, with the other parts of its `st.block`; the partials of one line are merged; a home slice's filter of a bay is cleared
after 2^20 home clocks, and keeps the lines that are watched still.
Where the manual leaves a point open, the model's choice holds: log entries 7 (a parked `waita` at a marked line), 10, 53 and
68. -/
def Obligations.WaitingThreadsAndWarpsGoOn : Prop :=
  ((∀ (s : State) (bid ti rid : Nat) (b : Block) (t : Thread) (r : Result), s.block? bid = some b → b.threads[ti]? = some t →
     t.results.find? (fun y => y.rid == rid) = some r → r.kind = .ready ∨ (∃ far, r.kind = .load far) → t.exited = false →
     let got (u : Thread) : Thread := { u with results := u.results.filter (fun y => y.rid != r.rid) }
     let unnamed (u : Thread) : Thread :=
       { u with pend := u.pend.filter (fun n => !(r.writes.filterMap (fun x => x.dest.name)).contains n) }
     let done (u : Thread) : Thread :=
       if u.park = .sc (some r.rid) then (unnamed u).release
       else if u.park = .marker ∧ u.results = [] ∧ u.lates = [] then { u with pend := [], park := .ready } else u
     exec (.resultWriteback bid ti rid) s = .next (s.modThread bid ti (fun u => u.writeBack r)) ∧
     (r.late = none → exec (.resultWriteback bid ti rid) s =
       .next (s.modThread bid ti (fun u => done ((got u).writes r.writes)))) ∧
     (∀ tr, r.late = some tr → exec (.resultWriteback bid ti rid) s = .next (s.modThread bid ti (fun u =>
       let u1 := unnamed ((got u).writes (r.writes.map (fun x => { x with val := 0 })))
       done { u1 with
         lates := u1.lates.filter (fun l => decide (l.1 ≤ r.rid)) ++ (r.rid, tr) ::
           u1.lates.filter (fun l => !decide (l.1 ≤ r.rid)) })))) ∧
   (∀ (s : State) (bid ti : Nat) (b : Block) (t : Thread) (c : Context), s.block? bid = some b → b.threads[ti]? = some t →
     s.ctx? b.ctx = some c → b.status = .resident → t.results = [] →
     let cause (tr : Trap) : Word := BitVec.ofNat 32 (trapNum tr.code) ||| (if tr.late then 256 else 0) |||
       (BitVec.ofNat 16 tr.sub).setWidth 32 <<< 16
     (∀ tr, t.park = .handler tr → t.lates = [] → exec (.handlerEntry bid ti) s = .next (s.modThread bid ti (fun u =>
       { u with
         tcause := cause tr, tpc := tr.tpc, epc := tr.epc, taddr := tr.addr, tinfo := tr.info, priv := true, pc := c.handler,
         pend := [], park := .ready, mark := false }))) ∧
     (∀ n tr ls, t.lates = (n, tr) :: ls → t.park = .marker ∨ t.park = .retry .results ∨ (∃ h, t.park = .handler h) →
       exec (.lateFailureDelivery bid ti) s = .next (s.modThread bid ti (fun u =>
         if c.route.getLsbD (trapNum tr.code) = true ∨ c.handler = 0 ∨ u.priv = true then
           { u with lates := ls, pend := [], park := .host { tr with epc := u.pc } none, mark := false }
         else
           { u with
             lates := ls, tcause := cause tr, tpc := tr.tpc, epc := u.pc, taddr := tr.addr, tinfo := tr.info, priv := true,
             pc := c.handler, pend := [], park := .ready, mark := false })))) ∧
   (∀ (s : State) (bid ti : Nat) (b : Block) (t : Thread) (w : WaitA), s.block? bid = some b → b.threads[ti]? = some t →
     t.park = .waita w →
     let ends (v : Bool) : State := s.modThread bid ti (fun u => (u.setP w.pd v).release)
     let back : State := s.modThread bid ti (fun u => { u with pc := u.pc - 8, park := .ready, mark := false })
     let turn (t : State) : Prop := exec (.waitaWake bid ti) s = .next t ∧ exec (.waitaDeadline bid ti) s = .next t
     (b.status ≠ .resident → turn s) ∧
     (b.status = .resident → s.missing b.die w.pa = true → turn (s.askLine b.die (lineOf w.pa))) ∧
     (b.status = .resident → s.missing b.die w.pa = false → s.mem.marked (lineOf w.pa) = true → turn back) ∧
     (b.status = .resident → s.missing b.die w.pa = false → s.mem.marked (lineOf w.pa) = false →
       (waitaHolds s bid ti w = true → turn (ends true)) ∧
       (waitaHolds s bid ti w = false → exec (.waitaWake bid ti) s = .next s ∧
         (∀ d, w.deadline = some d → d ≤ s.plat.time → exec (.waitaDeadline bid ti) s = .next (ends false)) ∧
         (∀ d, w.deadline = some d → s.plat.time < d → exec (.waitaDeadline bid ti) s = .next s) ∧
         (w.deadline = none → exec (.waitaDeadline bid ti) s = .next s)))) ∧
   (∀ (s : State) (bid ti d : Nat) (b : Block) (t : Thread), s.block? bid = some b → b.threads[ti]? = some t →
     t.park = .idle d →
     (d ≤ s.clockOf b → exec (.idleTimeout bid ti) s = .next (s.modThread bid ti (fun u => u.release))) ∧
     (s.clockOf b < d → exec (.idleTimeout bid ti) s = .next s)) ∧
   (∀ (s : State) (fn : Nat), exec (.wake fn) s = .next { s with blocks := s.blocks.map (fun b =>
     if b.ctx = fn then { b with threads := b.threads.map (fun t => match t.park with
       | .idle _ => t.release
       | _ => t) } else b) })) ∧
  ((∀ (s : State) (die core part idx : Nat) (y : Sched) (r q : WarpRef), s.sched? die core part = some y →
     y.active[idx]? = some (some r) → y.pending.find? s.refReady = some q →
     let swapped : State := (s.modSched die core part (fun x => match x.active[idx]?, x.pending.find? s.refReady with
       | some (some a), some p => { x with
           active := setAt x.active idx (some p), pending := dropFirst (· == p) x.pending ++ [a] }
       | _, _ => x)).modWarp q (fun w => { w with issued := 0 })
     (parkedFirst s y = some idx → exec (.warpExchange die core part idx) s = .next swapped) ∧
     (parkedFirst s y ≠ some idx → exec (.warpExchange die core part idx) s = .next s) ∧
     (∀ x, s.warp? r = some x → 4096 ≤ x.2.issued → exec (.warpQuantumExpire die core part idx) s = .next swapped) ∧
     (∀ x, s.warp? r = some x → x.2.issued < 4096 → exec (.warpQuantumExpire die core part idx) s = .next s)) ∧
   (∀ (s : State) (y : Sched) (k : Nat), parkedFirst s y = some k → ∃ (r : WarpRef) (x : Block × Warp), y.active[k]? = some (some r) ∧
     s.warp? r = some x ∧ s.refReady r = false ∧
     ∀ (n : Nat) (q : WarpRef) (z : Block × Warp), y.active[n]? = some (some q) → s.refReady q = false → s.warp? q = some z →
       x.2.parkTick ≤ z.2.parkTick) ∧
   (∀ (s : State) (e : Instr) (t : State), finish s e (.next t) =
     .next (((t.noteActivity s e).settleSets.exchangeDue (8 * (t.noteActivity s e).settleSets.scheds.length)).watchAll)) ∧
   (∀ (s : State) (n : Nat) (xs ys : List Sched) (y : Sched),
     let calm (x : Sched) : Prop := (∀ q ∈ x.pending, s.refReady q = false) ∨
       ∀ r, some r ∈ x.active → s.refReady r = true ∧ ∀ z, s.warp? r = some z → z.2.issued < 4096
     ((∀ x ∈ s.scheds, calm x) → s.exchangeDue n = s) ∧
     (s.scheds = xs ++ y :: ys → (∀ x ∈ xs, calm x) → s.sched? y.die y.core y.part = some y → (∃ q ∈ y.pending, s.refReady q = true) →
       (∀ k t, parkedFirst s y = some k → exec (.warpExchange y.die y.core y.part k) s = .next t →
         s.exchangeDue (n + 1) = t.exchangeDue n) ∧
       (∀ k t r z, parkedFirst s y = none → y.active[k]? = some (some r) → s.warp? r = some z → 4096 ≤ z.2.issued →
         (∀ j < k, ∀ r' z', y.active[j]? = some (some r') → s.warp? r' = some z' → z'.2.issued < 4096) →
         exec (.warpQuantumExpire y.die y.core y.part k) s = .next t → s.exchangeDue (n + 1) = t.exchangeDue n))) ∧
   (∀ (s : State) (b : Block) (t : Thread),
     (ready s b t = true ↔ t.exited = false ∧ b.status = .resident ∧
       (t.park = .ready ∨ ∃ c, t.park = .retry c ∧ condHolds s b t c = true)) ∧
     (condHolds s b t .results = true ↔ t.results = [] ∧ t.lates = []) ∧
     (condHolds s b t .redsDone = true ↔ t.reds = []) ∧
     (∀ h sts, condHolds s b t (.tileNot h sts) = true ↔ (b.tile h).st ∉ sts) ∧
     (∀ h, condHolds s b t (.fillRoom h) = true ↔ (b.tile h).fills < 255) ∧
     (∀ h, condHolds s b t (.tokenFree h) = true ↔ (b.tile h).st ≠ .engaged ∨ s.tileNamed b.bid h = false) ∧
     (∀ j c, b.conv[j]? = some c → (condHolds s b t (.convIdle j) = true ↔ c.st ≠ .complete)) ∧
     (condHolds s b t .copyRoom = true ↔ s.copiesAt b.die b.core < 64) ∧
     (∀ r k, condHolds s b t (.counter r k) = true ↔ k ≤ (s.ctr b.ctx b.die (some b.bid) r).c) ∧
     (∀ l, s.launch? b.lid = some l → (condHolds s b t .spawnRoom = true ↔ l.poolUsed b.die < l.rc.pool / 64)) ∧
     (condHolds s b t .sendRoom = true ↔ s.sendsAt b.die < 1024) ∧
     (condHolds s b t .recvRoom = true ↔ s.recvsAt b.die < 4096) ∧
     (condHolds s b t .workRoom = true ↔ s.worksAt b.die < 8192) ∧
     (∀ l wr, condHolds s b t (.lineFree l wr) = true ↔ s.lineHolders l wr none = []) ∧
     (∀ tis, condHolds s b t (.acked tis) = true ↔ ∀ k ∈ tis,
       (∀ w ∈ s.fab.peer.writes, w.owner ≠ .thread b.bid k) ∧
       ∀ a ∈ s.fab.peer.atoms, ∀ w ∈ a.waiters, (w.bid, w.ti) ≠ (b.bid, k)) ∧
     (∀ tis, condHolds s b t (.after tis) = true ↔ ∀ k ∈ tis, ∀ u, b.threads[k]? = some u → u.reds = []) ∧
     (∀ k, condHolds s b t (.stackReady k) = true ↔ s.plat.rdymap.toNat.testBit (11 + k) = true) ∧
     (∀ l, condHolds s b t (.lineHere l) = true ↔ s.missing b.die (128 * l) = false ∨ (b.die, l, true) ∉ s.fab.peer.asked) ∧
     (∀ h, condHolds s b t (.mcastDone h) = true ↔ s.mcastFrom b.bid h = false) ∧
     (∀ rs, condHolds s b t (.notLent rs) = true ↔ ∀ r ∈ rs, r ∉ lentRegs b (b.tindex t)) ∧
     (∀ tis, condHolds s b t (.answered tis) = true ↔
       ∀ k ∈ tis, ∀ a ∈ s.fab.peer.atoms, ∀ w ∈ a.waiters, (w.bid, w.ti) ≠ (b.bid, k))) ∧
   (∀ (s : State) (bid wi : Nat) (b : Block) (w : Warp), s.block? bid = some b → b.warps[wi]? = some w →
     (w.stores = [] → exec (.storeQueueDrain bid wi) s = .next s) ∧
     (∀ parts e es, w.stores = parts ++ e :: es → (∀ p ∈ parts, p.more = true) → e.more = false →
       exec (.storeQueueDrain bid wi) s = .next ((parts ++ [e]).foldl (State.leaveQueue b) (s.modBlock bid (fun y =>
         { y with warps := modAt y.warps wi (fun v => { v with stores := es }) }))))) ∧
   (∀ (s : State) (line : Nat), exec (.churnMerge line) s = .next { s with
     mem := (s.churn.filter (fun c => lineOf c.pa == line)).foldl Mem.mergeChurn s.mem
     churn := s.churn.filter (fun c => lineOf c.pa != line) }) ∧
   (∀ (s : State) (die slice bay : Nat),
     let now := s.plat.clocks.getD (2 * die + slice / 8) 0
     let own (f : WatchFilter) : Bool := f.die == die && f.slice == slice && f.bay == bay
     let since := ((s.plat.filters.find? own).map (fun f => f.cleared)).getD 0
     (now < since + 2 ^ 20 → exec (.watchFilterClear ⟨die, slice⟩ bay) s = .next s) ∧
     (since + 2 ^ 20 ≤ now → exec (.watchFilterClear ⟨die, slice⟩ bay) s = .next (s.modPlat (fun p => { p with
       filters := { die := die, slice := slice, bay := bay, lines := s.liveWatches die slice bay, cleared := now } ::
         p.filters.filter (fun f => !(own f)) }))) ∧
     (∀ line, line ∈ s.liveWatches die slice bay ↔ homeSlice line = slice ∧ ∃ b ∈ s.blocks, b.die = die ∧ b.bay = bay ∧
       ∃ t ∈ b.threads, ∃ w, t.park = .waita w ∧ w.pa / 128 = line)))

/-! ### Graphs and launches -/

/-- R290, R291, R293 to R295: an enabled queue with a graph and none running fetches it; it becomes resident once its die
has room for its nodes, each ready where it has no predecessors; the first ready node that can start is the one that starts,
its count reloaded less the decrements that reached it while it was ready. A node that is malformed ends with status 1, one whose
records cannot be read with status 5. A launch node starts the launch of its record, which meets R296's limits or ends it with
status 1; it starts only where each of its dies has room for its pool, and with status 4 where no cluster or pool could ever be held
(R296, R297, R301). A copy node starts the copy of its two layout records, or ends with status 1 (R181, R292); a chain's entries
are posted one by one as the store has room; a node of a counter advance has it under way until the advance is complete (R292,
R295); a conditional or while node reads its word, which names its list. A node whose work is over writes its completion record and
releases its list once that is performed, the second where its word is 0, and none where its status is not 0 (R294, R295): each index
decrements its node, in the list's order, and the node itself waits again, is ready again or is done; a graph with nothing left ends so, and its queue's head advances.
Where the manual leaves a point open, the model's choice holds: log entries 13, 25, 26 and 27. -/
def Obligations.GraphsRunNodeByNode : Prop :=
  (∀ (s s1 : State) (die q : Nat) (x : Queue) (c : Context), s.queue? die q = some x → s.ctx? x.ctx = some c →
    let open_ : Prop := x.enabled = true ∧ x.disabling = none ∧ x.graph = none ∧ x.head ≠ x.tail ∧ s.frontUp die = true ∧
      c.destroying = false
    (¬ open_ → exec (.graphFetch die q) s = .next s) ∧
    (∀ d, open_ → s.readPieces c die [(BitVec.ofNat 64 (x.base + 32 * (x.head.toNat % x.entries)), 32)] = (s1, .inr d) →
      let bad : Prop := field d 8 4 = 0 ∨ zeroAt d 12 4 = false ∨ zeroAt d 24 8 = false ∨ field d 0 8 % 128 ≠ 0 ∨
        field d 16 8 % 64 ≠ 0
      ∃ g, exec (.graphFetch die q) s = .next (s1.modQueue die q (fun y => { y with graph := some g })) ∧
        g.nodesVa = BitVec.ofNat 64 (field d 0 8) ∧ g.count = field d 8 4 ∧ g.resident = false ∧ g.ready = s.plat.time ∧
        g.nodes = [] ∧ (bad → g.status = 1 ∧ g.ended = true) ∧
        (¬ bad → 65536 < g.count → g.status = 4 ∧ g.ended = true) ∧
        (¬ bad → g.count ≤ 65536 → g.status = 0 ∧ g.ended = false))) ∧
  (∀ (s s1 : State) (die q : Nat) (x : Queue) (g : Graph) (c : Context) (bs : List Byte), s.queue? die q = some x →
    x.graph = some g → s.ctx? x.ctx = some c →
    (g.resident = true ∨ g.ended = true ∨ 65536 < s.residentNodes die + g.count →
      exec (.graphResident die q) s = .next s) ∧
    (g.resident = false → g.ended = false → s.residentNodes die + g.count ≤ 65536 →
      s.readPieces c die (pieces g.nodesVa 128 g.count) = (s1, .inr bs) →
      exec (.graphResident die q) s = .next { s1.modGraph die q (fun y => { y with
        resident := true, ready := s.plat.time,
        nodes := (nodeRecords g.count bs).zipIdx.map (fun (r, k) =>
          { idx := k, raw := r, remaining := field r 2 2, st := if field r 2 2 = 0 then .ready else .waiting,
            readySeq := s.nextId + k, ready := s.plat.time, start := 0, finish := none, status := 0, worst := 0, second := false,
            early := 0, chain := [], held := false, workDone := false, lid := none }) }) with
        nextId := s1.nextId + g.count })) ∧
  (∀ (s s1 : State) (die : Nat) (x : Queue) (n : Node), s.firstStart (s.readyNodes die) = some (x, n, s1) →
    exec (.nodeStart die x.q n.idx) s = .next s1) ∧
  (∀ (s : State) (die q node : Nat),
    (∀ x n s1, s.firstStart (s.readyNodes die) = some (x, n, s1) → (q, node) ≠ (x.q, n.idx)) →
    let here := (s.readyNodes die).find? (fun y => y.1.q == q && y.2.idx == node)
    (here = none → exec (.nodeStart die q node) s = .next s) ∧
    (∀ x n c, here = some (x, n) → s.ctx? x.ctx = some c →
      (∀ bs, (s.readPieces c x.die n.reads).2 = .inr bs → exec (.nodeStart die q node) s = .next s) ∧
      (∀ f, (s.readPieces c x.die n.reads).2 = .inl f → exec (.nodeStart die q node) s = .next (s.askFor x.die f.f)))) ∧
  (∀ (s : State) (x : Queue) (n : Node) (c : Context),
    let begun : State := (s.modNode x.die x.q n.idx (fun m => { m with
        st := .running, start := s.plat.time, finish := none, remaining := (field m.raw 2 2 : Int) - m.early, early := 0,
        chain := [], status := 0, second := false, workDone := false, lid := none })).modGraph x.die x.q (fun g =>
          { g with start := some (g.start.getD s.plat.time) })
    let over_ (s1 : State) (status : Nat) : State := s1.modNode x.die x.q n.idx (fun m =>
      { m with status := status, workDone := true, finish := some (m.finish.getD s1.plat.time) })
    let ep := field n.raw 36 4
    let kind := field n.raw 0 1
    let at_ (k : Nat) : DWord := BitVec.ofNat 64 (field n.raw k 8)
    let reads : List (DWord × Nat) := match kind with
      | 0 => pieces (at_ 32) 128 2
      | 1 => [(at_ 40, 128), (at_ 32, 128)]
      | 2 => pieces (at_ 32) 64 (field n.raw 40 4)
      | _ => [(at_ 32, 4)]
    (nodeOk n.raw = false → s.startNode x n c = some (over_ begun 1)) ∧
    (nodeOk n.raw = true → field n.raw 0 1 = 3 → s.startNode x n c = some begun) ∧
    (nodeOk n.raw = true → field n.raw 0 1 = 4 → begun.epOk ep = false → s.startNode x n c = some (over_ begun 1)) ∧
    (nodeOk n.raw = true → field n.raw 0 1 = 4 → begun.epOk ep = true → s.startNode x n c = some
      (begun.advanceAt
        { aid := 0, job := c.jobid, ctx := x.ctx, die := x.die, node := some n.idx, ep := ep,
          ctr := field n.raw 32 2, amount := field n.raw 40 4, owner := some (x.die, x.q, n.idx) })) ∧
    (∀ s1 f, nodeOk n.raw = true → kind ≠ 3 → kind ≠ 4 → begun.readPieces c x.die reads = (s1, .inl f) →
      s.startNode x n c = if f.f.isHold = true then none else some (over_ s1 5)) ∧
    (∀ s1 r, nodeOk n.raw = true → kind ≠ 3 → kind ≠ 4 → begun.readPieces c x.die reads = (s1, .inr r) →
      (kind = 0 → launchRecOk r x.q c.stkmax = false → s.startNode x n c = some (over_ s1 1)) ∧
      (kind = 0 → launchRecOk r x.q c.stkmax = true →
        let l : Launch :=
          { lid := s1.nextId, ctx := x.ctx, die := x.die, q := x.q, node := n.idx
            rc :=
              { entry := BitVec.ofNat 64 (field r 0 8), crew := field r 8 2, crews := field r 10 1, blocks := field r 11 1
                regs := field r 12 1, dies := if field r 13 1 = 0 then 2 ^ x.die else field r 13 1
                clusters := if field r 16 4 = 0 then 2 ^ 32 else field r 16 4, tiles := field r 20 4, stack := field r 24 4
                pool := field r 28 4, seed := BitVec.ofNat 64 (field r 32 8), params := BitVec.ofNat 64 (field r 40 8)
                queue := field r 48 1, prio := field r 49 1, done := BitVec.ofNat 64 (field r 56 8)
                slots := (List.range 8).map (fun k => BitVec.ofNat 64 (field r (64 + 8 * k) 8))
                bindings := (List.range 4).map (fun k => BitVec.ofNat 64 (field r (128 + 8 * k) 8)) }
            prio := max (field r 49 1) (field x.desc 13 1), next := 0, pools := [], formed := [], ended := 0, halted := 0
            status := 0, recordHeld := false }
        let store (d : Nat) : Nat := ((s1.plat.carves.find? (fun y => y.die == d)).map (fun y => y.spawnSize)).getD 0
        let used (d : Nat) : Nat :=
          ((s1.launches.filter (fun o => o.pools.any (fun p => p.1 == d))).map (fun o => o.rc.pool)).sum
        let never : Prop := s1.everFits l = false ∨ (l.rc.pool ≠ 0 ∧ ∀ d ∈ l.dieSet, store d < l.rc.pool)
        let room : Prop := ∀ d ∈ l.dieSet, used d + l.rc.pool ≤ store d
        let add (o : Launch) : State :=
          { s1.modNode x.die x.q n.idx (fun m => { m with lid := some s1.nextId }) with
            launches := s1.launches ++ [o], nextId := s1.nextId + 1 }
        (never → s.startNode x n c = some (add { l with next := l.rc.clusters, status := 4 })) ∧
        (¬ never → l.rc.pool = 0 → s.startNode x n c = some (add l)) ∧
        (¬ never → l.rc.pool ≠ 0 → room → s.startNode x n c = some (add { l with pools := l.dieSet.map (fun d => (d, [])) })) ∧
        (¬ never → l.rc.pool ≠ 0 → ¬ room → s.startNode x n c = none)) ∧
      (kind = 1 → (∃ f, parseLayout (r.take 128) = .inl f ∨ parseLayout (r.drop 128) = .inl f) →
        s.startNode x n c = some (over_ s1 1)) ∧
      (∀ la lb, kind = 1 → parseLayout (r.take 128) = .inr la → parseLayout (r.drop 128) = .inr lb →
        let code := field n.raw 112 1
        let xf : Xf := if code = 0 then .raw else if code = 1 then .cvt else .rhad
        let blk := fmtBlock la.fmt || fmtBlock lb.fmt
        let ok : Prop := code ≤ 2 ∧ field n.raw 32 8 % 128 = 0 ∧ field n.raw 40 8 % 128 = 0 ∧ la.win = lb.win ∧
          dim0Ok la (field n.raw 48 4) 0 blk (xf == .rhad) = true ∧ dim0Ok lb (field n.raw 76 4) 0 blk (xf == .rhad) = true ∧
          (if code = 0 then la.fmt = lb.fmt else slotOk (at_ 104) = true ∧ fmtAssigned (slotFmt (at_ 104)) = true)
        (¬ ok → s.startNode x n c = some (over_ s1 1)) ∧
        (ok → s.startNode x n c = some (({ s1 with nextId := s1.nextId + 1 } : State).startCopy
          { cid := s1.nextId, clus := 0, handle := none, die := x.die, bay := 0, core := 48, bid := none, lid := none
            ctx := x.ctx, owner := .node x.die x.q n.idx, key := at_ 120, slot := at_ 104, xf := xf
            src := .tensor la ((List.range 7).map (fun k => field n.raw (48 + 4 * k) 4)), box := la.win
            dsts := [{ place := .tensor lb ((List.range 7).map (fun k => field n.raw (76 + 4 * k) 4)), pos := none
                       st := .accepted, todo := [], turned := false, elems := 0, later := [] }]
            ctr := none, num := 0, stalled := false, abandoned := false, short := false }))) ∧
      (kind = 2 → (∃ k < field n.raw 40 4, parseEntry s1 ((r.drop (64 * k)).take 64) = none) →
        s.startNode x n c = some (over_ s1 1)) ∧
      (∀ es : List WorkEnt, kind = 2 → es.length = field n.raw 40 4 →
        (∀ k < field n.raw 40 4, parseEntry s1 ((r.drop (64 * k)).take 64) = es[k]?) →
        s.startNode x n c = some (s1.postChain x n (es.zipIdx.map (fun (e, k) =>
          { e with
            die := x.die, ctx := x.ctx, node := some (x.die, x.q, n.idx), slot := 0, key := 0
            threshold := BitVec.ofNat 64 (field n.raw 48 8 + k * field n.raw 56 8)
            ctr := { net := true, num := field n.raw 44 2 } })))) ∧
      (5 ≤ kind → s.startNode x n c = some (over_ (s1.modNode x.die x.q n.idx (fun m =>
        { m with second := decide (fromBytes r = 0) })) 0)))) ∧
  (∀ (r : List Byte) (q : Nat) (stkmax : Word), launchRecOk r q stkmax = true ↔
    field r 0 8 % 2 = 0 ∧ field r 0 8 < 2 ^ 53 ∧ 8 ≤ field r 8 2 ∧ field r 8 2 ≤ 1024 ∧ field r 8 2 % 8 = 0 ∧
    1 ≤ field r 10 1 ∧ field r 10 1 ≤ 4 ∧ 1 ≤ field r 11 1 ∧ field r 11 1 ≤ 8 ∧
    8 ≤ field r 12 1 ∧ field r 12 1 ≤ 128 ∧ field r 12 1 % 8 = 0 ∧ zeroAt r 14 2 = true ∧ field r 20 4 ≤ 1048576 ∧
    field r 24 4 % 16 = 0 ∧ field r 24 4 ≤ stkmax.toNat ∧ field r 28 4 % 64 = 0 ∧
    (field r 48 1 = 0 ∨ field r 48 1 = q + 1) ∧ field r 49 1 ≤ 3 ∧ zeroAt r 50 6 = true ∧ zeroAt r 160 96 = true ∧
    (∀ k < 4, field r (128 + 8 * k) 8 / 2 ^ 12 % 2 ^ 4 = 0 ∧ field r (128 + 8 * k) 8 / 2 ^ 19 % 2 ^ 13 = 0)) ∧
  (∀ (s : State) (x : Queue) (n : Node), n.workDone = false → field n.raw 0 1 = 4 →
    (s.workOver x n = true ↔ ∀ a ∈ s.fab.advances, a.owner ≠ some (x.die, x.q, n.idx))) ∧
  (∀ (s : State) (x : Queue) (n : Node) (es : List WorkEnt),
    (es = [] ∨ 8192 ≤ s.worksAt x.die → s.postChain x n es = s.modNode x.die x.q n.idx (fun m => { m with chain := es })) ∧
    (∀ e rest, es = e :: rest → e.die = x.die → s.worksAt x.die < 8192 →
      let s1 := s.modCtr x.ctx x.die none e.ctr (fun y => { y with i := y.i + 1 })
      s.postChain x n es = (({ s1 with nextId := s1.nextId + 1 } : State).modFab (fun f => { f with entries := f.entries ++
        [{ e with eid := s1.nextId, num := (s.ctr x.ctx x.die none e.ctr).i + 1 }] })).postChain x n rest)) ∧
  (∀ (s : State) (die q node : Nat) (x : Queue) (n : Node) (c : Context), s.queue? die q = some x →
    s.node? die q node = some n → s.ctx? x.ctx = some c →
    let s0 := s.modNode x.die x.q n.idx (fun m => { m with finish := some (n.finish.getD s.plat.time) })
    (∀ k is, n.out = some (k, is) →
      (s.writesOpen (.node die q node) = true → exec (.nodeDone die q node) s = .next s) ∧
      (s.writesOpen (.node die q node) = false → exec (.nodeDone die q node) s = .next (s.nodeGone x n k false is))) ∧
    (n.out = none → n.st ≠ .running ∨ (n.chain = [] ∧ (n.held = true ∨ s.workOver x n = false)) →
      exec (.nodeDone die q node) s = .next s) ∧
    (n.out = none → n.st = .running → n.chain ≠ [] → exec (.nodeDone die q node) s = .next (s.postChain x n n.chain)) ∧
    (n.out = none → n.st = .running → n.chain = [] → n.held = false → s.workOver x n = true → ∀ g, x.graph = some g →
      let l := n.lid.bind s.launch?
      let va := BitVec.ofNat 64 (field n.raw 8 8)
      let ends (s1 : State) (code : Nat) (list : List Nat) : Prop :=
        (field n.raw 8 8 = 0 ∨ field n.raw 8 8 % 64 ≠ 0 →
          exec (.nodeDone die q node) s = .next (s1.nodeGone x n code false list)) ∧
        (field n.raw 8 8 ≠ 0 → field n.raw 8 8 % 64 = 0 → ∀ s2 e,
          s1.writeRecord x.ctx x.die va (toBytes 4 code ++ toBytes 4 n.idx ++ toBytes 8 n.ready ++
            toBytes 8 n.start ++ toBytes 8 (n.finish.getD s.plat.time) ++ toBytes 4 ((l.map (fun o => o.ended)).getD 0) ++
            toBytes 4 ((l.map (fun o => o.halted)).getD 0) ++ List.replicate 24 0) (.node x.die x.q n.idx) = (s2, e) →
          (e = none → s2.writesOpen (.node x.die x.q n.idx) = false →
            exec (.nodeDone die q node) s = .next (s2.nodeGone x n code false list)) ∧
          (e = none → s2.writesOpen (.node x.die x.q n.idx) = true → exec (.nodeDone die q node) s =
            .next (s2.modNode x.die x.q n.idx (fun m => { m with out := some (code, list) }))) ∧
          (∀ f, e = some f → f.isHold = true → exec (.nodeDone die q node) s = .next (s0.askFor x.die f)) ∧
          (∀ f, e = some f → f.isHold = false → ∃ r : Report, r.kind = 1 ∧ r.code = f.code ∧ r.sub = f.sub ∧ r.die = x.die ∧
            r.addr = va ∧ r.node = n.idx ∧ r.target = .nodeRec x.die x.q n.idx ∧ exec (.nodeDone die q node) s =
              .next ((s2.modNode x.die x.q n.idx (fun m => { m with held := true })).modCtx x.ctx (fun y =>
                { y with held := y.held ++ [r] }))))
      let list : Nat × Nat := if n.second = true then (field n.raw 40 8, field n.raw 48 4) else (field n.raw 16 8, field n.raw 24 4)
      let read := s0.readPieces c die (pieces (BitVec.ofNat 64 list.1) 4 list.2)
      (n.status ≠ 0 → ends s0 n.status []) ∧
      (∀ s1 f, n.status = 0 → read = (s1, .inl f) →
        (f.f.isHold = true → exec (.nodeDone die q node) s = .next (s0.askFor x.die f.f)) ∧
        (f.f.isHold = false → ends s1 5 [])) ∧
      (∀ s1 bs, n.status = 0 → read = (s1, .inr bs) →
        let is := (List.range list.2).map (fun k => field bs (4 * k) 4)
        ((∀ k ∈ is, k < g.count) → ends s1 0 is) ∧ ((∃ k ∈ is, g.count ≤ k) → ends s1 1 [])))) ∧
  (∀ (s : State) (x : Queue) (n : Node) (code : Nat) (skipped : Bool) (is : List Nat),
    let t := s.nodeGone x n code skipped is
    let list := if code = 0 then is else []
    let dec (m : Node) : Node :=
      (list.zipIdx s.nextId).foldl (fun y p => if p.1 = m.idx then y.decrement s.plat.time p.2 else y) m
    (∀ k m, s.node? x.die x.q k = some m → k ≠ n.idx → t.node? x.die x.q k = some (dec m)) ∧
    (∀ m, s.node? x.die x.q n.idx = some m → t.node? x.die x.q n.idx = some ((dec { m with
      worst := max m.worst (if skipped = true then max 5 code else code), held := false, out := none }).settle
        s.plat.time (s.nextId + list.length))) ∧
    t.launches = s.launches.filter (fun l => decide (n.lid ≠ some l.lid)) ∧
    ∃ qs, t = { s with queues := qs, launches := t.launches, nextId := s.nextId + list.length + 1 }) ∧
  (∀ (n : Node) (now seq : Nat),
    (n.preds = 0 → n.settle now seq = { n with st := .done }) ∧
    (n.preds ≠ 0 → n.remaining ≤ 0 → n.settle now seq = { n with st := .ready, ready := now, readySeq := seq }) ∧
    (n.preds ≠ 0 → 0 < n.remaining → n.settle now seq = { n with st := .waiting }) ∧
    (n.preds = 0 → n.decrement now seq = n) ∧
    (n.preds ≠ 0 → n.st = .ready → n.decrement now seq = { n with early := n.early + 1 }) ∧
    (n.preds ≠ 0 → n.st = .waiting → n.remaining ≤ 1 → n.decrement now seq =
      { n with remaining := n.remaining - 1, st := .ready, ready := now, readySeq := seq }) ∧
    (n.preds ≠ 0 → n.st = .running ∨ n.st = .done ∨ (n.st = .waiting ∧ 1 < n.remaining) →
      n.decrement now seq = { n with remaining := n.remaining - 1 })) ∧
  (∀ (s : State) (die q : Nat) (x : Queue) (g : Graph), s.queue? die q = some x → x.graph = some g → g.held = false →
    let over_ : Prop := g.ended = true ∨ (g.resident = true ∧ ∀ n ∈ g.nodes, n.st ≠ .ready ∧ n.st ≠ .running)
    let gone (s1 : State) : State := s1.modQueue die q (fun y => { y with graph := none, head := y.head + 1 })
    let end_ := g.finish.getD s.plat.time
    let s0 := s.modGraph die q (fun y => { y with finish := some end_ })
    (g.out = true → s.writesOpen (.graph die q) = true → exec (.graphEnd die q) s = .next s) ∧
    (g.out = true → s.writesOpen (.graph die q) = false → exec (.graphEnd die q) s = .next (gone s)) ∧
    (g.out = false → ¬ over_ → exec (.graphEnd die q) s = .next s) ∧
    (g.out = false → over_ → g.doneVa = 0 → exec (.graphEnd die q) s = .next (gone s)) ∧
    (∀ s1, g.out = false → over_ → g.doneVa ≠ 0 → s0.writeRecord x.ctx x.die g.doneVa (toBytes 4 (g.nodes.foldl (fun m n => max m n.worst) g.status) ++
        toBytes 4 0xFFFFFFFF ++ toBytes 8 g.ready ++ toBytes 8 (g.start.getD end_) ++
        toBytes 8 end_ ++ toBytes 4 0 ++ toBytes 4 0 ++ List.replicate 24 0) (.graph x.die x.q) = (s1, none) →
      (s1.writesOpen (.graph x.die x.q) = false → exec (.graphEnd die q) s = .next (gone s1)) ∧
      (s1.writesOpen (.graph x.die x.q) = true →
        exec (.graphEnd die q) s = .next (s1.modGraph die q (fun y => { y with out := true })))))

/-- R61, R295, R297 to R302: the next cluster of a launch is admitted at places that meet the checks, with its clusters counted
on; a spawned crew is admitted on the die of its pool. An admission gives each block its token, its threads their first state, their
slots and their warps, which join the tail of their partition's pending set. A full crew of one entry forms at once, a smaller one
after 4,096 clocks; either takes the oldest records of the entry out of the pool. A resident block whose threads have all exited
ends: its posted tile receives are cancelled, its q counters, convergence registers and token are free, and it is counted. A launch
ends when nothing of it is left, and its completion record, where it names one, is performed; its counter bindings then advance.
Where the manual leaves a point open, the model's choice holds: log entries 13, 26 and 28. -/
def Obligations.LaunchesAreAdmittedAndEnd : Prop :=
  (∀ (s : State) (lid : Nat) (pl : Placement) (l : Launch), s.launch? lid = some l →
    let ok : Prop := l.waiting s = true ∧ s.targetDie l = some pl.die ∧ s.placeOk l l.need l.rc.blocks pl = true
    (pl.spawned = false → ok → exec (.clusterAdmit lid pl) s = .next ((s.place l pl l.rc.crew (BitVec.ofNat 32 l.next) (fun _ =>
        some (l.rc.entry, (List.range l.rc.regs).map (fun k =>
          if k = 0 then loWord l.rc.params else if k = 1 then hiWord l.rc.params else 0)))).modLaunch lid (fun y =>
      { y with next := y.next + 1 }))) ∧
    (pl.spawned = false → ¬ ok → exec (.clusterAdmit lid pl) s = .next s) ∧
    (∀ d rs, pl.spawned = true → l.formed.find? (fun f => f.1 == pl.die) = some (d, rs) →
      s.placeOk l (l.spawnNeed rs.length) 1 pl = true →
      exec (.clusterAdmit lid pl) s = .next ((s.place l pl (spawnSize rs.length) 0xFFFFFFFF (fun k =>
          (rs[k]?).map (fun r => (r.entry, (List.range l.rc.regs).map (fun n => r.args.getD n 0))))).modLaunch lid (fun y =>
        { y with formed := dropFirst (fun f => f.1 == pl.die) y.formed })))) ∧
  (∀ (s : State) (lid die : Nat) (entry : DWord) (l : Launch), s.launch? lid = some l → l.rc.crew ≠ 0 →
    let n := ((l.poolAt die).filter (fun r => r.entry == entry)).length
    (n < l.rc.crew → exec (.spawnCrewForm lid die entry) s = .next s) ∧
    (l.rc.crew ≤ n → exec (.spawnCrewForm lid die entry) s =
      .next (s.modLaunch lid (fun y => y.form die entry l.rc.crew))) ∧
    (∀ r rs, l.poolAt die = r :: rs → r.entry = entry → n < l.rc.crew →
      (r.stamp + 4096 ≤ s.plat.clocks.getD (2 * die) 0 →
        exec (.spawnGatherTimeout lid die) s = .next (s.modLaunch lid (fun y => y.form die entry n))) ∧
      (s.plat.clocks.getD (2 * die) 0 < r.stamp + 4096 → exec (.spawnGatherTimeout lid die) s = .next s))) ∧
  (∀ (s : State) (l : Launch) (pl : Placement) (nthr : Nat) (clus : Word) (init : Nat → Option (DWord × List Word)),
    nthr ≤ 1024 → (pl.blocks.map (fun b => b.pos)).Pairwise (· < ·) →
    (∀ p ∈ pl.blocks, (p.crews.map (fun c => c.part)).Nodup ∧ ∀ c ∈ p.crews, ∀ b ∈ c.bases, b % 8 = 0) →
    let t := s.place l pl nthr clus init
    let c8 := 8 * ((nthr + 31) / 32)
    let newAt (k : Nat) (p : BlockPlace) (b : Block) : Prop :=
      b.bid = s.nextId + 1 + k ∧ b.cid = s.nextId ∧ b.lid = l.lid ∧ b.ctx = l.ctx ∧ b.die = pl.die ∧ b.bay = pl.bay ∧
      b.pos = p.pos ∧ b.token = p.token ∧ b.clus = clus ∧ b.blk = k ∧ b.nthr = nthr ∧ b.ncrew = p.crews.length ∧
      b.nblk = pl.blocks.length ∧ b.bmask = (pl.blocks.map (fun o => 2 ^ o.pos)).sum ∧ b.prio = l.prio ∧
      b.grans = (l.rc.tiles + 4095) / 4096 ∧ b.stack = l.rc.stack ∧ b.seed = l.rc.seed ∧ b.slots = l.rc.slots ∧
      b.places = p.crews ∧ b.status = .resident ∧ b.tiles = List.replicate 64 Tile.free ∧ b.conv = List.replicate 16 Conv.idle ∧
      b.q = List.replicate 16 Counter.zero ∧ b.blockBars = List.replicate 16 Bar.idle ∧
      b.crewBars = List.replicate p.crews.length (List.replicate 16 Bar.idle) ∧
      b.threads.length = p.crews.length * nthr ∧
      (∀ c q i, p.crews[c]? = some q → i < nthr →
        let start (pc : DWord) (v : List Word) (gone : Bool) : Thread :=
          { crew := c, tid := i, lane := i / c8, slot := q.bases.getD (i / c8) 0 + i % c8, pc := pc, priv := false, exited := gone
            v := v, k := List.replicate 16 0, p := 0, badRegs := [], pend := [], results := [], lates := [], age := 0, ret := []
            spilled := 0, shares := [], park := .ready, mark := false, tcause := 0, tpc := 0, epc := 0, taddr := 0, tinfo := 0 }
        (∀ pc v, init i = some (pc, v) → b.threads[c * nthr + i]? = some (start pc v false)) ∧
        (init i = none → b.threads[c * nthr + i]? = some (start 0 [] true))) ∧
      (∀ u ∈ b.threads, (b.warps.filter (fun w => w.has u)).length = 1) ∧
      (∀ w ∈ b.warps, w.w = List.replicate 64 0 ∧ w.stores = [] ∧ w.issued = 0 ∧ w.first % w.size = 0 ∧ ∃ q, p.crews[w.crew]? = some q ∧
        let stop := q.bases.getD w.lane 0 + (min nthr ((w.lane + 1) * c8) - w.lane * c8)
        w.size = if w.first % 32 = 0 ∧ w.first + 32 ≤ stop then 32 else if w.first % 16 = 0 ∧ w.first + 16 ≤ stop then 16 else 8) ∧
      (∀ c q, p.crews[c]? = some q →
        let old := (s.sched? pl.die (8 * pl.bay + p.pos) q.part).getD (Sched.empty pl.die (8 * pl.bay + p.pos) q.part)
        t.sched? pl.die (8 * pl.bay + p.pos) q.part = some { old with
          pending := old.pending ++ (b.warps.filter (fun w => w.crew == c)).map (fun w => w.ref b.bid) })
    ∃ bs : List Block, bs.length = pl.blocks.length ∧ (∀ (k : Nat) (p : BlockPlace) (b : Block), pl.blocks[k]? = some p → bs[k]? = some b → newAt k p b) ∧
      t = { s with
        blocks := s.blocks ++ bs
        clusters := s.clusters ++ [{ cid := s.nextId, lid := l.lid, bars := List.replicate 16 Bar.idle }]
        nextId := s.nextId + 1 + pl.blocks.length, scheds := t.scheds }) ∧
  (∀ (s : State) (l : Launch) (n : Need) (count : Nat) (pl : Placement), s.placeOk l n count pl = true ↔
    pl.bay < 6 ∧ pl.blocks.length = count ∧ s.runs l.ctx = true ∧ s.higherWaits pl.die l.prio = false ∧
    (pl.blocks.map (fun b => b.pos)).Pairwise (· < ·) ∧ (pl.blocks.map (fun b => b.token)).Nodup ∧
    ∀ p ∈ pl.blocks,
      let core := 8 * pl.bay + p.pos
      let there := s.holders pl.die core n.prio none
      p.pos < 8 ∧ p.token < 2048 ∧
      (∀ b ∈ s.blocks, b.ctx = l.ctx → b.die = pl.die → b.status ≠ .ended → b.token ≠ p.token) ∧
      s.restoreFirst pl.die core l.prio = false ∧ s.coreUp pl.die core = true ∧ there.length < 16 ∧
      s.gransUsed pl.die core n.prio none + n.grans ≤ 256 ∧ p.crews.length = n.ncrew ∧
      (p.crews.map (fun c => c.part)).Nodup ∧
      ∀ k c, p.crews[k]? = some c → c.part < 4 ∧ (there.map (fun b => (b.crewsIn c.part).length)).sum < 8 ∧
        ∀ lane < 4, laneThreads n.nthr lane ≠ 0 →
          let base := c.bases.getD lane 0
          let slots := 8 * ((n.nthr + 31) / 32)
          base % crewAlign n.nthr = 0 ∧ base + slots ≤ 256 ∧
          (∀ b ∈ there, ∀ r ∈ b.rangesIn c.part lane, base + slots ≤ r.1 ∨ r.1 + r.2 ≤ base) ∧
          n.words.getD (4 * k + lane) 0 ≤ 8192 - (there.map (fun b => b.wordsIn c.part lane)).sum) ∧
  (∀ (l : Launch) (die : Nat) (entry : DWord) (n : Nat) (rs : List SpawnRec),
    l.pools.find? (fun p => p.1 == die) = some (die, rs) → (l.pools.map (fun p => p.1)).Nodup →
    let l' := l.form die entry n
    ∃ left, l' = { l with pools := l'.pools, formed := l.formed ++ [(die, (rs.filter (fun r => r.entry == entry)).take n)] } ∧
      l'.pools.map (fun p => p.1) = l.pools.map (fun p => p.1) ∧ (∀ d ≠ die, l'.poolAt d = l.poolAt d) ∧ l'.poolAt die = left ∧
      left.filter (fun r => r.entry != entry) = rs.filter (fun r => r.entry != entry) ∧
      left.filter (fun r => r.entry == entry) = (rs.filter (fun r => r.entry == entry)).drop n ∧ List.Sublist left rs) ∧
  (∀ (s : State) (b : Block) (halted : Bool), s.block? b.bid = some b →
    let t := s.endBlock b halted
    let over_ : Prop := ∀ x ∈ s.blocks, x.cid = b.cid → x.bid ≠ b.bid → x.status = .ended
    (∀ y, t.block? b.bid = some y → y.status = .ended ∧ (∀ u ∈ y.threads, u.exited = true ∧ u.v = []) ∧
      y.conv = List.replicate b.conv.length Conv.idle ∧ y.q = List.replicate b.q.length Counter.zero ∧
      ∀ w ∈ y.warps, w.stores = []) ∧
    ((∃ c ∈ s.copies, c.bid = some b.bid) → t.block? b.bid ≠ none) ∧
    ((∀ c ∈ s.copies, c.bid ≠ some b.bid ∧ (∀ d ∈ c.dsts, ∀ h, d.tileRef ≠ some (b.bid, h)) ∧
        ∀ h r k, c.src ≠ .tile b.bid h r k) →
      (∀ m ∈ s.fab.msgs, ∀ h, m.tile ≠ some (b.bid, h)) → (∀ u ∈ s.mats, ∀ o ∈ u.queue, o.bid ≠ b.bid) →
      t.block? b.bid = none) ∧
    t.tokens b.ctx b.die = (s.blocks.filter (fun x =>
      x.ctx == b.ctx && x.die == b.die && x.status != .ended && x.bid != b.bid)).map (fun x => x.token) ∧
    (∀ r ∈ t.fab.recvs, r.bid = b.bid → r.tile ≠ none → r.st ≠ .posted) ∧
    (∀ x ∈ t.scheds, (∀ r ∈ x.pending, r.bid ≠ b.bid) ∧ ∀ r, some r ∈ x.active → r.bid ≠ b.bid) ∧
    (∀ e ∈ t.saveQ, e.2 ≠ b.bid) ∧
    (∀ l, s.launch? b.lid = some l → (over_ → b.clus ≠ 0xFFFFFFFF → t.launch? b.lid = some
        { l with halted := l.halted + (if halted = true then 1 else 0), ended := l.ended + 1 }) ∧
      (¬ over_ ∨ b.clus = 0xFFFFFFFF → t.launch? b.lid = some
        { l with halted := l.halted + (if halted = true then 1 else 0) })) ∧
    (over_ → ∀ c ∈ t.clusters, c.cid ≠ b.cid) ∧
    (¬ over_ → t.clusters.map (fun c => c.cid) = s.clusters.map (fun c => c.cid))) ∧
  (∀ (s : State) (l : Launch) (skipped : Bool),
    let status := if l.status ≠ 0 then l.status else if l.halted = 0 then 0 else 2
    let bound (t : State) : State := l.rc.bindings.foldl (fun y b => if b.toNat / 2 ^ 32 = 0 then y else
      y.modCtx l.ctx (fun c => c.modNet (b.toNat / 2 ^ 16 % 8) (b.toNat % 2 ^ 12) (fun z =>
        z.advance (BitVec.ofNat 64 (b.toNat / 2 ^ 32))))) t
    s.launchGone l skipped = (((bound s).modLaunch l.lid (fun y => { y with recordHeld := false, out := false, pools := [] })).modNode
      l.die l.q l.node (fun n => { n with
        status := status, workDone := true, finish := some (n.finish.getD s.plat.time)
        worst := if skipped = true then max n.worst 5 else n.worst }))) ∧
  (∀ (s : State) (bid : Nat) (b : Block), s.block? bid = some b →
    (b.status ≠ .resident ∨ (∃ t ∈ b.threads, t.exited = false) → exec (.blockEnd bid) s = .next s) ∧
    (b.status = .resident → (∀ t ∈ b.threads, t.exited = true) → exec (.blockEnd bid) s = .next (s.endBlock b false))) ∧
  (∀ (s : State) (lid : Nat) (l : Launch) (n : Node), s.launch? lid = some l → s.node? l.die l.q l.node = some n →
    let end_ := n.finish.getD s.plat.time
    let s0 := s.modNode l.die l.q l.node (fun m => { m with finish := some end_ })
    (l.out = true → s.writesOpen (.launch lid) = true → exec (.launchEnd lid) s = .next s) ∧
    (l.out = true → s.writesOpen (.launch lid) = false → exec (.launchEnd lid) s = .next (s.launchGone l false)) ∧
    (l.out = false → n.st ≠ .running ∨ n.workDone = true ∨ l.recordHeld = true ∨ s.launchOver l = false →
      exec (.launchEnd lid) s = .next s) ∧
    (l.out = false → n.st = .running → n.workDone = false → l.recordHeld = false → s.launchOver l = true →
      (l.rc.done = 0 → exec (.launchEnd lid) s = .next (s0.launchGone l false)) ∧
      (∀ s1, l.rc.done ≠ 0 → s0.writeRecord l.ctx l.die l.rc.done (doneRecord
          (if l.status ≠ 0 then l.status else if l.halted = 0 then 0 else 2) n.idx n.ready n.start end_ l.ended
          l.halted) (.launch l.lid) = (s1, none) →
        (s1.writesOpen (.launch l.lid) = false → exec (.launchEnd lid) s = .next (s1.launchGone l false)) ∧
        (s1.writesOpen (.launch l.lid) = true → exec (.launchEnd lid) s =
          .next (s1.modLaunch l.lid (fun y => { y with out := true })))))) ∧
  (∀ (s : State) (l : Launch), s.launchOver l = true → l.next = l.rc.clusters ∧ l.formed = [] ∧
    (∀ b ∈ s.blocks, b.lid = l.lid → b.status = .ended) ∧ (∀ c ∈ s.copies, c.lid ≠ some l.lid))

/-! ### Pre-emption, contexts and reports -/

/-- R247, R310, R317 to R322: a resident block is saved only for the cause that its save names; with no slot free it is stopped in
place, and the next slot that is free takes it. A save writes the results that are known, drains the stores and the block's matrix
operations, and leaves the copies and landings under way; a thread in the queue of the matrix unit stays at its instruction. A block
trap stops its block for good, once, and reports it. A saved block is restored where its places are free: its warps join the sets
again, its waiting threads test their conditions, and its late failures are delivered. A watchdog that has
counted 2^32 clocks reports and suspends its context; the physical function suspends and resumes. A block stopped in place
resumes without a restore: its warps join the sets again, its complete conversions the matrix unit's queue, and no thread
tests anything (R319).
Where the manual leaves a point open, the model's choice holds: log entries 23 and 28. -/
def Obligations.BlocksAreSavedAndRestored : Prop :=
  let issues (s : State) (b : Block) : State :=
    ((s.modBlock b.bid (fun y => { y with status := .resident })).joinSets b).modMat b.die (8 * b.bay + b.pos) (fun u =>
      { u with
        waiting := u.waiting ++ ((List.range b.conv.length).filter (fun j =>
          ((b.conv[j]?).map (fun c => c.st)) == some .complete)).map (MatWait.conv b.bid) })
  (∀ (s : State) (bid : Nat) (b : Block), s.block? bid = some b →
    (∀ cause, b.status ≠ .resident → exec (.blockSave bid cause) s = .next s) ∧
    (b.status = .resident →
      (∀ c, s.ctx? b.ctx = some c →
        (c.suspended = true → exec (.blockSave bid .suspend) s = .next (s.saveBlock b .suspend)) ∧
        (c.suspended = false → exec (.blockSave bid .suspend) s = .next s)) ∧
      exec (.blockSave bid .halt) s = .next s ∧
      ((b.die, b.core) ∈ s.plat.spares.draining → exec (.blockSave bid .drain) s = .next (s.saveBlock b .drain)) ∧
      ((b.die, b.core) ∉ s.plat.spares.draining → exec (.blockSave bid .drain) s = .next s) ∧
      (s.hotVictim bid = true → exec (.blockSave bid .hot) s = .next (s.saveBlock b .hot)) ∧
      (s.hotVictim bid = false → exec (.blockSave bid .hot) s = .next s)) ∧
    (∀ cause,
      let q := s.quiesce b
      let room : Prop := q.slotsUsed b.die < q.saveSlots b.die ∧ ∀ e ∈ q.saveQ, e.1 ≠ b.die
      let as_ : BlockStatus := match cause with
        | .hot => .saved true
        | .halt => .halted
        | _ => .saved false
      (room → s.saveBlock b cause = q.modBlock b.bid (fun y => { y with status := as_ })) ∧
      (¬ room → s.saveBlock b cause = { q.modBlock b.bid (fun y => { y with status := .stopped cause }) with
        saveQ := q.saveQ ++ [(b.die, b.bid)] })) ∧
    (s.canRestore b = false → exec (.blockRestore bid) s = .next s) ∧
    (s.canRestore b = true → b.prio = 0 ∨ s.hotComes b.die b.bay = false →
      exec (.blockRestore bid) s = .next (s.resumeBlock b))) ∧
  (∀ (s : State) (die : Nat),
    (s.saveSlots die ≤ s.slotsUsed die → exec (.saveSlotGrant die) s = .next s) ∧
    (∀ e b cause, s.slotsUsed die < s.saveSlots die → s.saveQ.find? (fun y => y.1 == die) = some e →
      s.block? e.2 = some b → b.status = .stopped cause →
      exec (.saveSlotGrant die) s = .next (({ s with saveQ := dropFirst (fun y => y == e) s.saveQ } : State).modBlock e.2
        (fun y => { y with status := match cause with
          | .hot => .saved true
          | .halt => .halted
          | _ => .saved false })))) ∧
  (∀ (s : State) (ctx die : Nat) (c : Context) (w : Watch), s.ctx? ctx = some c →
    c.watch.find? (fun y => y.die == die) = some w →
    (s.watchCounts c die = false ∨ s.plat.clocks.getD (2 * die) 0 < w.since + 2 ^ 32 →
      exec (.watchdogExpire ctx die) s = .next s) ∧
    (s.watchCounts c die = true → w.since + 2 ^ 32 ≤ s.plat.clocks.getD (2 * die) 0 →
      ∃ r : Report, r.kind = 3 ∧ r.code = .watchdog ∧ r.die = die ∧ r.target = .watchdog die ∧
        exec (.watchdogExpire ctx die) s = .next (s.modCtx ctx (fun y => { y with
          watch := y.watch.filter (fun v => v.die != die), held := y.held ++ [r], suspended := true })))) ∧
  (∀ (s : State) (fn ctx : Nat),
    (fn ≠ 0 → exec (.ctxSuspend fn ctx) s = .next s ∧ exec (.ctxResume fn ctx) s = .next s) ∧
    exec (.ctxSuspend 0 ctx) s = .next (s.modCtx ctx (fun c => { c with suspended := true })) ∧
    ((∀ b ∈ s.blocks, b.ctx = ctx → b.status ≠ .stopped .suspend) →
      exec (.ctxResume 0 ctx) s = .next (s.modCtx ctx (fun c => { c with suspended := false }))) ∧
    exec (.ctxResume 0 ctx) s = .next ((s.blocks.filter (fun b => b.ctx == ctx && b.status == .stopped .suspend)).foldl
      (fun y b => issues { y with saveQ := y.saveQ.filter (fun e => e.2 != b.bid) } b)
      (s.modCtx ctx (fun c => { c with suspended := false })))) ∧
  (∀ (s : State) (b : Block), s.block? b.bid = some b →
    let q := s.quiesce b
    ∃ y, q.block? b.bid = some y ∧ y.status = b.status ∧ y.threads.length = b.threads.length ∧
      (∀ (ti : Nat) (t : Thread), b.threads[ti]? = some t → (∀ r, t.park ≠ .sc r) → (∀ h, t.park ≠ .retry (.tokenFree h)) →
        let u := (t.results.filter (fun r => r.kind == .ready)).foldl Thread.writeBack t
        y.threads[ti]? = some (if u.park = .queued then { u with park := .ready, mark := false } else u)) ∧
      (∀ w ∈ y.warps, w.stores = []) ∧
      (∀ x ∈ q.scheds, (∀ r ∈ x.pending, r.bid ≠ b.bid) ∧ ∀ r, some r ∈ x.active → r.bid ≠ b.bid) ∧
      ((s.mat b.die b.core).queue.length ≤ 8 → ∃ k, (q.mat b.die b.core).queue = (s.mat b.die b.core).queue.drop k ∧
        (∀ o ∈ (q.mat b.die b.core).queue, o.bid ≠ b.bid) ∧
        (k = 0 ∨ ∃ o, (s.mat b.die b.core).queue[k - 1]? = some o ∧ o.bid = b.bid)) ∧
      (∀ w ∈ (q.mat b.die b.core).waiting, w.bid ≠ b.bid) ∧
      q.copies = s.copies ∧ q.fab.recvs = s.fab.recvs ∧ q.fab.msgs = s.fab.msgs) ∧
  (∀ (s : State) (b : Block), s.block? b.bid = some b →
    let s1 := issues s b
    let t := s.resumeBlock b
    (∃ y, t.block? b.bid = some y ∧ y.status = .resident) ∧ t.scheds = s1.scheds ∧ t.mats = s1.mats ∧ t.mem = s1.mem ∧
    (∀ (ti : Nat) (u : Thread), b.threads[ti]? = some u →
      (u.lates = [] → (∀ w, u.park ≠ .waita w) → t.thread? b.bid ti = some u) ∧
      (∀ w, u.lates = [] → u.park = .waita w →
        (s1.missing b.die w.pa = true → t.thread? b.bid ti = some u) ∧
        (s1.missing b.die w.pa = false → s1.mem.marked (lineOf w.pa) = true →
          t.thread? b.bid ti = some { u with pc := u.pc - 8, park := .ready, mark := false }) ∧
        (s1.missing b.die w.pa = false → s1.mem.marked (lineOf w.pa) = false →
          (waitaHolds s1 b.bid ti w = true → t.thread? b.bid ti = some (u.setP w.pd true).release) ∧
          (waitaHolds s1 b.bid ti w = false → t.thread? b.bid ti = some u))) ∧
      (u.lates ≠ [] → u.park = .ready ∨ u.park = .queued ∨ (∃ c, u.park = .retry c) → t.thread? b.bid ti = some { u with park := .marker }) ∧
      (u.lates ≠ [] → u.park = .marker ∨ (∃ f, u.park = .handler f) ∨ (∃ f k, u.park = .host f k) → t.thread? b.bid ti = some u) ∧
      (∀ lv id, u.lates ≠ [] → u.park = .bar lv id →
        t.thread? b.bid ti = some { u with pc := u.pc - BitVec.ofNat 64 u.back, park := .marker, mark := false } ∧
        ∀ y, t.block? b.bid = some y → (b.bid, ti) ∉ (t.barAt y u.crew lv id).arrived))) ∧
  (∀ (s : State) (b : Block) (code : TrapCode) (sub : Nat), s.block? b.bid = some b →
    let stopped : Prop := b.status = .halted ∨ b.status = .stopped .halt ∨ b.status = .ended
    (stopped → s.haltBlock b.bid code sub = s) ∧
    (¬ stopped → ∃ r : Report, r.kind = 2 ∧ r.code = code ∧ r.sub = sub ∧ r.die = b.die ∧ r.token = b.token ∧
      r.target = .block b.bid ∧
      let s1 := s.modCtx b.ctx (fun y => { y with held := y.held ++ [r] })
      (b.status = .resident → s.haltBlock b.bid code sub = s1.saveBlock b .halt) ∧
      ((∃ c, b.status = .stopped c) → s.haltBlock b.bid code sub = s1.modBlock b.bid (fun y => { y with status := .stopped .halt })) ∧
      ((∃ k, b.status = .saved k) → s.haltBlock b.bid code sub = s1.modBlock b.bid (fun y => { y with status := .halted }))))

/-- R47, R311, R312: at a word that no instruction has, every thread of the run takes the trap, or PRIV first. A report is
written to its place in the ring, and the tail moves on, only while the ring has a place free that its die can write (R252, R339);
the die's counter advances where one is named, idle threads wake (R315), and the host is interrupted as the route says. The answer
to an open report closes it and resumes, or abandons, what it is about, and an answer to none is ignored: a thread's block halts, a
halted block ends, a copy is cut short, a work entry is left, a record that could not be written is skipped (R373), the blocks that a watchdog had
saved end; and a resumed operation goes on where it stalled.
Where the manual leaves a point open, the model's choice holds: log entries 9, 31 and 32. -/
def Obligations.ReportsAreWrittenAndAnswered : Prop :=
  (∀ (s : State) (f : FetchFault) (i : Iss), s.iss? = some i → exec (.decodeTrap f) s = .next (s.modBlock i.blk.bid (fun b =>
    { b with threads := b.threads.map (fun t =>
        if i.run.has t = true then
          (if f.sys = true ∧ t.priv = false then t.fault i.ctx .priv 1 else t.fault i.ctx f.code f.sub f.addr)
        else t) }))) ∧
  (∀ (s : State) (ctx : Nat) (c : Context), s.ctx? ctx = some c →
    let idx := c.reptail.toNat % c.repsize.toNat
    let free : Prop := c.reptail - c.rephead ≠ c.repsize ∧ ∀ o ∈ c.open_, o.1 ≠ idx
    (s.waitingReports c = [] → exec (.reportWrite ctx) s = .next s) ∧
    (¬ free → exec (.reportWrite ctx) s = .next s) ∧
    (∀ r rs, s.waitingReports c = r :: rs → s.reportWaits c r.die = true → exec (.reportWrite ctx) s = .next s) ∧
    (∀ r rs, s.waitingReports c = r :: rs → free → s.reportWaits c r.die = false →
      exec (.reportWrite ctx) s = .next (s.putReport c r))) ∧
  (∀ (s : State) (ctx : Nat) (c : Context) (r : Report), s.ctx? ctx = some c →
    let idx := c.reptail.toNat % c.repsize.toNat
    let at_ := c.repbase.toNat + 64 * idx
    let t := s.putReport c r
    let k := (c.repctr.getD r.die 0).toNat
    let wakes : Prop := c.reptail + 1 ≠ c.rephead
    let raised : Prop := c.route.getLsbD (trapNum r.code) = true ∨ r.kind = 0 ∨ r.kind = 3
    (s.memOk → s.churn = [] → c.repbase.toNat % 64 = 0 → at_ / 2 ^ 53 % 2 = 0 →
      (∀ n < 64, t.mem.byte (at_ + n) = (r.bytes s.plat.time).getD n 0) ∧
      (∀ p, p < at_ ∨ at_ + 64 ≤ p → t.mem.byte p = s.mem.byte p)) ∧
    (∃ y, t.ctx? ctx = some y ∧ y.reptail = c.reptail + 1 ∧
      y.open_ = (if r.target = .none then c.open_ else c.open_ ++ [(idx, r.target)]) ∧
      ((∀ bid ti, r.target ≠ .thread bid ti) → y.held = dropFirst (fun o => o == r) c.held) ∧
      ((∃ bid ti, r.target = .thread bid ti) → y.held = c.held) ∧
      (k.testBit 15 = false → y.nctrs = c.nctrs) ∧
      (k.testBit 15 = true → y.netCtr r.die (k % 2 ^ 12) = (c.netCtr r.die (k % 2 ^ 12)).advance 1 ∧
        ∀ d n, (d, n) ≠ (r.die, k % 2 ^ 12) → y.netCtr d n = c.netCtr d n)) ∧
    (∀ (bid ti : Nat) (b : Block) (u : Thread), s.block? bid = some b → b.threads[ti]? = some u →
      (∀ tr, r.target = .thread bid ti → u.park = .host tr none →
        t.thread? bid ti = some { u with park := .host tr (some idx) }) ∧
      (∀ d, u.park = .idle d → b.ctx = ctx → wakes → t.thread? bid ti = some u.release) ∧
      ((∀ tr, u.park ≠ .host tr none) ∨ r.target ≠ .thread bid ti →
        (∀ d, u.park ≠ .idle d) ∨ b.ctx ≠ ctx ∨ ¬ wakes → t.thread? bid ti = some u)) ∧
    (s.elsewhere at_ = false → at_ / 2 ^ 53 % 2 = 0 → c.repbase.toNat % 64 = 0 →
      (raised → t.plat = { s.plat with
        irqs := s.plat.irqs ++ [(ctx, 0)]
        pages := s.plat.pages.map (fun g => if g.fn = ctx then { g with intstat := g.intstat ||| 1 } else g) }) ∧
      (¬ raised → t.plat = s.plat))) ∧
  (∀ (r : Report) (now : Nat), let f := field (r.bytes now)
    (r.bytes now).length = 64 ∧ f 0 1 = r.kind % 2 ^ 8 ∧ f 1 1 = trapNum r.code ∧ f 2 2 = r.sub % 2 ^ 16 ∧
    f 4 1 = r.die % 2 ^ 8 ∧ f 5 1 = 0 ∧ f 6 2 = r.token % 2 ^ 16 ∧ f 8 8 = r.addr.toNat ∧ f 16 2 = r.ctr % 2 ^ 16 ∧ f 18 6 = 0 ∧
    f 24 8 = r.num.toNat ∧ f 32 8 = r.pc.toNat ∧ f 40 4 = r.thread % 2 ^ 32 ∧ f 44 4 = r.node % 2 ^ 32 ∧
    f 48 8 = now % 2 ^ 64 ∧ f 56 8 = 0) ∧
  (∀ (s : State) (ctx idx : Nat) (c : Context), s.ctx? ctx = some c →
    let closed : State := s.modCtx ctx (fun y => { y with open_ := dropFirst (fun o => o.1 == idx) y.open_ })
    exec (.repactResume ctx idx) s = .next (s.repact ctx idx false) ∧
    exec (.repactAbandon ctx idx) s = .next (s.repact ctx idx true) ∧
    ((∀ o ∈ c.open_, o.1 ≠ idx) → exec (.repactResume ctx idx) s = .next s ∧ exec (.repactAbandon ctx idx) s = .next s) ∧
    (∀ k t, c.open_.find? (fun o => o.1 == idx) = some (k, t) →
      exec (.repactAbandon ctx idx) s = .next (closed.abandonTarget ctx t) ∧
      ((∀ bid, t ≠ .block bid) → exec (.repactResume ctx idx) s = .next (closed.resumeTarget ctx t)) ∧
      (∀ bid, t = .block bid → exec (.repactResume ctx idx) s = .next s))) ∧
  (∀ (s : State) (ctx : Nat),
    let goesOn (own : CopyOwner) : State :=
      { s with copies := s.copies.map (fun c => if c.owner = own then { c with stalled := false } else c) }
    (∀ bid ti, s.resumeTarget ctx (.thread bid ti) = s.modThread bid ti Thread.hostResume) ∧
    (∀ cid, s.resumeTarget ctx (.copy cid) = s.modCopy cid (fun c => { c with stalled := false })) ∧
    (∀ mid, s.resumeTarget ctx (.msg mid) = s.modMsg mid (fun m => { m with stalled := false })) ∧
    (∀ rid r, s.recv? rid = some r →
      (r.st = .recordHeld → s.resumeTarget ctx (.recv rid) = s.recvRecord r) ∧
      (r.st ≠ .recordHeld → s.resumeTarget ctx (.recv rid) = goesOn (.landing rid))) ∧
    (∀ eid e, s.ent? eid = some e → e.st ≠ .stalled → s.resumeTarget ctx (.entry eid) = (goesOn (.entry eid)).modFab (fun f =>
      { f with msgs := f.msgs.map (fun m => if m.entry = some eid then { m with stalled := false } else m) })) ∧
    (∀ rid, s.resumeTarget ctx (.reduction rid) = s.modRed rid (fun r => { r with held := false })) ∧
    (∀ d q n, s.resumeTarget ctx (.nodeRec d q n) = s.modNode d q n (fun m => { m with held := false }) ∧
      s.resumeTarget ctx (.graphRec d q) = s.modGraph d q (fun g => { g with held := false })) ∧
    (∀ lid, s.resumeTarget ctx (.launchRec lid) = s.modLaunch lid (fun l => { l with recordHeld := false })) ∧
    (∀ die, exec (.ctxResume 0 ctx) s = .next (s.resumeTarget ctx (.watchdog die))) ∧
    (∀ w o k a, s.resumeTarget ctx (.round w o k) = s ∧ s.resumeTarget ctx (.advance a) = s ∧ s.resumeTarget ctx .access = s)) ∧
  (∀ (s : State) (ctx : Nat),
    let ended (own : CopyOwner) : State :=
      (s.copies.filter (fun c => c.owner == own)).foldl (fun y c => y.abandonTarget ctx (.copy c.cid)) s
    let left (y : State) (es : List Nat) : State :=
      es.foldl (fun z eid => z.modEnt eid (fun e => { e with abandoned := true })) y
    (∀ bid ti u tr k, s.thread? bid ti = some u → u.park = .host tr (some k) →
      s.abandonTarget ctx (.thread bid ti) = s.haltBlock bid tr.code tr.sub) ∧
    (∀ cid c, s.copy? cid = some c → c.cid = cid →
      let t := s.abandonTarget ctx (.copy cid)
      t.copies = s.copies.map (fun o => if o.cid = cid then { o with abandoned := true, stalled := false, short := true } else o) ∧
      (∀ bid h b, s.block? bid = some b → h < b.tiles.length →
        (∃ r k, c.src = .tile bid h r k) ∨ (∃ d ∈ c.dsts, d.st = .accepted ∧ d.tileRef = some (bid, h)) →
        (t.tile bid h).aborted = true) ∧
      ((∀ bid h r k, c.src ≠ .tile bid h r k) → (∀ d ∈ c.dsts, d.tileRef = none) → t.blocks = s.blocks)) ∧
    (∀ mid m, s.msg? mid = some m → m.tile = none → (∀ r, m.st ≠ .matched r) → s.abandonTarget ctx (.msg mid) =
      s.modMsg m.mid (fun o => { o with cut := true, unread := 0, stalled := false })) ∧
    (∀ rid r, s.recv? rid = some r →
      (r.st ≠ .recordHeld → s.abandonTarget ctx (.recv rid) = ended (.landing rid)) ∧
      (r.st = .recordHeld → s.abandonTarget ctx (.recv rid) = ((s.modFab (fun f =>
        { f with recvs := f.recvs.filter (fun q => q.rid != r.rid) })).doneNum r.ctx r.die (some r.bid) (some r.ctr) r.num).reapMsgs)) ∧
    (∀ eid, (∀ m ∈ s.fab.msgs, m.entry = some eid → m.stalled = false) → s.abandonTarget ctx (.entry eid) =
      left ((ended (.entry eid)).modFab (fun f =>
        { f with reds := f.reds.filter (fun r => r.entry != some eid || r.away || r.group.isSome) })) [eid]) ∧
    (∀ rid r, s.red? rid = some r →
      (∀ g, r.group = some g → s.abandonTarget ctx (.reduction rid) =
        (left s ((s.fab.contribs.filter (fun c => c.gid == g)).filterMap (fun c => c.entry))).redGone r) ∧
      (∀ eid, r.group = none → r.entry = some eid → s.abandonTarget ctx (.reduction rid) = s.abandonTarget ctx (.entry eid)) ∧
      (r.group = none → r.entry = none → s.abandonTarget ctx (.reduction rid) = s.redGone r)) ∧
    (∀ w p k, let cs := s.fab.contribs.filter (fun c => c.win == w && c.off == p && c.round == k)
      s.abandonTarget ctx (.round w p k) = left (s.roundDone cs) (cs.filterMap (fun c => c.entry))) ∧
    (∀ aid, s.abandonTarget ctx (.advance aid) =
      s.modFab (fun f => { f with advances := f.advances.filter (fun a => a.aid != aid) })) ∧
    (∀ bid b, s.block? bid = some b →
      (b.status = .ended → s.abandonTarget ctx (.block bid) = s) ∧
      (b.status ≠ .ended → s.abandonTarget ctx (.block bid) = s.endBlock b true)) ∧
    (∀ die, s.abandonTarget ctx (.watchdog die) = (s.blocks.filter (fun b => b.ctx == ctx && b.die == die &&
      (match b.status with
       | .saved _ => true
       | .stopped _ => true
       | _ => false))).foldl (fun y b => y.endBlock b true) s) ∧
    (∀ d q n x m c, s.queue? d q = some x → s.node? d q n = some m → s.ctx? ctx = some c → m.status ≠ 0 →
      s.abandonTarget ctx (.nodeRec d q n) =
        (s.modNode x.die x.q m.idx (fun o => { o with finish := some (m.finish.getD s.plat.time) })).nodeGone x m m.status true []) ∧
    (∀ lid l, s.launch? lid = some l → s.abandonTarget ctx (.launchRec lid) = s.launchGone l true) ∧
    (∀ d q, s.abandonTarget ctx (.graphRec d q) = s.modQueue d q (fun x => { x with graph := none, head := x.head + 1 })) ∧
    s.abandonTarget ctx .access = s) ∧
  (∀ (t : Thread) (tr : Trap) (k : Nat), t.park = .host tr (some k) → t.priv = false → t.results = [] → t.lates = [] →
    t.hostResume = { t with
      tcause := BitVec.ofNat 32 (trapNum tr.code) ||| (if tr.late then 256 else 0) |||
        (BitVec.ofNat 16 tr.sub).setWidth 32 <<< 16
      tpc := tr.tpc, epc := tr.epc, taddr := tr.addr, tinfo := tr.info, pc := tr.epc, pend := [], park := .ready,
      mark := false })

/-! ### The host -/

/-- R303 to R305, R321, R324, R325, R331: what the host's writes to its registers do. A context is created by the physical
function alone, with a job of its own and a valid ring; a register of a created context takes a value that it permits, or an
error bit is set; the interrupt and service bits written as ones are cleared. A context that is destroyed performs its blocks' stores,
cancels its posted receives, and ends its graphs: a launch that runs, and every node then RUNNING, writes status 3. What the host reads of its page stands in it.
Where the manual leaves a point open, the model's choice holds: log entries 15, 16 and 29. -/
def Obligations.HostRegistersTakeTheirValues : Prop :=
  (∀ (s : State) (fn ctx : Nat) (job : Word) (p : FnPage), s.plat.pages.find? (fun g => g.fn == ctx) = some p →
    let ok : Prop := (∀ c ∈ s.ctxs, c.jobid ≠ job) ∧ isPow2In 64 65536 p.repsize.toNat = true ∧ p.repbase.toNat % 64 = 0
    (fn ≠ 0 ∨ (∃ c, s.ctx? ctx = some c) → exec (.ctxCreate fn ctx job) s = .next s) ∧
    (s.ctx? ctx = none → ¬ ok → exec (.ctxCreate 0 ctx job) s = .next (s.intBit 0 1)) ∧
    (s.ctx? ctx = none → ok → exec (.ctxCreate 0 ctx job) s = .next { s with ctxs := s.ctxs ++ [
      { num := ctx, suspended := false, destroying := false, jobid := job, root := 0, handler := 0, route := 0, stkbase := 0,
        stkmax := 0, repbase := p.repbase, repsize := p.repsize, rephead := 0, reptail := 0,
        repctr := List.replicate 8 0, nctrs := [], once := [], stats := [], held := [], open_ := [], watch := [] }] })) ∧
  (∀ (s : State) (fn ctx : Nat), (fn ≠ 0 → exec (.ctxDestroy fn ctx) s = .next s) ∧
    (∀ c, s.ctx? ctx = some c → ∃ t, exec (.ctxDestroy 0 ctx) s = .next t ∧ t.ctx? ctx = none ∧
      (∀ b ∈ t.blocks, b.ctx ≠ ctx) ∧ (∀ l ∈ t.launches, l.ctx ≠ ctx) ∧ (∀ y ∈ t.copies, y.ctx ≠ ctx) ∧
      (∀ r ∈ t.fab.recvs, r.ctx ≠ ctx) ∧ (∀ e ∈ t.fab.entries, e.ctx ≠ ctx) ∧ (∀ e ∈ t.tlb, e.ctx ≠ ctx) ∧
      (∀ m ∈ t.fab.msgs, m.ctx ≠ ctx) ∧ (∀ e ∈ t.saveQ, ∀ b ∈ s.blocks, b.bid = e.2 → b.ctx ≠ ctx) ∧
      let s1 := s.modCtx ctx (fun y => { y with destroying := true })
      let s2 := ((s1.blocks.filter (fun b => b.ctx == ctx)).map (fun b => b.bid)).foldl State.drainBlock s1
      let s3 := (s2.fab.recvs.filter (fun r => r.ctx == ctx && r.st == .posted)).foldl State.cancelRecv s2
      let s4 := (s3.queues.filter (fun x => x.ctx == ctx)).foldl (fun y x => match x.graph with
        | some g => y.destroyGraph x g
        | none => y) s3
      t.mem = s4.mem ∧ t.queues = s4.queues ∧ t.plat = s4.plat)) ∧
  (∀ (s : State) (x : Queue) (g : Graph),
    let now := s.plat.time
    let rec_ (y : State) (va : DWord) (status idx ready start finish ended halted : Nat) : State :=
      (y.writeRecord x.ctx x.die va (toBytes 4 status ++ toBytes 4 idx ++ toBytes 8 ready ++ toBytes 8 start ++ toBytes 8 finish ++
        toBytes 4 ended ++ toBytes 4 halted ++ List.replicate 24 0)).1
    let s1 := (g.nodes.filter (fun n => n.st == .running && !n.workDone)).foldl (fun y n => match n.lid.bind y.launch? with
      | some l => if l.rc.done = 0 ∨ l.out = true then y
          else rec_ y l.rc.done 3 n.idx n.ready n.start (n.finish.getD now) l.ended l.halted
      | none => y) s
    let runs := g.nodes.filter (fun n => n.st == .running && n.out.isNone)
    let s2 := (runs.filter (fun n => field n.raw 8 8 != 0 && field n.raw 8 8 % 64 == 0)).foldl (fun y n =>
      let l := n.lid.bind y.launch?
      rec_ y (BitVec.ofNat 64 (field n.raw 8 8)) 3 n.idx n.ready n.start (n.finish.getD now)
        ((l.map (fun o => o.ended)).getD 0) ((l.map (fun o => o.halted)).getD 0)) s1
    let worst := g.nodes.foldl (fun m n => max m n.worst) g.status
    let s3 := if g.doneVa = 0 ∨ g.out = true then s2
      else rec_ s2 g.doneVa (if runs = [] then worst else max 3 worst) 0xFFFFFFFF g.ready (g.start.getD now) now 0 0
    s.destroyGraph x g = s3.modQueue x.die x.q (fun y => { y with graph := none, head := y.head + 1 })) ∧
  (∀ (s : State) (fn : Nat) (val : DWord),
    exec (.intstatClear fn val) s = .next (s.modPage fn (fun p => { p with intstat := p.intstat &&& ~~~val })) ∧
    exec (.svcreqClear 0 val) s = .next (s.modPlat (fun p => { p with svcreq := p.svcreq &&& ~~~val })) ∧
    (fn ≠ 0 → exec (.svcreqClear fn val) s = .next s) ∧
    (val.toNat % 2 ^ 34 = 0 → val.toNat < 2 ^ 53 →
      exec (.winvaWrite fn val) s = .next (s.modPage fn (fun p => { p with winva := val }))) ∧
    (¬ (val.toNat % 2 ^ 34 = 0 ∧ val.toNat < 2 ^ 53) → exec (.winvaWrite fn val) s = .next (s.intBit fn 1)) ∧
    (∀ d, exec (.onceclr fn (some d)) s =
      .next (s.modCtx fn (fun c => { c with once := c.once.filter (fun o => o.ep != s.plat.fuses.pkg * 8 + d) }))) ∧
    exec (.onceclr fn none) s =
      .next (s.modCtx fn (fun c => { c with once := c.once.filter (fun o => !(o.ep / 8 == s.plat.fuses.pkg)) }))) ∧
  (∀ (s : State) (fn : Nat) (c : Context), s.ctx? fn = some c →
    (c.reptail = c.rephead → s.idleCheck fn = s) ∧ (c.reptail ≠ c.rephead → exec (.wake fn) s = .next (s.idleCheck fn))) ∧
  (∀ (s : State) (fn : Nat) (val : DWord),
    let low := loWord val
    (s.ctx? fn = none →
      exec (.ctlRegWrite fn 17 none val) s = .next (s.modPage fn (fun p => { p with jobid := loWord val })) ∧
      exec (.ctlRegWrite fn 22 none val) s = .next (s.modPage fn (fun p => { p with repbase := val })) ∧
      exec (.ctlRegWrite fn 23 none val) s = .next (s.modPage fn (fun p => { p with repsize := loWord val }))) ∧
    (∀ c, s.ctx? fn = some c → c.num = fn →
      (ctlOk c 16 val.toNat = true → exec (.ctlRegWrite fn 16 none val) s = .next (s.modCtx fn (fun y => { y with root := val }))) ∧
      (∀ n ∈ [16, 18, 20], ctlOk c n val.toNat = false → exec (.ctlRegWrite fn n none val) s = .next (s.intBit fn 1)) ∧
      (∀ n ∈ [21, 24, 26, 27], ctlOk c n low.toNat = false → exec (.ctlRegWrite fn n none val) s = .next (s.intBit fn 1)) ∧
      (∀ d < 8, ctlOk c 26 low.toNat = false → exec (.ctlRegWrite fn 26 (some d) val) s = .next (s.intBit fn 1)) ∧
      (ctlOk c 20 val.toNat = true →
        exec (.ctlRegWrite fn 20 none val) s = .next (s.modCtx fn (fun y => { y with stkbase := val }))) ∧
      (ctlOk c 21 low.toNat = true →
        exec (.ctlRegWrite fn 21 none val) s = .next (s.modCtx fn (fun y => { y with stkmax := low }))) ∧
      (ctlOk c 24 low.toNat = true → exec (.ctlRegWrite fn 24 none val) s =
        .next ((s.modCtx fn (fun y => { y with rephead := low })).idleCheck fn)) ∧
      (ctlOk c 26 low.toNat = true →
        (∀ d < 8, exec (.ctlRegWrite fn 26 (some d) val) s =
          .next (s.modCtx fn (fun y => { y with repctr := setAt y.repctr d low }))) ∧
        exec (.ctlRegWrite fn 26 none val) s = .next (s.modCtx fn (fun y =>
          { y with repctr := (List.range 8).foldl (fun r d => setAt r d low) y.repctr }))) ∧
      (ctlOk c 27 low.toNat = true → exec (.ctlRegWrite fn 27 none val) s =
        .next (s.repact fn (low.toNat % 2 ^ 16) (low.toNat.testBit 16))) ∧
      (∀ d < 8, exec (.ctlRegWrite fn 28 (some d) val) s = .next (s.modCtx fn (fun y =>
        { y with once := y.once.filter (fun o => o.ep != s.plat.fuses.pkg * 8 + d) }))) ∧
      exec (.ctlRegWrite fn 28 none val) s = .next (s.modCtx fn (fun y =>
        { y with once := y.once.filter (fun o => !(o.ep / 8 == s.plat.fuses.pkg)) })) ∧
      (ctlOk c 18 val.toNat = true →
        exec (.ctlRegWrite fn 18 none val) s = .next (s.modCtx fn (fun y => { y with handler := val }))) ∧
      exec (.ctlRegWrite fn 19 none val) s = .next (s.modCtx fn (fun y => { y with route := loWord val })) ∧
      (∀ n ∈ [17, 22, 23, 25], exec (.ctlRegWrite fn n none val) s = .next s)) ∧
    (val = 0 ∨ (val.toNat % 64 = 0 ∧ val.toNat / 2 ^ 52 % 4 = 0) →
      exec (.ctlRegWrite fn 32 none val) s = .next (s.modPlat (fun p => { p with winbase := val }))) ∧
    (¬ (val = 0 ∨ (val.toNat % 64 = 0 ∧ val.toNat / 2 ^ 52 % 4 = 0)) →
      exec (.ctlRegWrite fn 32 none val) s = .next (s.intBit fn 1)) ∧
    (∀ d num, num ≠ 26 → num ≠ 28 → exec (.ctlRegWrite fn num (some d) val) s = .next s)) ∧
  (∀ (s : State) (fn island : Nat) (val : DWord),
    let hi := val.toNat / 2 ^ 16 % 2 ^ 16
    let lo := val.toNat % 2 ^ 16
    let legal (n : Nat) : Prop := 600 ≤ n ∧ n ≤ 1000 ∧ n % 25 = 0
    let ok : Prop := fn = 0 ∧ island < 16 ∧ legal hi ∧ legal lo ∧ lo ≤ hi
    (¬ ok → exec (.islctlWrite fn island val) s = .next s) ∧
    (ok → exec (.islctlWrite fn island val) s = .next (s.modIsland island (fun i =>
      { i with max := hi, min := lo, cur := if s.limited island = true then max lo (min hi i.cur) else hi })))) ∧
  (∀ (s : State) (fn off size : Nat), exec (.readbackRead (.page fn off size)) s = .next (s.modPlat (fun p =>
    { p with hostRead := (List.range size).map (fun k => s.pageByte fn (off + k)) }))) ∧
  (∀ (s : State) (fn : Nat) (g : FnPage), s.plat.pages.find? (fun y => y.fn == fn) = some g →
    let reg (off : Nat) : Nat := fromBytes ((List.range 8).map (fun k => s.pageByte fn (off + k)))
    reg 0x18 = g.intstat.toNat ∧ reg 0x28 = g.winva.toNat ∧ reg 0x30 = s.plat.rdymap.toNat ∧
    reg 0x38 = (if fn = 0 then s.plat.svcreq.toNat else 0) ∧
    (s.ctx? fn = none → reg 8 = 0) ∧
    (∀ c, s.ctx? fn = some c → reg 8 = 1 + (if c.suspended = true then 2 else 0) + (if c.destroying = true then 4 else 0) ∧
      reg (0x100 + 8 * 24) = c.rephead.toNat ∧ reg (0x100 + 8 * 25) = c.reptail.toNat ∧ reg (0x100 + 8 * 27) = 0))

/-- R290, R323, R326 to R328, R337: a doorbell moves its queue's tail where the function owns the queue, the queue is enabled
and the ring has room, and else sets an error bit or does nothing; a queue is enabled by a descriptor that passes its checks,
and disabled once no graph runs, and until then a descriptor in force takes only the write that clears enable; bytes of a carve record are taken before the front end is ready, and the record counts where
it is valid. An aperture access goes through the function's context, waits for a line that has to come from another package (R252),
and one that fails reads ones and sets its bit alone; the read-back window shows its directory and changes nothing but what the host has read.
Where the manual leaves a point open, the model's choice holds: log entries 13, 33, 34, 35, 40 and 46. -/
def Obligations.QueuesAndAperturesServeTheHost : Prop :=
  (∀ (s : State) (fn die q : Nat) (tail : Word) (x : Queue), s.queue? die q = some x →
    (x.ctx ≠ fn → exec (.doorbell fn die q tail) s = .next s) ∧
    (x.ctx = fn → x.enabled = false ∨ s.frontUp die = false ∨ x.entries < (tail - x.head).toNat →
      exec (.doorbell fn die q tail) s = .next (s.intBit fn 1)) ∧
    (x.ctx = fn → x.enabled = true → s.frontUp die = true → (tail - x.head).toNat ≤ x.entries →
      exec (.doorbell fn die q tail) s = .next (s.modQueue die q (fun y => { y with tail := tail }))) ∧
    (∀ d, x.disabling = some d → x.graph = none → exec (.queueDisable die q) s = .next (s.modQueue die q (fun y =>
      { y with desc := d, enabled := false, disabling := none }))) ∧
    (x.disabling = none ∨ x.graph ≠ none → exec (.queueDisable die q) s = .next s)) ∧
  (∀ (s : State) (fn die q : Nat) (desc : List Byte),
    let x : Queue := (s.queue? die q).getD
      { die := die, q := q, desc := List.replicate 32 0, enabled := false, disabling := none, head := 0, tail := 0, graph := none }
    let put (s1 : State) (y : Queue) : Prop := exec (.queueDescWrite 0 die q desc) s =
      .next { s1 with queues := s1.queues.filter (fun z => !(z.die == die && z.q == q)) ++ [y] }
    let on := field desc 14 1 % 2
    (fn ≠ 0 ∨ 8 ≤ die ∨ 64 ≤ q ∨ desc.length ≠ 32 → exec (.queueDescWrite fn die q desc) s = .next s) ∧
    (die < 8 → q < 64 → desc.length = 32 →
      (x.enabled = true → on = 1 → exec (.queueDescWrite 0 die q desc) s = .next s) ∧
      (x.enabled = true → on = 0 → put s { x with disabling := some desc }) ∧
      (x.enabled = false → on = 0 → put s { x with desc := desc }) ∧
      (x.enabled = false → on = 1 → queueDescOk desc = true → put s { x with desc := desc, enabled := true }) ∧
      (x.enabled = false → on = 1 → queueDescOk desc = false →
        put (s.intBit 0 1) { x with desc := modAt desc 14 (fun b => b &&& 0xFE) }))) ∧
  (∀ desc : List Byte, queueDescOk desc = true ↔
    (∃ n, 4 ≤ n ∧ n ≤ 16 ∧ field desc 8 4 = 2 ^ n) ∧ field desc 12 1 ≤ 63 ∧ field desc 13 1 ≤ 3 ∧ field desc 0 8 % 32 = 0 ∧
    field desc 0 8 < 2 ^ 53 ∧ field desc 14 1 = 1 ∧ zeroAt desc 15 17 = true) ∧
  (∀ (die : Nat) (r : List Byte) (c : Carve),
    let f (k : Nat) : Nat := field r (8 * k) 8
    let apart (j k : Nat) : Prop := f j = f j + f (j + 1) ∨ f k = f k + f (k + 1) ∨ f j + f (j + 1) ≤ f k ∨ f k + f (k + 1) ≤ f j
    parseCarve die r = some c ↔
      c = { die := die, ubufBase := f 0, ubufSize := f 1, saveBase := f 2, saveSize := f 3, spawnBase := f 4, spawnSize := f 5 } ∧
      r.length = 64 ∧ (∀ k < 6, f k % 2 ^ 21 = 0) ∧ f 1 ≤ 2 ^ 30 ∧ f 0 + f 1 ≤ 2 ^ 37 ∧ f 2 + f 3 ≤ 2 ^ 37 ∧ f 4 + f 5 ≤ 2 ^ 37 ∧
      field r 48 1 = 1 ∧ zeroAt r 49 15 = true ∧ apart 0 2 ∧ apart 0 4 ∧ apart 2 4) ∧
  (∀ (s : State) (fn die off : Nat) (bytes : List Byte),
    let old := s.plat.carveRegs.getD die []
    let rec_ := old.take off ++ bytes ++ old.drop (off + bytes.length)
    (fn ≠ 0 ∨ 8 ≤ die ∨ s.frontUp die = true ∨ 64 < off + bytes.length → exec (.carveWrite fn die ⟨off, bytes⟩) s = .next s) ∧
    (die < 8 → s.frontUp die = false → off + bytes.length ≤ 64 →
      (∀ c, parseCarve die rec_ = some c → exec (.carveWrite 0 die ⟨off, bytes⟩) s = .next (s.modPlat (fun p => { p with
        carveRegs := setAt p.carveRegs die rec_, carves := p.carves.filter (fun y => y.die != die) ++ [c] }))) ∧
      (parseCarve die rec_ = none → exec (.carveWrite 0 die ⟨off, bytes⟩) s = .next (s.modPlat (fun p => { p with
        carveRegs := setAt p.carveRegs die (modAt rec_ 48 (fun b => b &&& 0xFE))
        carves := p.carves.filter (fun y => y.die != die) }))))) ∧
  (∀ (s s1 : State) (fn off size : Nat) (g : FnPage) (c : Context), s.staged fn off = false →
    s.plat.pages.find? (fun y => y.fn == fn) = some g → s.ctx? fn = some c →
    let at_ := aperturePieces (g.winva + BitVec.ofNat 64 off) off size
    let ones : State := (s.intBit fn 2).modPlat (fun p => { p with hostRead := List.replicate size 0xFF })
    (2 ^ 34 < off + size → exec (.apertureRead fn off size) s = .next ones ∧
      ∀ val, exec (.apertureWrite fn off size val) s = .next (s.intBit fn 2)) ∧
    (∀ bs, off + size ≤ 2 ^ 34 → s.readPieces c 0 at_ = (s1, .inr bs) → exec (.apertureRead fn off size) s =
      .next (s1.modPlat (fun p => { p with hostRead := bs }))) ∧
    (∀ f, off + size ≤ 2 ^ 34 → s.readPieces c 0 at_ = (s1, .inl f) → f.f.isHold = false →
      exec (.apertureRead fn off size) s = .next ones) ∧
    (∀ pas val, off + size ≤ 2 ^ 34 → s.aperturePas c at_ = (s1, .inr pas) →
      exec (.apertureWrite fn off size val) s = .next (s1.engineStore 0 .engine
        ((pas.zip (toBytes size val)).flatMap (fun (ps, b) => ps.map (fun pa => { addr := pa, mask := 0xFF, val := b }))))) ∧
    (∀ f val, off + size ≤ 2 ^ 34 →
      (s.readPieces c 0 at_ = (s1, .inl f) → f.f.isHold = true → exec (.apertureRead fn off size) s = .next (s.askFor 0 f.f)) ∧
      (s.aperturePas c at_ = (s1, .inl f.f) → f.f.isHold = true →
        exec (.apertureWrite fn off size val) s = .next (s.askFor 0 f.f))) ∧
    (∀ f val, off + size ≤ 2 ^ 34 → s.aperturePas c at_ = (s1, .inl f) → f.isHold = false →
      exec (.apertureWrite fn off size val) s = .next (s.intBit fn 2))) ∧
  (∀ (s : State) (die : Nat) (o : PeerOwner) (cells : List MaskByte) (a : Nat), s.memOk → s.churn = [] →
    (∀ c ∈ cells, bitsAt c.addr 53 1 = 0 ∧ c.mask = 0xFF) →
    (s.engineStore die o cells).mem.byte a =
      (((cells.filter (fun c => c.addr == a)).getLast?).map (fun c => c.val)).getD (s.mem.byte a)) ∧
  (∀ (s : State) (off : Nat), exec (.readbackRead (.window off)) s =
    .next (s.modPlat (fun p => { p with hostRead := toBytes 8 (s.windowWord (8 * (off / 8))).toNat }))) ∧
  (∀ (s : State) (k : Nat),
    (∀ u, readbackUnits[k]? = some u →
      toBytes 8 (s.windowWord (32 * k)).toNat = toBytes 2 u.1 ++ toBytes 1 u.2.1 ++ toBytes 1 0 ++ toBytes 4 u.2.2) ∧
    s.windowWord (32 * readbackUnits.length) = 0)

/-! ### The package -/

/-- R332 to R334, R339: reset leaves what the package holds across it; the boot ROM runs an image whose checks all pass, and
else shows the first that fails; the running firmware answers one request at a time; readiness bits are set in their own
ranges, a front end only after its carve record and the fabric only with a working port; a function that fails for good loses
its bit. The fused minimum rises only when the running firmware asks, and never falls.
Where the manual leaves a point open, the model's choice holds: log entries 36, 40, 44 and 46. -/
def Obligations.ResetBootAndReadiness : Prop :=
  (∀ s : State, exec .reset s = .next { State.reset with
    mem := { State.reset.mem with lost := s.mem.lost }
    plat := { Platform.reset with
      fuses := s.plat.fuses, spares := { s.plat.spares with coreErrs := [] }, hostRead := s.plat.hostRead }
    agenda := s.agenda, nextId := s.nextId, tick := s.tick }) ∧
  (∀ (s : State) (ask : Nat),
    let h := s.plat.boot.bytes 0 2048
    let len := field h 4 4
    let body := if 2 ^ 26 - 2048 < len then [] else s.plat.boot.bytes 2048 len
    (s.plat.rdymap.toNat.testBit 1 = true → exec .bootVerify s = .next s ∧
      exec (.functionReady (.minVersion ask)) s = .next (s.modPlat (fun p => { p with
        fuses := { p.fuses with minVersion := max p.fuses.minVersion (ask % 2 ^ 32) } }))) ∧
    (s.plat.rdymap.toNat.testBit 1 = false → exec (.functionReady (.minVersion ask)) s = .next s) ∧
    (s.plat.rdymap.toNat.testBit 1 = false → 1 ∈ s.plat.dead → exec .bootVerify s = .next s) ∧
    (s.plat.rdymap.toNat.testBit 1 = false → 1 ∉ s.plat.dead → ∀ n, bootCheck s.plat.fuses h body = n + 1 →
      exec .bootVerify s = .next (s.modPlat (fun p => { p with boot := { p.boot with bootReg := n + 1 } }))) ∧
    (s.plat.rdymap.toNat.testBit 1 = false → 1 ∉ s.plat.dead → bootCheck s.plat.fuses h body = 0 → exec .bootVerify s =
      .next (s.modPlat (fun p => { p with
        rdymap := p.rdymap ||| 2
        boot := { p.boot with running := true, imageDigest := sha512 (h ++ body), version := field h 8 4 } })))) ∧
  (∀ (s : State) (nonce : List Byte),
    (s.plat.boot.running = false ∨ s.plat.boot.attest = 1 ∨ nonce.length ≠ 64 → exec (.attestRequest nonce) s = .next s) ∧
    (s.plat.boot.running = true → s.plat.boot.attest ≠ 1 → nonce.length = 64 → exec (.attestRequest nonce) s =
      .next (s.modPlat (fun p => { p with boot := { p.boot with attest := 1, nonce := nonce } }))) ∧
    (s.plat.boot.attest ≠ 1 → exec .attestComplete s = .next s) ∧
    (s.plat.boot.attest = 1 → ∃ sig : List Byte, sig.length = 512 ∧ exec .attestComplete s = .next (s.modPlat (fun p => { p with boot := { p.boot with
      attest := 2, requests := p.boot.requests + 1
      report := p.boot.nonce ++ p.boot.imageDigest ++ toBytes 4 p.boot.version ++ toBytes 4 p.fuses.minVersion ++
        toBytes 8 p.svcreq.toNat ++ sig } })))) ∧
  (∀ (s : State) (bit : Nat),
    let set : State := s.modPlat (fun p => { p with rdymap := p.rdymap ||| BitVec.ofNat 64 (2 ^ bit) })
    (bit < 3 ∨ 43 < bit ∨ bit ∈ s.plat.dead → exec (.functionReady (.ready bit)) s = .next s) ∧
    (bit ∉ s.plat.dead → (3 ≤ bit ∧ bit < 27) ∨ (35 ≤ bit ∧ bit < 43) → exec (.functionReady (.ready bit)) s = .next set) ∧
    (bit ∉ s.plat.dead → 27 ≤ bit → bit < 35 →
      ((∃ c ∈ s.plat.carves, c.die = bit - 27) → exec (.functionReady (.ready bit)) s = .next set) ∧
      ((∀ c ∈ s.plat.carves, c.die ≠ bit - 27) → exec (.functionReady (.ready bit)) s = .next s)) ∧
    (bit ∉ s.plat.dead → bit = 43 →
      ((∃ p ∈ s.plat.ports, true ∈ p.lanes) → exec (.functionReady (.ready bit)) s = .next set) ∧
      ((∀ p ∈ s.plat.ports, true ∉ p.lanes) → exec (.functionReady (.ready bit)) s = .next s)) ∧
    (43 < bit ∨ bit ∈ s.plat.dead → exec (.functionReady (.failed bit)) s = .next s) ∧
    (bit ≤ 43 → bit ∉ s.plat.dead → bit ≠ 1 → ∃ n < 8, exec (.functionReady (.failed bit)) s = .next ((s.modPlat (fun p => { p with
      rdymap := p.rdymap &&& ~~~(BitVec.ofNat 64 (2 ^ bit)), dead := bit :: p.dead })).svc n)))

/-- R329 to R332: the time base never falls, slews by at most 200 ppm, and is stepped at once for an offset of a second or
more; a power sample sets and clears the limits as its currents, its temperatures and its draws tell; under a limit of the
package the islands that draw most step down, and so does one that is too hot, to their floors, and a free one up to its
ceiling, by 25 MHz; a thermal shutdown stops the package.
R14, R335, R336, R338: a corrected error is counted: of a register, a tile line or a core also for that core, of a line of
memory also for its row; one that is not marks its line, register or tile line and asks for service. A core with an error in
its logic, or with more than 1,000 corrected ones in a day, drains, and each error in its logic asks for service; a spare takes a drained core's number, with no error
counted yet, and without one the core is lost. A row with two corrected errors or one that
is not goes to a spare row while its bank has one, and a channel to its stack's spare; what lies behind a channel without a
spare is lost.
Where the manual leaves a point open, the model's choice holds: log entries 41, 42, 45 and 75. -/
def Obligations.PowerErrorsAndSparesAreKept : Prop :=
  ((∀ (s : State) (offset : Int),
     let up (r : DWord) : DWord := if 2 ∈ s.plat.dead then r else r ||| 4
     (1000000000 ≤ offset → exec (.ptpMessage offset) s = .next (s.modPlat (fun p => { p with
       rdymap := up p.rdymap, time := p.time + offset.toNat, slewLeft := 0 }))) ∧
     (offset < 1000000000 → exec (.ptpMessage offset) s = .next (s.modPlat (fun p => { p with
       rdymap := up p.rdymap, slewLeft := offset })))) ∧
   (∀ s : State, s.plat.slewRoom < 5000 →
     let n := Config.nanos s.tick
     let moved : Int := s.elapse.plat.time - s.plat.time - n
     s.plat.time ≤ s.elapse.plat.time ∧ s.elapse.plat.slewRoom < 5000 ∧ (5000 * moved.natAbs ≤ s.plat.slewRoom + n) ∧
     s.elapse.plat.slewLeft = s.plat.slewLeft - moved) ∧
   (∀ (s : State) (amps above avg watts : Nat) (draws hot : List Nat),
     let lim : Prop := 15000 < avg ∨ 10000 < watts
     let floor : Prop := (lim ∨ hot ≠ []) ∧ ∀ i ∈ s.plat.islands.take 16, i.cur ≤ i.min
     let newly : Prop := ∃ k ∈ hot, ∃ i, s.plat.islands[k]? = some i ∧ i.limited = false
     ∃ limit throttled : Bool,
       (limit = true ↔ lim) ∧
       (throttled = true ↔ floor ∨ 20000 < amps ∨ (15000 < amps ∧ 200 ≤ above) ∨ (s.plat.throttled = true ∧ 15000 ≤ amps)) ∧
       let sampled (s1 : State) : State := s1.modPlat (fun p => { p with
         powerLimit := limit, throttled := throttled,
         islands := p.islands.zipIdx.map (fun (i, k) => { i with limited := hot.contains k, draw := draws.getD k 0 }) })
       (newly → exec (.powerSample amps above ⟨avg, watts⟩ ⟨draws, hot⟩) s = .next (sampled (s.svc 7))) ∧
       (¬ newly → exec (.powerSample amps above ⟨avg, watts⟩ ⟨draws, hot⟩) s = .next (sampled s))) ∧
   (∀ (s : State) (island : Nat) (i : Island), s.plat.islands[island]? = some i → island < 16 →
     let falls (o : Island) : Prop := o.min + 25 ≤ o.cur
     let down : Prop := i.limited = true ∨
       (s.plat.powerLimit = true ∧ ∀ o ∈ s.plat.islands.take 16, falls o → o.draw ≤ i.draw)
     let set (n : Nat) : State := s.modPlat (fun p => { p with islands := modAt p.islands island (fun y => { y with cur := n }) })
     (down → falls i → exec (.clockStepDown island) s = .next (set (i.cur - 25))) ∧
     (¬ down ∨ ¬ falls i → exec (.clockStepDown island) s = .next s) ∧
     (s.plat.powerLimit = false → i.limited = false → i.cur + 25 ≤ i.max →
       exec (.clockStepUp island) s = .next (set (i.cur + 25))) ∧
     (s.plat.powerLimit = true ∨ i.limited = true ∨ i.max < i.cur + 25 → exec (.clockStepUp island) s = .next s)) ∧
   (∀ (s : State) (island : Nat), 16 ≤ island →
     exec (.clockStepDown island) s = .next s ∧ exec (.clockStepUp island) s = .next s) ∧
   (∀ (s : State) (island : Nat),
     exec (.thermalShutdown island) s = .next (s.modPlat (fun p => { p with stopped := true })) ∧
     exec (.junctionAbove105 island) s = .next ((s.modPlat (fun p => { p with
       islands := modAt p.islands island (fun i => { i with limited := true }) })).svc 7))) ∧
  ((∀ (s : State) (line : Nat),
     let place := Config.rowOf line
     let mine (r : RowErrs) : Bool := r.stack == stackAt line && r.bank == place.1 && r.row == place.2
     let noted (s1 : State) (f : RowErrs → RowErrs) : State := s1.modPlat (fun p => { p with spares := { p.spares with
       rowErrs := f ((p.spares.rowErrs.find? mine).getD
           { stack := stackAt line, bank := place.1, row := place.2, n := 0, bad := false }) ::
         p.spares.rowErrs.filter (fun r => !(mine r)) } })
     let counted : State := s.modPlat (fun p => { p with corrected := p.corrected + 1 })
     let once := noted counted (fun r => { r with n := r.n + 1 })
     let bad := (noted { s with mem := s.mem.mark line } (fun r => { r with bad := true })).svc 0
     exec (.scrub line none) s = .next s ∧ exec (.scrub line (some true)) s = .next once ∧
     exec (.scrub line (some false)) s = .next bad ∧
     exec (.softError (.memLine line) true) s = .next once ∧ exec (.softError (.memLine line) false) s = .next bad ∧
     exec (.softError .other true) s = .next counted ∧ exec (.softError .other false) s = .next (s.svc 0) ∧
     (∀ bid ti v, exec (.softError (.register bid ti v) false) s = .next ((s.modThread bid ti (fun t =>
       if v < t.v.length ∧ v ∉ t.badRegs then { t with badRegs := v :: t.badRegs } else t)).svc 0)) ∧
     (∀ bid ti k, exec (.softError (.kRegister bid ti k) false) s = .next ((s.modThread bid ti (fun t =>
       if k < 16 ∧ 0xC0 + k ∉ t.badRegs then { t with badRegs := (0xC0 + k) :: t.badRegs } else t)).svc 0)) ∧
     (∀ bid ti k, exec (.softError (.pRegister bid ti k) false) s = .next ((s.modThread bid ti (fun t =>
       if k < 8 ∧ 0xE0 + k ∉ t.badRegs then { t with badRegs := (0xE0 + k) :: t.badRegs } else t)).svc 0)) ∧
     (∀ bid ti w, exec (.softError (.wRegister bid ti w) false) s = .next ((s.modBlock bid (fun b =>
       match if w < 64 then b.threads[ti]? else none with
       | some t => { b with warps := b.warps.map (fun y =>
           if y.has t = true ∧ w ∉ y.badW then { y with badW := w :: y.badW } else y) }
       | none => b)).svc 0)) ∧
     (∀ bid h l, exec (.softError (.tileLine bid h l) false) s = .next ((s.modTile bid h (fun t =>
       { t with lines := modAt t.lines l (fun y => { y with marked := true }) })).svc 0)) ∧
     (∀ die core, exec (.softError (.core die core) false) s = exec (.coreFail ⟨die, core⟩ true) s)) ∧
   (∀ (s : State) (die core : Nat),
     let mine (e : CoreErrs) : Bool := e.die == die && e.core == core
     let today := s.plat.spares.coreErrs.find? (fun e => e.die == die && e.core == core && s.plat.time < e.since + 86400000000000)
     let counted : State := s.modPlat (fun p => { p with corrected := p.corrected + 1 })
     let here : State := counted.modPlat (fun p => { p with spares := { p.spares with
       coreErrs := { today.getD { die := die, core := core, n := 0, since := p.time } with
           n := (today.getD { die := die, core := core, n := 0, since := p.time }).n + 1 } ::
         p.spares.coreErrs.filter (fun e => !(mine e)) } })
     exec (.softError (.core die core) true) s = .next here ∧
     ((s.plat.spares.coreErrs.filter mine).length ≤ 1 → here.coreErrs die core = s.coreErrs die core + 1) ∧
     (∀ d c, (d, c) ≠ (die, core) → here.coreErrs d c = s.coreErrs d c) ∧
     (∀ bid n k,
       (∀ b, s.block? bid = some b → b.die = die → 8 * b.bay + b.pos = core →
         exec (.softError (.register bid n k) true) s = .next here ∧ exec (.softError (.kRegister bid n k) true) s = .next here ∧
         exec (.softError (.pRegister bid n k) true) s = .next here ∧ exec (.softError (.wRegister bid n k) true) s = .next here ∧
         exec (.softError (.tileLine bid n k) true) s = .next here) ∧
       (s.block? bid = none →
         exec (.softError (.register bid n k) true) s = .next counted ∧
         exec (.softError (.kRegister bid n k) true) s = .next counted ∧
         exec (.softError (.pRegister bid n k) true) s = .next counted ∧
         exec (.softError (.wRegister bid n k) true) s = .next counted ∧
         exec (.softError (.tileLine bid n k) true) s = .next counted))) ∧
   (∀ (s : State) (die core : Nat) (logic : Bool), 8 ≤ die ∨ 48 ≤ core → exec (.coreFail ⟨die, core⟩ logic) s = .next s) ∧
   (∀ (s : State) (die core : Nat) (logic : Bool), die < 8 → core < 48 →
     let x := s.plat.spares
     let drains : State := s.modPlat (fun p => { p with spares := { p.spares with draining := p.spares.draining ++ [(die, core)] } })
     ((die, core) ∈ x.lost → exec (.coreFail ⟨die, core⟩ logic) s = .next s) ∧
     ((die, core) ∈ x.draining → (die, core) ∉ x.lost →
       exec (.coreFail ⟨die, core⟩ true) s = .next (s.svc 0) ∧ exec (.coreFail ⟨die, core⟩ false) s = .next s) ∧
     ((die, core) ∉ x.draining → (die, core) ∉ x.lost →
       exec (.coreFail ⟨die, core⟩ true) s = .next (drains.svc 0) ∧
       (1000 < s.coreErrs die core → exec (.coreFail ⟨die, core⟩ false) s = .next drains) ∧
       (s.coreErrs die core ≤ 1000 → exec (.coreFail ⟨die, core⟩ false) s = .next s))) ∧
   (∀ (s : State) (die half : Nat),
     let x := s.plat.spares
     let hit := x.draining.find? (fun c => c.1 == die && c.2 / 24 == half && s.drained c.1 c.2)
     let set (f : Spares → Spares) : State := s.modPlat (fun p => { p with spares := f p.spares })
     (hit = none → exec (.spareEngage die half) s = .next s) ∧
     (∀ c, hit = some c → (die, half) ∉ x.used → exec (.spareEngage die half) s = .next ((set (fun y =>
       { y with draining := y.draining.filter (fun o => o != c), used := y.used ++ [(die, half)],
                coreErrs := y.coreErrs.filter (fun e => !(e.die == c.1 && e.core == c.2)) })).svc 1)) ∧
     (∀ c, hit = some c → (die, half) ∈ x.used → exec (.spareEngage die half) s = .next ((set (fun y =>
       { y with draining := y.draining.filter (fun o => o != c), lost := y.lost ++ [c] })).svc 2))) ∧
   (∀ (s : State) (stack bank row channel : Nat),
     let x := s.plat.spares
     let mine (r : RowErrs) : Bool := r.stack == stack && r.bank == bank && r.row == row
     let asks : Prop := ∃ r ∈ x.rowErrs, mine r = true ∧ (r.bad = true ∨ 2 ≤ r.n)
     let used := (x.rowsUsed.filter (fun b => b == (stack, bank))).length
     let moved : State := s.modPlat (fun p => { p with spares := { p.spares with
       rowsUsed := p.spares.rowsUsed ++ [(stack, bank)], rowErrs := p.spares.rowErrs.filter (fun r => !(mine r)) } })
     (¬ asks ∨ Config.spareRows ≤ used → exec (.hbmRowRemap stack bank row) s = .next s) ∧
     (asks → used < Config.spareRows →
       (9 * Config.spareRows < 10 * (used + 1) → exec (.hbmRowRemap stack bank row) s = .next (moved.svc 3)) ∧
       (10 * (used + 1) ≤ 9 * Config.spareRows → exec (.hbmRowRemap stack bank row) s = .next moved)) ∧
     (stack ∉ x.channelsUsed → exec (.channelFail stack channel) s = .next ((s.modPlat (fun p =>
       { p with spares := { p.spares with channelsUsed := p.spares.channelsUsed ++ [stack] } })).svc 4)) ∧
     (stack ∈ x.channelsUsed → exec (.channelFail stack channel) s = .next (({ s with
       mem := { s.mem with lost := s.mem.lost ++ [(16 * s.plat.fuses.pkg + stack, channel)] } } : State).svc 4))))
end

