-- ==== Sys2Proof/Laws/State.lean ====
section
/-! SUPPORT. What each update of the state leaves alone, field by field, and what the finders give after it. -/

namespace Sys2Proof.Machine

open Sys2Proof

@[simp] theorem State.modBlock_mem (s : State) (bid : Nat) (f : Block → Block) : (s.modBlock bid f).mem = s.mem := rfl
@[simp] theorem State.modBlock_clusters (s : State) (bid : Nat) (f : Block → Block) : (s.modBlock bid f).clusters = s.clusters := rfl
@[simp] theorem State.modBlock_launches (s : State) (bid : Nat) (f : Block → Block) : (s.modBlock bid f).launches = s.launches := rfl
@[simp] theorem State.modBlock_queues (s : State) (bid : Nat) (f : Block → Block) : (s.modBlock bid f).queues = s.queues := rfl
@[simp] theorem State.modBlock_ctxs (s : State) (bid : Nat) (f : Block → Block) : (s.modBlock bid f).ctxs = s.ctxs := rfl
@[simp] theorem State.modBlock_scheds (s : State) (bid : Nat) (f : Block → Block) : (s.modBlock bid f).scheds = s.scheds := rfl
@[simp] theorem State.modBlock_mats (s : State) (bid : Nat) (f : Block → Block) : (s.modBlock bid f).mats = s.mats := rfl
@[simp] theorem State.modBlock_copies (s : State) (bid : Nat) (f : Block → Block) : (s.modBlock bid f).copies = s.copies := rfl
@[simp] theorem State.modBlock_churn (s : State) (bid : Nat) (f : Block → Block) : (s.modBlock bid f).churn = s.churn := rfl
@[simp] theorem State.modBlock_tlb (s : State) (bid : Nat) (f : Block → Block) : (s.modBlock bid f).tlb = s.tlb := rfl
@[simp] theorem State.modBlock_dir (s : State) (bid : Nat) (f : Block → Block) : (s.modBlock bid f).dir = s.dir := rfl
@[simp] theorem State.modBlock_fab (s : State) (bid : Nat) (f : Block → Block) : (s.modBlock bid f).fab = s.fab := rfl
@[simp] theorem State.modBlock_plat (s : State) (bid : Nat) (f : Block → Block) : (s.modBlock bid f).plat = s.plat := rfl
@[simp] theorem State.modBlock_saveQ (s : State) (bid : Nat) (f : Block → Block) : (s.modBlock bid f).saveQ = s.saveQ := rfl
@[simp] theorem State.modBlock_cur (s : State) (bid : Nat) (f : Block → Block) : (s.modBlock bid f).cur = s.cur := rfl
@[simp] theorem State.modBlock_agenda (s : State) (bid : Nat) (f : Block → Block) : (s.modBlock bid f).agenda = s.agenda := rfl
@[simp] theorem State.modBlock_nextId (s : State) (bid : Nat) (f : Block → Block) : (s.modBlock bid f).nextId = s.nextId := rfl
@[simp] theorem State.modBlock_tick (s : State) (bid : Nat) (f : Block → Block) : (s.modBlock bid f).tick = s.tick := rfl

@[simp] theorem State.modThread_mem (s : State) (bid ti : Nat) (f : Thread → Thread) : (s.modThread bid ti f).mem = s.mem := rfl
@[simp] theorem State.modThread_clusters (s : State) (bid ti : Nat) (f : Thread → Thread) : (s.modThread bid ti f).clusters = s.clusters := rfl
@[simp] theorem State.modThread_launches (s : State) (bid ti : Nat) (f : Thread → Thread) : (s.modThread bid ti f).launches = s.launches := rfl
@[simp] theorem State.modThread_queues (s : State) (bid ti : Nat) (f : Thread → Thread) : (s.modThread bid ti f).queues = s.queues := rfl
@[simp] theorem State.modThread_ctxs (s : State) (bid ti : Nat) (f : Thread → Thread) : (s.modThread bid ti f).ctxs = s.ctxs := rfl
@[simp] theorem State.modThread_scheds (s : State) (bid ti : Nat) (f : Thread → Thread) : (s.modThread bid ti f).scheds = s.scheds := rfl
@[simp] theorem State.modThread_mats (s : State) (bid ti : Nat) (f : Thread → Thread) : (s.modThread bid ti f).mats = s.mats := rfl
@[simp] theorem State.modThread_copies (s : State) (bid ti : Nat) (f : Thread → Thread) : (s.modThread bid ti f).copies = s.copies := rfl
@[simp] theorem State.modThread_churn (s : State) (bid ti : Nat) (f : Thread → Thread) : (s.modThread bid ti f).churn = s.churn := rfl
@[simp] theorem State.modThread_tlb (s : State) (bid ti : Nat) (f : Thread → Thread) : (s.modThread bid ti f).tlb = s.tlb := rfl
@[simp] theorem State.modThread_dir (s : State) (bid ti : Nat) (f : Thread → Thread) : (s.modThread bid ti f).dir = s.dir := rfl
@[simp] theorem State.modThread_fab (s : State) (bid ti : Nat) (f : Thread → Thread) : (s.modThread bid ti f).fab = s.fab := rfl
@[simp] theorem State.modThread_plat (s : State) (bid ti : Nat) (f : Thread → Thread) : (s.modThread bid ti f).plat = s.plat := rfl
@[simp] theorem State.modThread_saveQ (s : State) (bid ti : Nat) (f : Thread → Thread) : (s.modThread bid ti f).saveQ = s.saveQ := rfl
@[simp] theorem State.modThread_cur (s : State) (bid ti : Nat) (f : Thread → Thread) : (s.modThread bid ti f).cur = s.cur := rfl
@[simp] theorem State.modThread_agenda (s : State) (bid ti : Nat) (f : Thread → Thread) : (s.modThread bid ti f).agenda = s.agenda := rfl
@[simp] theorem State.modThread_nextId (s : State) (bid ti : Nat) (f : Thread → Thread) : (s.modThread bid ti f).nextId = s.nextId := rfl
@[simp] theorem State.modThread_tick (s : State) (bid ti : Nat) (f : Thread → Thread) : (s.modThread bid ti f).tick = s.tick := rfl

@[simp] theorem State.modWarp_mem (s : State) (r : WarpRef) (f : Warp → Warp) : (s.modWarp r f).mem = s.mem := rfl
@[simp] theorem State.modWarp_clusters (s : State) (r : WarpRef) (f : Warp → Warp) : (s.modWarp r f).clusters = s.clusters := rfl
@[simp] theorem State.modWarp_launches (s : State) (r : WarpRef) (f : Warp → Warp) : (s.modWarp r f).launches = s.launches := rfl
@[simp] theorem State.modWarp_queues (s : State) (r : WarpRef) (f : Warp → Warp) : (s.modWarp r f).queues = s.queues := rfl
@[simp] theorem State.modWarp_ctxs (s : State) (r : WarpRef) (f : Warp → Warp) : (s.modWarp r f).ctxs = s.ctxs := rfl
@[simp] theorem State.modWarp_scheds (s : State) (r : WarpRef) (f : Warp → Warp) : (s.modWarp r f).scheds = s.scheds := rfl
@[simp] theorem State.modWarp_mats (s : State) (r : WarpRef) (f : Warp → Warp) : (s.modWarp r f).mats = s.mats := rfl
@[simp] theorem State.modWarp_copies (s : State) (r : WarpRef) (f : Warp → Warp) : (s.modWarp r f).copies = s.copies := rfl
@[simp] theorem State.modWarp_churn (s : State) (r : WarpRef) (f : Warp → Warp) : (s.modWarp r f).churn = s.churn := rfl
@[simp] theorem State.modWarp_tlb (s : State) (r : WarpRef) (f : Warp → Warp) : (s.modWarp r f).tlb = s.tlb := rfl
@[simp] theorem State.modWarp_dir (s : State) (r : WarpRef) (f : Warp → Warp) : (s.modWarp r f).dir = s.dir := rfl
@[simp] theorem State.modWarp_fab (s : State) (r : WarpRef) (f : Warp → Warp) : (s.modWarp r f).fab = s.fab := rfl
@[simp] theorem State.modWarp_plat (s : State) (r : WarpRef) (f : Warp → Warp) : (s.modWarp r f).plat = s.plat := rfl
@[simp] theorem State.modWarp_saveQ (s : State) (r : WarpRef) (f : Warp → Warp) : (s.modWarp r f).saveQ = s.saveQ := rfl
@[simp] theorem State.modWarp_cur (s : State) (r : WarpRef) (f : Warp → Warp) : (s.modWarp r f).cur = s.cur := rfl
@[simp] theorem State.modWarp_agenda (s : State) (r : WarpRef) (f : Warp → Warp) : (s.modWarp r f).agenda = s.agenda := rfl
@[simp] theorem State.modWarp_nextId (s : State) (r : WarpRef) (f : Warp → Warp) : (s.modWarp r f).nextId = s.nextId := rfl
@[simp] theorem State.modWarp_tick (s : State) (r : WarpRef) (f : Warp → Warp) : (s.modWarp r f).tick = s.tick := rfl

@[simp] theorem State.waitThread_mem (s : State) (bid ti : Nat) (c : Cond) : (s.waitThread bid ti c).mem = s.mem := rfl
@[simp] theorem State.waitThread_clusters (s : State) (bid ti : Nat) (c : Cond) : (s.waitThread bid ti c).clusters = s.clusters := rfl
@[simp] theorem State.waitThread_launches (s : State) (bid ti : Nat) (c : Cond) : (s.waitThread bid ti c).launches = s.launches := rfl
@[simp] theorem State.waitThread_queues (s : State) (bid ti : Nat) (c : Cond) : (s.waitThread bid ti c).queues = s.queues := rfl
@[simp] theorem State.waitThread_ctxs (s : State) (bid ti : Nat) (c : Cond) : (s.waitThread bid ti c).ctxs = s.ctxs := rfl
@[simp] theorem State.waitThread_scheds (s : State) (bid ti : Nat) (c : Cond) : (s.waitThread bid ti c).scheds = s.scheds := rfl
@[simp] theorem State.waitThread_mats (s : State) (bid ti : Nat) (c : Cond) : (s.waitThread bid ti c).mats = s.mats := rfl
@[simp] theorem State.waitThread_copies (s : State) (bid ti : Nat) (c : Cond) : (s.waitThread bid ti c).copies = s.copies := rfl
@[simp] theorem State.waitThread_churn (s : State) (bid ti : Nat) (c : Cond) : (s.waitThread bid ti c).churn = s.churn := rfl
@[simp] theorem State.waitThread_tlb (s : State) (bid ti : Nat) (c : Cond) : (s.waitThread bid ti c).tlb = s.tlb := rfl
@[simp] theorem State.waitThread_dir (s : State) (bid ti : Nat) (c : Cond) : (s.waitThread bid ti c).dir = s.dir := rfl
@[simp] theorem State.waitThread_fab (s : State) (bid ti : Nat) (c : Cond) : (s.waitThread bid ti c).fab = s.fab := rfl
@[simp] theorem State.waitThread_plat (s : State) (bid ti : Nat) (c : Cond) : (s.waitThread bid ti c).plat = s.plat := rfl
@[simp] theorem State.waitThread_saveQ (s : State) (bid ti : Nat) (c : Cond) : (s.waitThread bid ti c).saveQ = s.saveQ := rfl
@[simp] theorem State.waitThread_cur (s : State) (bid ti : Nat) (c : Cond) : (s.waitThread bid ti c).cur = s.cur := rfl
@[simp] theorem State.waitThread_agenda (s : State) (bid ti : Nat) (c : Cond) : (s.waitThread bid ti c).agenda = s.agenda := rfl
@[simp] theorem State.waitThread_nextId (s : State) (bid ti : Nat) (c : Cond) : (s.waitThread bid ti c).nextId = s.nextId := rfl
@[simp] theorem State.waitThread_tick (s : State) (bid ti : Nat) (c : Cond) : (s.waitThread bid ti c).tick = s.tick := rfl

@[simp] theorem State.pass_mem (s : State) (x : Sig) (bid ti : Nat) : (s.pass x bid ti).mem = s.mem := rfl
@[simp] theorem State.pass_clusters (s : State) (x : Sig) (bid ti : Nat) : (s.pass x bid ti).clusters = s.clusters := rfl
@[simp] theorem State.pass_launches (s : State) (x : Sig) (bid ti : Nat) : (s.pass x bid ti).launches = s.launches := rfl
@[simp] theorem State.pass_queues (s : State) (x : Sig) (bid ti : Nat) : (s.pass x bid ti).queues = s.queues := rfl
@[simp] theorem State.pass_ctxs (s : State) (x : Sig) (bid ti : Nat) : (s.pass x bid ti).ctxs = s.ctxs := rfl
@[simp] theorem State.pass_scheds (s : State) (x : Sig) (bid ti : Nat) : (s.pass x bid ti).scheds = s.scheds := rfl
@[simp] theorem State.pass_mats (s : State) (x : Sig) (bid ti : Nat) : (s.pass x bid ti).mats = s.mats := rfl
@[simp] theorem State.pass_copies (s : State) (x : Sig) (bid ti : Nat) : (s.pass x bid ti).copies = s.copies := rfl
@[simp] theorem State.pass_churn (s : State) (x : Sig) (bid ti : Nat) : (s.pass x bid ti).churn = s.churn := rfl
@[simp] theorem State.pass_tlb (s : State) (x : Sig) (bid ti : Nat) : (s.pass x bid ti).tlb = s.tlb := rfl
@[simp] theorem State.pass_dir (s : State) (x : Sig) (bid ti : Nat) : (s.pass x bid ti).dir = s.dir := rfl
@[simp] theorem State.pass_fab (s : State) (x : Sig) (bid ti : Nat) : (s.pass x bid ti).fab = s.fab := rfl
@[simp] theorem State.pass_plat (s : State) (x : Sig) (bid ti : Nat) : (s.pass x bid ti).plat = s.plat := rfl
@[simp] theorem State.pass_saveQ (s : State) (x : Sig) (bid ti : Nat) : (s.pass x bid ti).saveQ = s.saveQ := rfl
@[simp] theorem State.pass_cur (s : State) (x : Sig) (bid ti : Nat) : (s.pass x bid ti).cur = s.cur := rfl
@[simp] theorem State.pass_agenda (s : State) (x : Sig) (bid ti : Nat) : (s.pass x bid ti).agenda = s.agenda := rfl
@[simp] theorem State.pass_nextId (s : State) (x : Sig) (bid ti : Nat) : (s.pass x bid ti).nextId = s.nextId := rfl
@[simp] theorem State.pass_tick (s : State) (x : Sig) (bid ti : Nat) : (s.pass x bid ti).tick = s.tick := rfl

@[simp] theorem State.goTo_mem (s : State) (bid ti : Nat) (sw : Bool) (pc : DWord) : (s.goTo bid ti sw pc).mem = s.mem := rfl
@[simp] theorem State.goTo_clusters (s : State) (bid ti : Nat) (sw : Bool) (pc : DWord) : (s.goTo bid ti sw pc).clusters = s.clusters := rfl
@[simp] theorem State.goTo_launches (s : State) (bid ti : Nat) (sw : Bool) (pc : DWord) : (s.goTo bid ti sw pc).launches = s.launches := rfl
@[simp] theorem State.goTo_queues (s : State) (bid ti : Nat) (sw : Bool) (pc : DWord) : (s.goTo bid ti sw pc).queues = s.queues := rfl
@[simp] theorem State.goTo_ctxs (s : State) (bid ti : Nat) (sw : Bool) (pc : DWord) : (s.goTo bid ti sw pc).ctxs = s.ctxs := rfl
@[simp] theorem State.goTo_scheds (s : State) (bid ti : Nat) (sw : Bool) (pc : DWord) : (s.goTo bid ti sw pc).scheds = s.scheds := rfl
@[simp] theorem State.goTo_mats (s : State) (bid ti : Nat) (sw : Bool) (pc : DWord) : (s.goTo bid ti sw pc).mats = s.mats := rfl
@[simp] theorem State.goTo_copies (s : State) (bid ti : Nat) (sw : Bool) (pc : DWord) : (s.goTo bid ti sw pc).copies = s.copies := rfl
@[simp] theorem State.goTo_churn (s : State) (bid ti : Nat) (sw : Bool) (pc : DWord) : (s.goTo bid ti sw pc).churn = s.churn := rfl
@[simp] theorem State.goTo_tlb (s : State) (bid ti : Nat) (sw : Bool) (pc : DWord) : (s.goTo bid ti sw pc).tlb = s.tlb := rfl
@[simp] theorem State.goTo_dir (s : State) (bid ti : Nat) (sw : Bool) (pc : DWord) : (s.goTo bid ti sw pc).dir = s.dir := rfl
@[simp] theorem State.goTo_fab (s : State) (bid ti : Nat) (sw : Bool) (pc : DWord) : (s.goTo bid ti sw pc).fab = s.fab := rfl
@[simp] theorem State.goTo_plat (s : State) (bid ti : Nat) (sw : Bool) (pc : DWord) : (s.goTo bid ti sw pc).plat = s.plat := rfl
@[simp] theorem State.goTo_saveQ (s : State) (bid ti : Nat) (sw : Bool) (pc : DWord) : (s.goTo bid ti sw pc).saveQ = s.saveQ := rfl
@[simp] theorem State.goTo_cur (s : State) (bid ti : Nat) (sw : Bool) (pc : DWord) : (s.goTo bid ti sw pc).cur = s.cur := rfl
@[simp] theorem State.goTo_agenda (s : State) (bid ti : Nat) (sw : Bool) (pc : DWord) : (s.goTo bid ti sw pc).agenda = s.agenda := rfl
@[simp] theorem State.goTo_nextId (s : State) (bid ti : Nat) (sw : Bool) (pc : DWord) : (s.goTo bid ti sw pc).nextId = s.nextId := rfl
@[simp] theorem State.goTo_tick (s : State) (bid ti : Nat) (sw : Bool) (pc : DWord) : (s.goTo bid ti sw pc).tick = s.tick := rfl

@[simp] theorem State.faultThread_mem (s : State) (i : Iss) (ti : Nat) (code : TrapCode) (sub : Nat) (a : DWord) (w : Word) : (s.faultThread i ti code sub a w).mem = s.mem := rfl
@[simp] theorem State.faultThread_clusters (s : State) (i : Iss) (ti : Nat) (code : TrapCode) (sub : Nat) (a : DWord) (w : Word) : (s.faultThread i ti code sub a w).clusters = s.clusters := rfl
@[simp] theorem State.faultThread_launches (s : State) (i : Iss) (ti : Nat) (code : TrapCode) (sub : Nat) (a : DWord) (w : Word) : (s.faultThread i ti code sub a w).launches = s.launches := rfl
@[simp] theorem State.faultThread_queues (s : State) (i : Iss) (ti : Nat) (code : TrapCode) (sub : Nat) (a : DWord) (w : Word) : (s.faultThread i ti code sub a w).queues = s.queues := rfl
@[simp] theorem State.faultThread_ctxs (s : State) (i : Iss) (ti : Nat) (code : TrapCode) (sub : Nat) (a : DWord) (w : Word) : (s.faultThread i ti code sub a w).ctxs = s.ctxs := rfl
@[simp] theorem State.faultThread_scheds (s : State) (i : Iss) (ti : Nat) (code : TrapCode) (sub : Nat) (a : DWord) (w : Word) : (s.faultThread i ti code sub a w).scheds = s.scheds := rfl
@[simp] theorem State.faultThread_mats (s : State) (i : Iss) (ti : Nat) (code : TrapCode) (sub : Nat) (a : DWord) (w : Word) : (s.faultThread i ti code sub a w).mats = s.mats := rfl
@[simp] theorem State.faultThread_copies (s : State) (i : Iss) (ti : Nat) (code : TrapCode) (sub : Nat) (a : DWord) (w : Word) : (s.faultThread i ti code sub a w).copies = s.copies := rfl
@[simp] theorem State.faultThread_churn (s : State) (i : Iss) (ti : Nat) (code : TrapCode) (sub : Nat) (a : DWord) (w : Word) : (s.faultThread i ti code sub a w).churn = s.churn := rfl
@[simp] theorem State.faultThread_tlb (s : State) (i : Iss) (ti : Nat) (code : TrapCode) (sub : Nat) (a : DWord) (w : Word) : (s.faultThread i ti code sub a w).tlb = s.tlb := rfl
@[simp] theorem State.faultThread_dir (s : State) (i : Iss) (ti : Nat) (code : TrapCode) (sub : Nat) (a : DWord) (w : Word) : (s.faultThread i ti code sub a w).dir = s.dir := rfl
@[simp] theorem State.faultThread_fab (s : State) (i : Iss) (ti : Nat) (code : TrapCode) (sub : Nat) (a : DWord) (w : Word) : (s.faultThread i ti code sub a w).fab = s.fab := rfl
@[simp] theorem State.faultThread_plat (s : State) (i : Iss) (ti : Nat) (code : TrapCode) (sub : Nat) (a : DWord) (w : Word) : (s.faultThread i ti code sub a w).plat = s.plat := rfl
@[simp] theorem State.faultThread_saveQ (s : State) (i : Iss) (ti : Nat) (code : TrapCode) (sub : Nat) (a : DWord) (w : Word) : (s.faultThread i ti code sub a w).saveQ = s.saveQ := rfl
@[simp] theorem State.faultThread_cur (s : State) (i : Iss) (ti : Nat) (code : TrapCode) (sub : Nat) (a : DWord) (w : Word) : (s.faultThread i ti code sub a w).cur = s.cur := rfl
@[simp] theorem State.faultThread_agenda (s : State) (i : Iss) (ti : Nat) (code : TrapCode) (sub : Nat) (a : DWord) (w : Word) : (s.faultThread i ti code sub a w).agenda = s.agenda := rfl
@[simp] theorem State.faultThread_nextId (s : State) (i : Iss) (ti : Nat) (code : TrapCode) (sub : Nat) (a : DWord) (w : Word) : (s.faultThread i ti code sub a w).nextId = s.nextId := rfl
@[simp] theorem State.faultThread_tick (s : State) (i : Iss) (ti : Nat) (code : TrapCode) (sub : Nat) (a : DWord) (w : Word) : (s.faultThread i ti code sub a w).tick = s.tick := rfl

@[simp] theorem State.setStatus_mem (s : State) (bid : Nat) (x : BlockStatus) : (s.setStatus bid x).mem = s.mem := rfl
@[simp] theorem State.setStatus_clusters (s : State) (bid : Nat) (x : BlockStatus) : (s.setStatus bid x).clusters = s.clusters := rfl
@[simp] theorem State.setStatus_launches (s : State) (bid : Nat) (x : BlockStatus) : (s.setStatus bid x).launches = s.launches := rfl
@[simp] theorem State.setStatus_queues (s : State) (bid : Nat) (x : BlockStatus) : (s.setStatus bid x).queues = s.queues := rfl
@[simp] theorem State.setStatus_ctxs (s : State) (bid : Nat) (x : BlockStatus) : (s.setStatus bid x).ctxs = s.ctxs := rfl
@[simp] theorem State.setStatus_scheds (s : State) (bid : Nat) (x : BlockStatus) : (s.setStatus bid x).scheds = s.scheds := rfl
@[simp] theorem State.setStatus_mats (s : State) (bid : Nat) (x : BlockStatus) : (s.setStatus bid x).mats = s.mats := rfl
@[simp] theorem State.setStatus_copies (s : State) (bid : Nat) (x : BlockStatus) : (s.setStatus bid x).copies = s.copies := rfl
@[simp] theorem State.setStatus_churn (s : State) (bid : Nat) (x : BlockStatus) : (s.setStatus bid x).churn = s.churn := rfl
@[simp] theorem State.setStatus_tlb (s : State) (bid : Nat) (x : BlockStatus) : (s.setStatus bid x).tlb = s.tlb := rfl
@[simp] theorem State.setStatus_dir (s : State) (bid : Nat) (x : BlockStatus) : (s.setStatus bid x).dir = s.dir := rfl
@[simp] theorem State.setStatus_fab (s : State) (bid : Nat) (x : BlockStatus) : (s.setStatus bid x).fab = s.fab := rfl
@[simp] theorem State.setStatus_plat (s : State) (bid : Nat) (x : BlockStatus) : (s.setStatus bid x).plat = s.plat := rfl
@[simp] theorem State.setStatus_saveQ (s : State) (bid : Nat) (x : BlockStatus) : (s.setStatus bid x).saveQ = s.saveQ := rfl
@[simp] theorem State.setStatus_cur (s : State) (bid : Nat) (x : BlockStatus) : (s.setStatus bid x).cur = s.cur := rfl
@[simp] theorem State.setStatus_agenda (s : State) (bid : Nat) (x : BlockStatus) : (s.setStatus bid x).agenda = s.agenda := rfl
@[simp] theorem State.setStatus_nextId (s : State) (bid : Nat) (x : BlockStatus) : (s.setStatus bid x).nextId = s.nextId := rfl
@[simp] theorem State.setStatus_tick (s : State) (bid : Nat) (x : BlockStatus) : (s.setStatus bid x).tick = s.tick := rfl

@[simp] theorem State.modTile_mem (s : State) (bid h : Nat) (f : Tile → Tile) : (s.modTile bid h f).mem = s.mem := rfl
@[simp] theorem State.modTile_clusters (s : State) (bid h : Nat) (f : Tile → Tile) : (s.modTile bid h f).clusters = s.clusters := rfl
@[simp] theorem State.modTile_launches (s : State) (bid h : Nat) (f : Tile → Tile) : (s.modTile bid h f).launches = s.launches := rfl
@[simp] theorem State.modTile_queues (s : State) (bid h : Nat) (f : Tile → Tile) : (s.modTile bid h f).queues = s.queues := rfl
@[simp] theorem State.modTile_ctxs (s : State) (bid h : Nat) (f : Tile → Tile) : (s.modTile bid h f).ctxs = s.ctxs := rfl
@[simp] theorem State.modTile_scheds (s : State) (bid h : Nat) (f : Tile → Tile) : (s.modTile bid h f).scheds = s.scheds := rfl
@[simp] theorem State.modTile_mats (s : State) (bid h : Nat) (f : Tile → Tile) : (s.modTile bid h f).mats = s.mats := rfl
@[simp] theorem State.modTile_copies (s : State) (bid h : Nat) (f : Tile → Tile) : (s.modTile bid h f).copies = s.copies := rfl
@[simp] theorem State.modTile_churn (s : State) (bid h : Nat) (f : Tile → Tile) : (s.modTile bid h f).churn = s.churn := rfl
@[simp] theorem State.modTile_tlb (s : State) (bid h : Nat) (f : Tile → Tile) : (s.modTile bid h f).tlb = s.tlb := rfl
@[simp] theorem State.modTile_dir (s : State) (bid h : Nat) (f : Tile → Tile) : (s.modTile bid h f).dir = s.dir := rfl
@[simp] theorem State.modTile_fab (s : State) (bid h : Nat) (f : Tile → Tile) : (s.modTile bid h f).fab = s.fab := rfl
@[simp] theorem State.modTile_plat (s : State) (bid h : Nat) (f : Tile → Tile) : (s.modTile bid h f).plat = s.plat := rfl
@[simp] theorem State.modTile_saveQ (s : State) (bid h : Nat) (f : Tile → Tile) : (s.modTile bid h f).saveQ = s.saveQ := rfl
@[simp] theorem State.modTile_cur (s : State) (bid h : Nat) (f : Tile → Tile) : (s.modTile bid h f).cur = s.cur := rfl
@[simp] theorem State.modTile_agenda (s : State) (bid h : Nat) (f : Tile → Tile) : (s.modTile bid h f).agenda = s.agenda := rfl
@[simp] theorem State.modTile_nextId (s : State) (bid h : Nat) (f : Tile → Tile) : (s.modTile bid h f).nextId = s.nextId := rfl
@[simp] theorem State.modTile_tick (s : State) (bid h : Nat) (f : Tile → Tile) : (s.modTile bid h f).tick = s.tick := rfl

@[simp] theorem State.modConv_mem (s : State) (bid j : Nat) (f : Conv → Conv) : (s.modConv bid j f).mem = s.mem := rfl
@[simp] theorem State.modConv_clusters (s : State) (bid j : Nat) (f : Conv → Conv) : (s.modConv bid j f).clusters = s.clusters := rfl
@[simp] theorem State.modConv_launches (s : State) (bid j : Nat) (f : Conv → Conv) : (s.modConv bid j f).launches = s.launches := rfl
@[simp] theorem State.modConv_queues (s : State) (bid j : Nat) (f : Conv → Conv) : (s.modConv bid j f).queues = s.queues := rfl
@[simp] theorem State.modConv_ctxs (s : State) (bid j : Nat) (f : Conv → Conv) : (s.modConv bid j f).ctxs = s.ctxs := rfl
@[simp] theorem State.modConv_scheds (s : State) (bid j : Nat) (f : Conv → Conv) : (s.modConv bid j f).scheds = s.scheds := rfl
@[simp] theorem State.modConv_mats (s : State) (bid j : Nat) (f : Conv → Conv) : (s.modConv bid j f).mats = s.mats := rfl
@[simp] theorem State.modConv_copies (s : State) (bid j : Nat) (f : Conv → Conv) : (s.modConv bid j f).copies = s.copies := rfl
@[simp] theorem State.modConv_churn (s : State) (bid j : Nat) (f : Conv → Conv) : (s.modConv bid j f).churn = s.churn := rfl
@[simp] theorem State.modConv_tlb (s : State) (bid j : Nat) (f : Conv → Conv) : (s.modConv bid j f).tlb = s.tlb := rfl
@[simp] theorem State.modConv_dir (s : State) (bid j : Nat) (f : Conv → Conv) : (s.modConv bid j f).dir = s.dir := rfl
@[simp] theorem State.modConv_fab (s : State) (bid j : Nat) (f : Conv → Conv) : (s.modConv bid j f).fab = s.fab := rfl
@[simp] theorem State.modConv_plat (s : State) (bid j : Nat) (f : Conv → Conv) : (s.modConv bid j f).plat = s.plat := rfl
@[simp] theorem State.modConv_saveQ (s : State) (bid j : Nat) (f : Conv → Conv) : (s.modConv bid j f).saveQ = s.saveQ := rfl
@[simp] theorem State.modConv_cur (s : State) (bid j : Nat) (f : Conv → Conv) : (s.modConv bid j f).cur = s.cur := rfl
@[simp] theorem State.modConv_agenda (s : State) (bid j : Nat) (f : Conv → Conv) : (s.modConv bid j f).agenda = s.agenda := rfl
@[simp] theorem State.modConv_nextId (s : State) (bid j : Nat) (f : Conv → Conv) : (s.modConv bid j f).nextId = s.nextId := rfl
@[simp] theorem State.modConv_tick (s : State) (bid j : Nat) (f : Conv → Conv) : (s.modConv bid j f).tick = s.tick := rfl

@[simp] theorem State.modCtx_mem (s : State) (n : Nat) (f : Context → Context) : (s.modCtx n f).mem = s.mem := rfl
@[simp] theorem State.modCtx_blocks (s : State) (n : Nat) (f : Context → Context) : (s.modCtx n f).blocks = s.blocks := rfl
@[simp] theorem State.modCtx_clusters (s : State) (n : Nat) (f : Context → Context) : (s.modCtx n f).clusters = s.clusters := rfl
@[simp] theorem State.modCtx_launches (s : State) (n : Nat) (f : Context → Context) : (s.modCtx n f).launches = s.launches := rfl
@[simp] theorem State.modCtx_queues (s : State) (n : Nat) (f : Context → Context) : (s.modCtx n f).queues = s.queues := rfl
@[simp] theorem State.modCtx_scheds (s : State) (n : Nat) (f : Context → Context) : (s.modCtx n f).scheds = s.scheds := rfl
@[simp] theorem State.modCtx_mats (s : State) (n : Nat) (f : Context → Context) : (s.modCtx n f).mats = s.mats := rfl
@[simp] theorem State.modCtx_copies (s : State) (n : Nat) (f : Context → Context) : (s.modCtx n f).copies = s.copies := rfl
@[simp] theorem State.modCtx_churn (s : State) (n : Nat) (f : Context → Context) : (s.modCtx n f).churn = s.churn := rfl
@[simp] theorem State.modCtx_tlb (s : State) (n : Nat) (f : Context → Context) : (s.modCtx n f).tlb = s.tlb := rfl
@[simp] theorem State.modCtx_dir (s : State) (n : Nat) (f : Context → Context) : (s.modCtx n f).dir = s.dir := rfl
@[simp] theorem State.modCtx_fab (s : State) (n : Nat) (f : Context → Context) : (s.modCtx n f).fab = s.fab := rfl
@[simp] theorem State.modCtx_plat (s : State) (n : Nat) (f : Context → Context) : (s.modCtx n f).plat = s.plat := rfl
@[simp] theorem State.modCtx_saveQ (s : State) (n : Nat) (f : Context → Context) : (s.modCtx n f).saveQ = s.saveQ := rfl
@[simp] theorem State.modCtx_cur (s : State) (n : Nat) (f : Context → Context) : (s.modCtx n f).cur = s.cur := rfl
@[simp] theorem State.modCtx_agenda (s : State) (n : Nat) (f : Context → Context) : (s.modCtx n f).agenda = s.agenda := rfl
@[simp] theorem State.modCtx_nextId (s : State) (n : Nat) (f : Context → Context) : (s.modCtx n f).nextId = s.nextId := rfl
@[simp] theorem State.modCtx_tick (s : State) (n : Nat) (f : Context → Context) : (s.modCtx n f).tick = s.tick := rfl

@[simp] theorem State.report_mem (s : State) (n : Nat) (r : Report) : (s.report n r).mem = s.mem := rfl
@[simp] theorem State.report_blocks (s : State) (n : Nat) (r : Report) : (s.report n r).blocks = s.blocks := rfl
@[simp] theorem State.report_clusters (s : State) (n : Nat) (r : Report) : (s.report n r).clusters = s.clusters := rfl
@[simp] theorem State.report_launches (s : State) (n : Nat) (r : Report) : (s.report n r).launches = s.launches := rfl
@[simp] theorem State.report_queues (s : State) (n : Nat) (r : Report) : (s.report n r).queues = s.queues := rfl
@[simp] theorem State.report_scheds (s : State) (n : Nat) (r : Report) : (s.report n r).scheds = s.scheds := rfl
@[simp] theorem State.report_mats (s : State) (n : Nat) (r : Report) : (s.report n r).mats = s.mats := rfl
@[simp] theorem State.report_copies (s : State) (n : Nat) (r : Report) : (s.report n r).copies = s.copies := rfl
@[simp] theorem State.report_churn (s : State) (n : Nat) (r : Report) : (s.report n r).churn = s.churn := rfl
@[simp] theorem State.report_tlb (s : State) (n : Nat) (r : Report) : (s.report n r).tlb = s.tlb := rfl
@[simp] theorem State.report_dir (s : State) (n : Nat) (r : Report) : (s.report n r).dir = s.dir := rfl
@[simp] theorem State.report_fab (s : State) (n : Nat) (r : Report) : (s.report n r).fab = s.fab := rfl
@[simp] theorem State.report_plat (s : State) (n : Nat) (r : Report) : (s.report n r).plat = s.plat := rfl
@[simp] theorem State.report_saveQ (s : State) (n : Nat) (r : Report) : (s.report n r).saveQ = s.saveQ := rfl
@[simp] theorem State.report_cur (s : State) (n : Nat) (r : Report) : (s.report n r).cur = s.cur := rfl
@[simp] theorem State.report_agenda (s : State) (n : Nat) (r : Report) : (s.report n r).agenda = s.agenda := rfl
@[simp] theorem State.report_nextId (s : State) (n : Nat) (r : Report) : (s.report n r).nextId = s.nextId := rfl
@[simp] theorem State.report_tick (s : State) (n : Nat) (r : Report) : (s.report n r).tick = s.tick := rfl

@[simp] theorem State.active_mem (s : State) (n die : Nat) : (s.active n die).mem = s.mem := rfl
@[simp] theorem State.active_blocks (s : State) (n die : Nat) : (s.active n die).blocks = s.blocks := rfl
@[simp] theorem State.active_clusters (s : State) (n die : Nat) : (s.active n die).clusters = s.clusters := rfl
@[simp] theorem State.active_launches (s : State) (n die : Nat) : (s.active n die).launches = s.launches := rfl
@[simp] theorem State.active_queues (s : State) (n die : Nat) : (s.active n die).queues = s.queues := rfl
@[simp] theorem State.active_scheds (s : State) (n die : Nat) : (s.active n die).scheds = s.scheds := rfl
@[simp] theorem State.active_mats (s : State) (n die : Nat) : (s.active n die).mats = s.mats := rfl
@[simp] theorem State.active_copies (s : State) (n die : Nat) : (s.active n die).copies = s.copies := rfl
@[simp] theorem State.active_churn (s : State) (n die : Nat) : (s.active n die).churn = s.churn := rfl
@[simp] theorem State.active_tlb (s : State) (n die : Nat) : (s.active n die).tlb = s.tlb := rfl
@[simp] theorem State.active_dir (s : State) (n die : Nat) : (s.active n die).dir = s.dir := rfl
@[simp] theorem State.active_fab (s : State) (n die : Nat) : (s.active n die).fab = s.fab := rfl
@[simp] theorem State.active_plat (s : State) (n die : Nat) : (s.active n die).plat = s.plat := rfl
@[simp] theorem State.active_saveQ (s : State) (n die : Nat) : (s.active n die).saveQ = s.saveQ := rfl
@[simp] theorem State.active_cur (s : State) (n die : Nat) : (s.active n die).cur = s.cur := rfl
@[simp] theorem State.active_agenda (s : State) (n die : Nat) : (s.active n die).agenda = s.agenda := rfl
@[simp] theorem State.active_nextId (s : State) (n die : Nat) : (s.active n die).nextId = s.nextId := rfl
@[simp] theorem State.active_tick (s : State) (n die : Nat) : (s.active n die).tick = s.tick := rfl

@[simp] theorem State.watchAll_mem (s : State) : (s.watchAll).mem = s.mem := rfl
@[simp] theorem State.watchAll_blocks (s : State) : (s.watchAll).blocks = s.blocks := rfl
@[simp] theorem State.watchAll_clusters (s : State) : (s.watchAll).clusters = s.clusters := rfl
@[simp] theorem State.watchAll_launches (s : State) : (s.watchAll).launches = s.launches := rfl
@[simp] theorem State.watchAll_queues (s : State) : (s.watchAll).queues = s.queues := rfl
@[simp] theorem State.watchAll_scheds (s : State) : (s.watchAll).scheds = s.scheds := rfl
@[simp] theorem State.watchAll_mats (s : State) : (s.watchAll).mats = s.mats := rfl
@[simp] theorem State.watchAll_copies (s : State) : (s.watchAll).copies = s.copies := rfl
@[simp] theorem State.watchAll_churn (s : State) : (s.watchAll).churn = s.churn := rfl
@[simp] theorem State.watchAll_tlb (s : State) : (s.watchAll).tlb = s.tlb := rfl
@[simp] theorem State.watchAll_dir (s : State) : (s.watchAll).dir = s.dir := rfl
@[simp] theorem State.watchAll_fab (s : State) : (s.watchAll).fab = s.fab := rfl
@[simp] theorem State.watchAll_plat (s : State) : (s.watchAll).plat = s.plat := rfl
@[simp] theorem State.watchAll_saveQ (s : State) : (s.watchAll).saveQ = s.saveQ := rfl
@[simp] theorem State.watchAll_cur (s : State) : (s.watchAll).cur = s.cur := rfl
@[simp] theorem State.watchAll_agenda (s : State) : (s.watchAll).agenda = s.agenda := rfl
@[simp] theorem State.watchAll_nextId (s : State) : (s.watchAll).nextId = s.nextId := rfl
@[simp] theorem State.watchAll_tick (s : State) : (s.watchAll).tick = s.tick := rfl

@[simp] theorem State.modLaunch_mem (s : State) (lid : Nat) (f : Launch → Launch) : (s.modLaunch lid f).mem = s.mem := rfl
@[simp] theorem State.modLaunch_blocks (s : State) (lid : Nat) (f : Launch → Launch) : (s.modLaunch lid f).blocks = s.blocks := rfl
@[simp] theorem State.modLaunch_clusters (s : State) (lid : Nat) (f : Launch → Launch) : (s.modLaunch lid f).clusters = s.clusters := rfl
@[simp] theorem State.modLaunch_queues (s : State) (lid : Nat) (f : Launch → Launch) : (s.modLaunch lid f).queues = s.queues := rfl
@[simp] theorem State.modLaunch_ctxs (s : State) (lid : Nat) (f : Launch → Launch) : (s.modLaunch lid f).ctxs = s.ctxs := rfl
@[simp] theorem State.modLaunch_scheds (s : State) (lid : Nat) (f : Launch → Launch) : (s.modLaunch lid f).scheds = s.scheds := rfl
@[simp] theorem State.modLaunch_mats (s : State) (lid : Nat) (f : Launch → Launch) : (s.modLaunch lid f).mats = s.mats := rfl
@[simp] theorem State.modLaunch_copies (s : State) (lid : Nat) (f : Launch → Launch) : (s.modLaunch lid f).copies = s.copies := rfl
@[simp] theorem State.modLaunch_churn (s : State) (lid : Nat) (f : Launch → Launch) : (s.modLaunch lid f).churn = s.churn := rfl
@[simp] theorem State.modLaunch_tlb (s : State) (lid : Nat) (f : Launch → Launch) : (s.modLaunch lid f).tlb = s.tlb := rfl
@[simp] theorem State.modLaunch_dir (s : State) (lid : Nat) (f : Launch → Launch) : (s.modLaunch lid f).dir = s.dir := rfl
@[simp] theorem State.modLaunch_fab (s : State) (lid : Nat) (f : Launch → Launch) : (s.modLaunch lid f).fab = s.fab := rfl
@[simp] theorem State.modLaunch_plat (s : State) (lid : Nat) (f : Launch → Launch) : (s.modLaunch lid f).plat = s.plat := rfl
@[simp] theorem State.modLaunch_saveQ (s : State) (lid : Nat) (f : Launch → Launch) : (s.modLaunch lid f).saveQ = s.saveQ := rfl
@[simp] theorem State.modLaunch_cur (s : State) (lid : Nat) (f : Launch → Launch) : (s.modLaunch lid f).cur = s.cur := rfl
@[simp] theorem State.modLaunch_agenda (s : State) (lid : Nat) (f : Launch → Launch) : (s.modLaunch lid f).agenda = s.agenda := rfl
@[simp] theorem State.modLaunch_nextId (s : State) (lid : Nat) (f : Launch → Launch) : (s.modLaunch lid f).nextId = s.nextId := rfl
@[simp] theorem State.modLaunch_tick (s : State) (lid : Nat) (f : Launch → Launch) : (s.modLaunch lid f).tick = s.tick := rfl

@[simp] theorem State.modCopy_mem (s : State) (cid : Nat) (f : Copy → Copy) : (s.modCopy cid f).mem = s.mem := rfl
@[simp] theorem State.modCopy_blocks (s : State) (cid : Nat) (f : Copy → Copy) : (s.modCopy cid f).blocks = s.blocks := rfl
@[simp] theorem State.modCopy_clusters (s : State) (cid : Nat) (f : Copy → Copy) : (s.modCopy cid f).clusters = s.clusters := rfl
@[simp] theorem State.modCopy_launches (s : State) (cid : Nat) (f : Copy → Copy) : (s.modCopy cid f).launches = s.launches := rfl
@[simp] theorem State.modCopy_queues (s : State) (cid : Nat) (f : Copy → Copy) : (s.modCopy cid f).queues = s.queues := rfl
@[simp] theorem State.modCopy_ctxs (s : State) (cid : Nat) (f : Copy → Copy) : (s.modCopy cid f).ctxs = s.ctxs := rfl
@[simp] theorem State.modCopy_scheds (s : State) (cid : Nat) (f : Copy → Copy) : (s.modCopy cid f).scheds = s.scheds := rfl
@[simp] theorem State.modCopy_mats (s : State) (cid : Nat) (f : Copy → Copy) : (s.modCopy cid f).mats = s.mats := rfl
@[simp] theorem State.modCopy_churn (s : State) (cid : Nat) (f : Copy → Copy) : (s.modCopy cid f).churn = s.churn := rfl
@[simp] theorem State.modCopy_tlb (s : State) (cid : Nat) (f : Copy → Copy) : (s.modCopy cid f).tlb = s.tlb := rfl
@[simp] theorem State.modCopy_dir (s : State) (cid : Nat) (f : Copy → Copy) : (s.modCopy cid f).dir = s.dir := rfl
@[simp] theorem State.modCopy_fab (s : State) (cid : Nat) (f : Copy → Copy) : (s.modCopy cid f).fab = s.fab := rfl
@[simp] theorem State.modCopy_plat (s : State) (cid : Nat) (f : Copy → Copy) : (s.modCopy cid f).plat = s.plat := rfl
@[simp] theorem State.modCopy_saveQ (s : State) (cid : Nat) (f : Copy → Copy) : (s.modCopy cid f).saveQ = s.saveQ := rfl
@[simp] theorem State.modCopy_cur (s : State) (cid : Nat) (f : Copy → Copy) : (s.modCopy cid f).cur = s.cur := rfl
@[simp] theorem State.modCopy_agenda (s : State) (cid : Nat) (f : Copy → Copy) : (s.modCopy cid f).agenda = s.agenda := rfl
@[simp] theorem State.modCopy_nextId (s : State) (cid : Nat) (f : Copy → Copy) : (s.modCopy cid f).nextId = s.nextId := rfl
@[simp] theorem State.modCopy_tick (s : State) (cid : Nat) (f : Copy → Copy) : (s.modCopy cid f).tick = s.tick := rfl

@[simp] theorem State.modPlat_mem (s : State) (f : Platform → Platform) : (s.modPlat f).mem = s.mem := rfl
@[simp] theorem State.modPlat_blocks (s : State) (f : Platform → Platform) : (s.modPlat f).blocks = s.blocks := rfl
@[simp] theorem State.modPlat_clusters (s : State) (f : Platform → Platform) : (s.modPlat f).clusters = s.clusters := rfl
@[simp] theorem State.modPlat_launches (s : State) (f : Platform → Platform) : (s.modPlat f).launches = s.launches := rfl
@[simp] theorem State.modPlat_queues (s : State) (f : Platform → Platform) : (s.modPlat f).queues = s.queues := rfl
@[simp] theorem State.modPlat_ctxs (s : State) (f : Platform → Platform) : (s.modPlat f).ctxs = s.ctxs := rfl
@[simp] theorem State.modPlat_scheds (s : State) (f : Platform → Platform) : (s.modPlat f).scheds = s.scheds := rfl
@[simp] theorem State.modPlat_mats (s : State) (f : Platform → Platform) : (s.modPlat f).mats = s.mats := rfl
@[simp] theorem State.modPlat_copies (s : State) (f : Platform → Platform) : (s.modPlat f).copies = s.copies := rfl
@[simp] theorem State.modPlat_churn (s : State) (f : Platform → Platform) : (s.modPlat f).churn = s.churn := rfl
@[simp] theorem State.modPlat_tlb (s : State) (f : Platform → Platform) : (s.modPlat f).tlb = s.tlb := rfl
@[simp] theorem State.modPlat_dir (s : State) (f : Platform → Platform) : (s.modPlat f).dir = s.dir := rfl
@[simp] theorem State.modPlat_fab (s : State) (f : Platform → Platform) : (s.modPlat f).fab = s.fab := rfl
@[simp] theorem State.modPlat_saveQ (s : State) (f : Platform → Platform) : (s.modPlat f).saveQ = s.saveQ := rfl
@[simp] theorem State.modPlat_cur (s : State) (f : Platform → Platform) : (s.modPlat f).cur = s.cur := rfl
@[simp] theorem State.modPlat_agenda (s : State) (f : Platform → Platform) : (s.modPlat f).agenda = s.agenda := rfl
@[simp] theorem State.modPlat_nextId (s : State) (f : Platform → Platform) : (s.modPlat f).nextId = s.nextId := rfl
@[simp] theorem State.modPlat_tick (s : State) (f : Platform → Platform) : (s.modPlat f).tick = s.tick := rfl

@[simp] theorem State.modSpares_mem (s : State) (f : Spares → Spares) : (s.modSpares f).mem = s.mem := rfl
@[simp] theorem State.modSpares_blocks (s : State) (f : Spares → Spares) : (s.modSpares f).blocks = s.blocks := rfl
@[simp] theorem State.modSpares_clusters (s : State) (f : Spares → Spares) : (s.modSpares f).clusters = s.clusters := rfl
@[simp] theorem State.modSpares_launches (s : State) (f : Spares → Spares) : (s.modSpares f).launches = s.launches := rfl
@[simp] theorem State.modSpares_queues (s : State) (f : Spares → Spares) : (s.modSpares f).queues = s.queues := rfl
@[simp] theorem State.modSpares_ctxs (s : State) (f : Spares → Spares) : (s.modSpares f).ctxs = s.ctxs := rfl
@[simp] theorem State.modSpares_scheds (s : State) (f : Spares → Spares) : (s.modSpares f).scheds = s.scheds := rfl
@[simp] theorem State.modSpares_mats (s : State) (f : Spares → Spares) : (s.modSpares f).mats = s.mats := rfl
@[simp] theorem State.modSpares_copies (s : State) (f : Spares → Spares) : (s.modSpares f).copies = s.copies := rfl
@[simp] theorem State.modSpares_churn (s : State) (f : Spares → Spares) : (s.modSpares f).churn = s.churn := rfl
@[simp] theorem State.modSpares_tlb (s : State) (f : Spares → Spares) : (s.modSpares f).tlb = s.tlb := rfl
@[simp] theorem State.modSpares_dir (s : State) (f : Spares → Spares) : (s.modSpares f).dir = s.dir := rfl
@[simp] theorem State.modSpares_fab (s : State) (f : Spares → Spares) : (s.modSpares f).fab = s.fab := rfl
@[simp] theorem State.modSpares_saveQ (s : State) (f : Spares → Spares) : (s.modSpares f).saveQ = s.saveQ := rfl
@[simp] theorem State.modSpares_cur (s : State) (f : Spares → Spares) : (s.modSpares f).cur = s.cur := rfl
@[simp] theorem State.modSpares_agenda (s : State) (f : Spares → Spares) : (s.modSpares f).agenda = s.agenda := rfl
@[simp] theorem State.modSpares_nextId (s : State) (f : Spares → Spares) : (s.modSpares f).nextId = s.nextId := rfl
@[simp] theorem State.modSpares_tick (s : State) (f : Spares → Spares) : (s.modSpares f).tick = s.tick := rfl

@[simp] theorem State.modFab_mem (s : State) (f : Fabric → Fabric) : (s.modFab f).mem = s.mem := rfl
@[simp] theorem State.modFab_blocks (s : State) (f : Fabric → Fabric) : (s.modFab f).blocks = s.blocks := rfl
@[simp] theorem State.modFab_clusters (s : State) (f : Fabric → Fabric) : (s.modFab f).clusters = s.clusters := rfl
@[simp] theorem State.modFab_launches (s : State) (f : Fabric → Fabric) : (s.modFab f).launches = s.launches := rfl
@[simp] theorem State.modFab_queues (s : State) (f : Fabric → Fabric) : (s.modFab f).queues = s.queues := rfl
@[simp] theorem State.modFab_ctxs (s : State) (f : Fabric → Fabric) : (s.modFab f).ctxs = s.ctxs := rfl
@[simp] theorem State.modFab_scheds (s : State) (f : Fabric → Fabric) : (s.modFab f).scheds = s.scheds := rfl
@[simp] theorem State.modFab_mats (s : State) (f : Fabric → Fabric) : (s.modFab f).mats = s.mats := rfl
@[simp] theorem State.modFab_copies (s : State) (f : Fabric → Fabric) : (s.modFab f).copies = s.copies := rfl
@[simp] theorem State.modFab_churn (s : State) (f : Fabric → Fabric) : (s.modFab f).churn = s.churn := rfl
@[simp] theorem State.modFab_tlb (s : State) (f : Fabric → Fabric) : (s.modFab f).tlb = s.tlb := rfl
@[simp] theorem State.modFab_dir (s : State) (f : Fabric → Fabric) : (s.modFab f).dir = s.dir := rfl
@[simp] theorem State.modFab_plat (s : State) (f : Fabric → Fabric) : (s.modFab f).plat = s.plat := rfl
@[simp] theorem State.modFab_saveQ (s : State) (f : Fabric → Fabric) : (s.modFab f).saveQ = s.saveQ := rfl
@[simp] theorem State.modFab_cur (s : State) (f : Fabric → Fabric) : (s.modFab f).cur = s.cur := rfl
@[simp] theorem State.modFab_agenda (s : State) (f : Fabric → Fabric) : (s.modFab f).agenda = s.agenda := rfl
@[simp] theorem State.modFab_nextId (s : State) (f : Fabric → Fabric) : (s.modFab f).nextId = s.nextId := rfl
@[simp] theorem State.modFab_tick (s : State) (f : Fabric → Fabric) : (s.modFab f).tick = s.tick := rfl

@[simp] theorem State.modQueue_mem (s : State) (die q : Nat) (f : Queue → Queue) : (s.modQueue die q f).mem = s.mem := rfl
@[simp] theorem State.modQueue_blocks (s : State) (die q : Nat) (f : Queue → Queue) : (s.modQueue die q f).blocks = s.blocks := rfl
@[simp] theorem State.modQueue_clusters (s : State) (die q : Nat) (f : Queue → Queue) : (s.modQueue die q f).clusters = s.clusters := rfl
@[simp] theorem State.modQueue_launches (s : State) (die q : Nat) (f : Queue → Queue) : (s.modQueue die q f).launches = s.launches := rfl
@[simp] theorem State.modQueue_ctxs (s : State) (die q : Nat) (f : Queue → Queue) : (s.modQueue die q f).ctxs = s.ctxs := rfl
@[simp] theorem State.modQueue_scheds (s : State) (die q : Nat) (f : Queue → Queue) : (s.modQueue die q f).scheds = s.scheds := rfl
@[simp] theorem State.modQueue_mats (s : State) (die q : Nat) (f : Queue → Queue) : (s.modQueue die q f).mats = s.mats := rfl
@[simp] theorem State.modQueue_copies (s : State) (die q : Nat) (f : Queue → Queue) : (s.modQueue die q f).copies = s.copies := rfl
@[simp] theorem State.modQueue_churn (s : State) (die q : Nat) (f : Queue → Queue) : (s.modQueue die q f).churn = s.churn := rfl
@[simp] theorem State.modQueue_tlb (s : State) (die q : Nat) (f : Queue → Queue) : (s.modQueue die q f).tlb = s.tlb := rfl
@[simp] theorem State.modQueue_dir (s : State) (die q : Nat) (f : Queue → Queue) : (s.modQueue die q f).dir = s.dir := rfl
@[simp] theorem State.modQueue_fab (s : State) (die q : Nat) (f : Queue → Queue) : (s.modQueue die q f).fab = s.fab := rfl
@[simp] theorem State.modQueue_plat (s : State) (die q : Nat) (f : Queue → Queue) : (s.modQueue die q f).plat = s.plat := rfl
@[simp] theorem State.modQueue_saveQ (s : State) (die q : Nat) (f : Queue → Queue) : (s.modQueue die q f).saveQ = s.saveQ := rfl
@[simp] theorem State.modQueue_cur (s : State) (die q : Nat) (f : Queue → Queue) : (s.modQueue die q f).cur = s.cur := rfl
@[simp] theorem State.modQueue_agenda (s : State) (die q : Nat) (f : Queue → Queue) : (s.modQueue die q f).agenda = s.agenda := rfl
@[simp] theorem State.modQueue_nextId (s : State) (die q : Nat) (f : Queue → Queue) : (s.modQueue die q f).nextId = s.nextId := rfl
@[simp] theorem State.modQueue_tick (s : State) (die q : Nat) (f : Queue → Queue) : (s.modQueue die q f).tick = s.tick := rfl

@[simp] theorem State.modDir_mem (s : State) (line : Nat) (f : DirEntry → DirEntry) : (s.modDir line f).mem = s.mem := rfl
@[simp] theorem State.modDir_blocks (s : State) (line : Nat) (f : DirEntry → DirEntry) : (s.modDir line f).blocks = s.blocks := rfl
@[simp] theorem State.modDir_clusters (s : State) (line : Nat) (f : DirEntry → DirEntry) : (s.modDir line f).clusters = s.clusters := rfl
@[simp] theorem State.modDir_launches (s : State) (line : Nat) (f : DirEntry → DirEntry) : (s.modDir line f).launches = s.launches := rfl
@[simp] theorem State.modDir_queues (s : State) (line : Nat) (f : DirEntry → DirEntry) : (s.modDir line f).queues = s.queues := rfl
@[simp] theorem State.modDir_ctxs (s : State) (line : Nat) (f : DirEntry → DirEntry) : (s.modDir line f).ctxs = s.ctxs := rfl
@[simp] theorem State.modDir_scheds (s : State) (line : Nat) (f : DirEntry → DirEntry) : (s.modDir line f).scheds = s.scheds := rfl
@[simp] theorem State.modDir_mats (s : State) (line : Nat) (f : DirEntry → DirEntry) : (s.modDir line f).mats = s.mats := rfl
@[simp] theorem State.modDir_copies (s : State) (line : Nat) (f : DirEntry → DirEntry) : (s.modDir line f).copies = s.copies := rfl
@[simp] theorem State.modDir_churn (s : State) (line : Nat) (f : DirEntry → DirEntry) : (s.modDir line f).churn = s.churn := rfl
@[simp] theorem State.modDir_tlb (s : State) (line : Nat) (f : DirEntry → DirEntry) : (s.modDir line f).tlb = s.tlb := rfl
@[simp] theorem State.modDir_fab (s : State) (line : Nat) (f : DirEntry → DirEntry) : (s.modDir line f).fab = s.fab := rfl
@[simp] theorem State.modDir_plat (s : State) (line : Nat) (f : DirEntry → DirEntry) : (s.modDir line f).plat = s.plat := rfl
@[simp] theorem State.modDir_saveQ (s : State) (line : Nat) (f : DirEntry → DirEntry) : (s.modDir line f).saveQ = s.saveQ := rfl
@[simp] theorem State.modDir_cur (s : State) (line : Nat) (f : DirEntry → DirEntry) : (s.modDir line f).cur = s.cur := rfl
@[simp] theorem State.modDir_agenda (s : State) (line : Nat) (f : DirEntry → DirEntry) : (s.modDir line f).agenda = s.agenda := rfl
@[simp] theorem State.modDir_nextId (s : State) (line : Nat) (f : DirEntry → DirEntry) : (s.modDir line f).nextId = s.nextId := rfl
@[simp] theorem State.modDir_tick (s : State) (line : Nat) (f : DirEntry → DirEntry) : (s.modDir line f).tick = s.tick := rfl


@[simp] theorem State.advanceGone_mem (s : State) (a : Advance) : (s.advanceGone a).mem = s.mem := rfl
@[simp] theorem State.advanceGone_blocks (s : State) (a : Advance) : (s.advanceGone a).blocks = s.blocks := rfl
@[simp] theorem State.advanceGone_clusters (s : State) (a : Advance) : (s.advanceGone a).clusters = s.clusters := rfl
@[simp] theorem State.advanceGone_launches (s : State) (a : Advance) : (s.advanceGone a).launches = s.launches := rfl
@[simp] theorem State.advanceGone_queues (s : State) (a : Advance) : (s.advanceGone a).queues = s.queues := rfl
@[simp] theorem State.advanceGone_ctxs (s : State) (a : Advance) : (s.advanceGone a).ctxs = s.ctxs := rfl
@[simp] theorem State.advanceGone_scheds (s : State) (a : Advance) : (s.advanceGone a).scheds = s.scheds := rfl
@[simp] theorem State.advanceGone_mats (s : State) (a : Advance) : (s.advanceGone a).mats = s.mats := rfl
@[simp] theorem State.advanceGone_copies (s : State) (a : Advance) : (s.advanceGone a).copies = s.copies := rfl
@[simp] theorem State.advanceGone_churn (s : State) (a : Advance) : (s.advanceGone a).churn = s.churn := rfl
@[simp] theorem State.advanceGone_tlb (s : State) (a : Advance) : (s.advanceGone a).tlb = s.tlb := rfl
@[simp] theorem State.advanceGone_dir (s : State) (a : Advance) : (s.advanceGone a).dir = s.dir := rfl
@[simp] theorem State.advanceGone_plat (s : State) (a : Advance) : (s.advanceGone a).plat = s.plat := rfl
@[simp] theorem State.advanceGone_saveQ (s : State) (a : Advance) : (s.advanceGone a).saveQ = s.saveQ := rfl
@[simp] theorem State.advanceGone_cur (s : State) (a : Advance) : (s.advanceGone a).cur = s.cur := rfl
@[simp] theorem State.advanceGone_agenda (s : State) (a : Advance) : (s.advanceGone a).agenda = s.agenda := rfl
@[simp] theorem State.advanceGone_nextId (s : State) (a : Advance) : (s.advanceGone a).nextId = s.nextId := rfl
@[simp] theorem State.advanceGone_tick (s : State) (a : Advance) : (s.advanceGone a).tick = s.tick := rfl

@[simp] theorem State.leaveSets_mem (s : State) (bid : Nat) : (s.leaveSets bid).mem = s.mem := rfl
@[simp] theorem State.leaveSets_blocks (s : State) (bid : Nat) : (s.leaveSets bid).blocks = s.blocks := rfl
@[simp] theorem State.leaveSets_clusters (s : State) (bid : Nat) : (s.leaveSets bid).clusters = s.clusters := rfl
@[simp] theorem State.leaveSets_launches (s : State) (bid : Nat) : (s.leaveSets bid).launches = s.launches := rfl
@[simp] theorem State.leaveSets_queues (s : State) (bid : Nat) : (s.leaveSets bid).queues = s.queues := rfl
@[simp] theorem State.leaveSets_ctxs (s : State) (bid : Nat) : (s.leaveSets bid).ctxs = s.ctxs := rfl
@[simp] theorem State.leaveSets_mats (s : State) (bid : Nat) : (s.leaveSets bid).mats = s.mats := rfl
@[simp] theorem State.leaveSets_copies (s : State) (bid : Nat) : (s.leaveSets bid).copies = s.copies := rfl
@[simp] theorem State.leaveSets_churn (s : State) (bid : Nat) : (s.leaveSets bid).churn = s.churn := rfl
@[simp] theorem State.leaveSets_tlb (s : State) (bid : Nat) : (s.leaveSets bid).tlb = s.tlb := rfl
@[simp] theorem State.leaveSets_dir (s : State) (bid : Nat) : (s.leaveSets bid).dir = s.dir := rfl
@[simp] theorem State.leaveSets_fab (s : State) (bid : Nat) : (s.leaveSets bid).fab = s.fab := rfl
@[simp] theorem State.leaveSets_plat (s : State) (bid : Nat) : (s.leaveSets bid).plat = s.plat := rfl
@[simp] theorem State.leaveSets_saveQ (s : State) (bid : Nat) : (s.leaveSets bid).saveQ = s.saveQ := rfl
@[simp] theorem State.leaveSets_cur (s : State) (bid : Nat) : (s.leaveSets bid).cur = s.cur := rfl
@[simp] theorem State.leaveSets_agenda (s : State) (bid : Nat) : (s.leaveSets bid).agenda = s.agenda := rfl
@[simp] theorem State.leaveSets_nextId (s : State) (bid : Nat) : (s.leaveSets bid).nextId = s.nextId := rfl
@[simp] theorem State.leaveSets_tick (s : State) (bid : Nat) : (s.leaveSets bid).tick = s.tick := rfl

@[simp] theorem State.settleSets_mem (s : State) : (s.settleSets).mem = s.mem := rfl
@[simp] theorem State.settleSets_clusters (s : State) : (s.settleSets).clusters = s.clusters := rfl
@[simp] theorem State.settleSets_launches (s : State) : (s.settleSets).launches = s.launches := rfl
@[simp] theorem State.settleSets_queues (s : State) : (s.settleSets).queues = s.queues := rfl
@[simp] theorem State.settleSets_ctxs (s : State) : (s.settleSets).ctxs = s.ctxs := rfl
@[simp] theorem State.settleSets_mats (s : State) : (s.settleSets).mats = s.mats := rfl
@[simp] theorem State.settleSets_copies (s : State) : (s.settleSets).copies = s.copies := rfl
@[simp] theorem State.settleSets_churn (s : State) : (s.settleSets).churn = s.churn := rfl
@[simp] theorem State.settleSets_tlb (s : State) : (s.settleSets).tlb = s.tlb := rfl
@[simp] theorem State.settleSets_dir (s : State) : (s.settleSets).dir = s.dir := rfl
@[simp] theorem State.settleSets_fab (s : State) : (s.settleSets).fab = s.fab := rfl
@[simp] theorem State.settleSets_plat (s : State) : (s.settleSets).plat = s.plat := rfl
@[simp] theorem State.settleSets_saveQ (s : State) : (s.settleSets).saveQ = s.saveQ := rfl
@[simp] theorem State.settleSets_cur (s : State) : (s.settleSets).cur = s.cur := rfl
@[simp] theorem State.settleSets_agenda (s : State) : (s.settleSets).agenda = s.agenda := rfl
@[simp] theorem State.settleSets_nextId (s : State) : (s.settleSets).nextId = s.nextId := rfl
@[simp] theorem State.settleSets_tick (s : State) : (s.settleSets).tick = s.tick := rfl

@[simp] theorem State.elapse_mem (s : State) : (s.elapse).mem = s.mem := rfl
@[simp] theorem State.elapse_blocks (s : State) : (s.elapse).blocks = s.blocks := rfl
@[simp] theorem State.elapse_clusters (s : State) : (s.elapse).clusters = s.clusters := rfl
@[simp] theorem State.elapse_launches (s : State) : (s.elapse).launches = s.launches := rfl
@[simp] theorem State.elapse_queues (s : State) : (s.elapse).queues = s.queues := rfl
@[simp] theorem State.elapse_ctxs (s : State) : (s.elapse).ctxs = s.ctxs := rfl
@[simp] theorem State.elapse_scheds (s : State) : (s.elapse).scheds = s.scheds := rfl
@[simp] theorem State.elapse_mats (s : State) : (s.elapse).mats = s.mats := rfl
@[simp] theorem State.elapse_copies (s : State) : (s.elapse).copies = s.copies := rfl
@[simp] theorem State.elapse_churn (s : State) : (s.elapse).churn = s.churn := rfl
@[simp] theorem State.elapse_tlb (s : State) : (s.elapse).tlb = s.tlb := rfl
@[simp] theorem State.elapse_dir (s : State) : (s.elapse).dir = s.dir := rfl
@[simp] theorem State.elapse_fab (s : State) : (s.elapse).fab = s.fab := rfl
@[simp] theorem State.elapse_saveQ (s : State) : (s.elapse).saveQ = s.saveQ := rfl
@[simp] theorem State.elapse_cur (s : State) : (s.elapse).cur = s.cur := rfl
@[simp] theorem State.elapse_agenda (s : State) : (s.elapse).agenda = s.agenda := rfl
@[simp] theorem State.elapse_nextId (s : State) : (s.elapse).nextId = s.nextId := rfl

@[simp] theorem State.popTurn_mem (s : State) : (s.popTurn).mem = s.mem := rfl
@[simp] theorem State.popTurn_blocks (s : State) : (s.popTurn).blocks = s.blocks := rfl
@[simp] theorem State.popTurn_clusters (s : State) : (s.popTurn).clusters = s.clusters := rfl
@[simp] theorem State.popTurn_launches (s : State) : (s.popTurn).launches = s.launches := rfl
@[simp] theorem State.popTurn_queues (s : State) : (s.popTurn).queues = s.queues := rfl
@[simp] theorem State.popTurn_ctxs (s : State) : (s.popTurn).ctxs = s.ctxs := rfl
@[simp] theorem State.popTurn_scheds (s : State) : (s.popTurn).scheds = s.scheds := rfl
@[simp] theorem State.popTurn_mats (s : State) : (s.popTurn).mats = s.mats := rfl
@[simp] theorem State.popTurn_copies (s : State) : (s.popTurn).copies = s.copies := rfl
@[simp] theorem State.popTurn_churn (s : State) : (s.popTurn).churn = s.churn := rfl
@[simp] theorem State.popTurn_tlb (s : State) : (s.popTurn).tlb = s.tlb := rfl
@[simp] theorem State.popTurn_dir (s : State) : (s.popTurn).dir = s.dir := rfl
@[simp] theorem State.popTurn_fab (s : State) : (s.popTurn).fab = s.fab := rfl
@[simp] theorem State.popTurn_plat (s : State) : (s.popTurn).plat = s.plat := rfl
@[simp] theorem State.popTurn_saveQ (s : State) : (s.popTurn).saveQ = s.saveQ := rfl
@[simp] theorem State.popTurn_cur (s : State) : (s.popTurn).cur = s.cur := rfl
@[simp] theorem State.popTurn_nextId (s : State) : (s.popTurn).nextId = s.nextId := rfl
@[simp] theorem State.popTurn_tick (s : State) : (s.popTurn).tick = s.tick := rfl

@[simp] theorem State.mergeChurn_blocks (s : State) (f : Churn → Bool) : (s.mergeChurn f).blocks = s.blocks := rfl
@[simp] theorem State.mergeChurn_clusters (s : State) (f : Churn → Bool) : (s.mergeChurn f).clusters = s.clusters := rfl
@[simp] theorem State.mergeChurn_launches (s : State) (f : Churn → Bool) : (s.mergeChurn f).launches = s.launches := rfl
@[simp] theorem State.mergeChurn_queues (s : State) (f : Churn → Bool) : (s.mergeChurn f).queues = s.queues := rfl
@[simp] theorem State.mergeChurn_ctxs (s : State) (f : Churn → Bool) : (s.mergeChurn f).ctxs = s.ctxs := rfl
@[simp] theorem State.mergeChurn_scheds (s : State) (f : Churn → Bool) : (s.mergeChurn f).scheds = s.scheds := rfl
@[simp] theorem State.mergeChurn_mats (s : State) (f : Churn → Bool) : (s.mergeChurn f).mats = s.mats := rfl
@[simp] theorem State.mergeChurn_copies (s : State) (f : Churn → Bool) : (s.mergeChurn f).copies = s.copies := rfl
@[simp] theorem State.mergeChurn_tlb (s : State) (f : Churn → Bool) : (s.mergeChurn f).tlb = s.tlb := rfl
@[simp] theorem State.mergeChurn_dir (s : State) (f : Churn → Bool) : (s.mergeChurn f).dir = s.dir := rfl
@[simp] theorem State.mergeChurn_fab (s : State) (f : Churn → Bool) : (s.mergeChurn f).fab = s.fab := rfl
@[simp] theorem State.mergeChurn_plat (s : State) (f : Churn → Bool) : (s.mergeChurn f).plat = s.plat := rfl
@[simp] theorem State.mergeChurn_saveQ (s : State) (f : Churn → Bool) : (s.mergeChurn f).saveQ = s.saveQ := rfl
@[simp] theorem State.mergeChurn_cur (s : State) (f : Churn → Bool) : (s.mergeChurn f).cur = s.cur := rfl
@[simp] theorem State.mergeChurn_agenda (s : State) (f : Churn → Bool) : (s.mergeChurn f).agenda = s.agenda := rfl
@[simp] theorem State.mergeChurn_nextId (s : State) (f : Churn → Bool) : (s.mergeChurn f).nextId = s.nextId := rfl
@[simp] theorem State.mergeChurn_tick (s : State) (f : Churn → Bool) : (s.mergeChurn f).tick = s.tick := rfl

@[simp] theorem State.touch_blocks (s : State) (line : Nat) : (s.touch line).blocks = s.blocks := rfl
@[simp] theorem State.touch_clusters (s : State) (line : Nat) : (s.touch line).clusters = s.clusters := rfl
@[simp] theorem State.touch_launches (s : State) (line : Nat) : (s.touch line).launches = s.launches := rfl
@[simp] theorem State.touch_queues (s : State) (line : Nat) : (s.touch line).queues = s.queues := rfl
@[simp] theorem State.touch_ctxs (s : State) (line : Nat) : (s.touch line).ctxs = s.ctxs := rfl
@[simp] theorem State.touch_scheds (s : State) (line : Nat) : (s.touch line).scheds = s.scheds := rfl
@[simp] theorem State.touch_mats (s : State) (line : Nat) : (s.touch line).mats = s.mats := rfl
@[simp] theorem State.touch_copies (s : State) (line : Nat) : (s.touch line).copies = s.copies := rfl
@[simp] theorem State.touch_tlb (s : State) (line : Nat) : (s.touch line).tlb = s.tlb := rfl
@[simp] theorem State.touch_dir (s : State) (line : Nat) : (s.touch line).dir = s.dir := rfl
@[simp] theorem State.touch_fab (s : State) (line : Nat) : (s.touch line).fab = s.fab := rfl
@[simp] theorem State.touch_plat (s : State) (line : Nat) : (s.touch line).plat = s.plat := rfl
@[simp] theorem State.touch_saveQ (s : State) (line : Nat) : (s.touch line).saveQ = s.saveQ := rfl
@[simp] theorem State.touch_cur (s : State) (line : Nat) : (s.touch line).cur = s.cur := rfl
@[simp] theorem State.touch_agenda (s : State) (line : Nat) : (s.touch line).agenda = s.agenda := rfl
@[simp] theorem State.touch_nextId (s : State) (line : Nat) : (s.touch line).nextId = s.nextId := rfl
@[simp] theorem State.touch_tick (s : State) (line : Nat) : (s.touch line).tick = s.tick := rfl

@[simp] theorem State.touchRange_blocks (s : State) (pa n : Nat) : (s.touchRange pa n).blocks = s.blocks := rfl
@[simp] theorem State.touchRange_clusters (s : State) (pa n : Nat) : (s.touchRange pa n).clusters = s.clusters := rfl
@[simp] theorem State.touchRange_launches (s : State) (pa n : Nat) : (s.touchRange pa n).launches = s.launches := rfl
@[simp] theorem State.touchRange_queues (s : State) (pa n : Nat) : (s.touchRange pa n).queues = s.queues := rfl
@[simp] theorem State.touchRange_ctxs (s : State) (pa n : Nat) : (s.touchRange pa n).ctxs = s.ctxs := rfl
@[simp] theorem State.touchRange_scheds (s : State) (pa n : Nat) : (s.touchRange pa n).scheds = s.scheds := rfl
@[simp] theorem State.touchRange_mats (s : State) (pa n : Nat) : (s.touchRange pa n).mats = s.mats := rfl
@[simp] theorem State.touchRange_copies (s : State) (pa n : Nat) : (s.touchRange pa n).copies = s.copies := rfl
@[simp] theorem State.touchRange_tlb (s : State) (pa n : Nat) : (s.touchRange pa n).tlb = s.tlb := rfl
@[simp] theorem State.touchRange_dir (s : State) (pa n : Nat) : (s.touchRange pa n).dir = s.dir := rfl
@[simp] theorem State.touchRange_fab (s : State) (pa n : Nat) : (s.touchRange pa n).fab = s.fab := rfl
@[simp] theorem State.touchRange_plat (s : State) (pa n : Nat) : (s.touchRange pa n).plat = s.plat := rfl
@[simp] theorem State.touchRange_saveQ (s : State) (pa n : Nat) : (s.touchRange pa n).saveQ = s.saveQ := rfl
@[simp] theorem State.touchRange_cur (s : State) (pa n : Nat) : (s.touchRange pa n).cur = s.cur := rfl
@[simp] theorem State.touchRange_agenda (s : State) (pa n : Nat) : (s.touchRange pa n).agenda = s.agenda := rfl
@[simp] theorem State.touchRange_nextId (s : State) (pa n : Nat) : (s.touchRange pa n).nextId = s.nextId := rfl
@[simp] theorem State.touchRange_tick (s : State) (pa n : Nat) : (s.touchRange pa n).tick = s.tick := rfl

@[simp] theorem State.writeMem_blocks (s : State) (pa : Nat) (bs : List Byte) : (s.writeMem pa bs).blocks = s.blocks := rfl
@[simp] theorem State.writeMem_clusters (s : State) (pa : Nat) (bs : List Byte) : (s.writeMem pa bs).clusters = s.clusters := rfl
@[simp] theorem State.writeMem_launches (s : State) (pa : Nat) (bs : List Byte) : (s.writeMem pa bs).launches = s.launches := rfl
@[simp] theorem State.writeMem_queues (s : State) (pa : Nat) (bs : List Byte) : (s.writeMem pa bs).queues = s.queues := rfl
@[simp] theorem State.writeMem_ctxs (s : State) (pa : Nat) (bs : List Byte) : (s.writeMem pa bs).ctxs = s.ctxs := rfl
@[simp] theorem State.writeMem_scheds (s : State) (pa : Nat) (bs : List Byte) : (s.writeMem pa bs).scheds = s.scheds := rfl
@[simp] theorem State.writeMem_mats (s : State) (pa : Nat) (bs : List Byte) : (s.writeMem pa bs).mats = s.mats := rfl
@[simp] theorem State.writeMem_copies (s : State) (pa : Nat) (bs : List Byte) : (s.writeMem pa bs).copies = s.copies := rfl
@[simp] theorem State.writeMem_tlb (s : State) (pa : Nat) (bs : List Byte) : (s.writeMem pa bs).tlb = s.tlb := rfl
@[simp] theorem State.writeMem_dir (s : State) (pa : Nat) (bs : List Byte) : (s.writeMem pa bs).dir = s.dir := rfl
@[simp] theorem State.writeMem_fab (s : State) (pa : Nat) (bs : List Byte) : (s.writeMem pa bs).fab = s.fab := rfl
@[simp] theorem State.writeMem_plat (s : State) (pa : Nat) (bs : List Byte) : (s.writeMem pa bs).plat = s.plat := rfl
@[simp] theorem State.writeMem_saveQ (s : State) (pa : Nat) (bs : List Byte) : (s.writeMem pa bs).saveQ = s.saveQ := rfl
@[simp] theorem State.writeMem_cur (s : State) (pa : Nat) (bs : List Byte) : (s.writeMem pa bs).cur = s.cur := rfl
@[simp] theorem State.writeMem_agenda (s : State) (pa : Nat) (bs : List Byte) : (s.writeMem pa bs).agenda = s.agenda := rfl
@[simp] theorem State.writeMem_nextId (s : State) (pa : Nat) (bs : List Byte) : (s.writeMem pa bs).nextId = s.nextId := rfl
@[simp] theorem State.writeMem_tick (s : State) (pa : Nat) (bs : List Byte) : (s.writeMem pa bs).tick = s.tick := rfl

/-! ### Finding what was changed -/

/-- Finding a block after a change of the blocks with its identity. -/
theorem State.block?_modBlock (s : State) (bid : Nat) (f : Block → Block) (hf : ∀ b, (f b).bid = b.bid) :
    (s.modBlock bid f).block? bid = (s.block? bid).map f := by
  unfold State.block? State.modBlock
  induction s.blocks with
  | nil => rfl
  | cons b bs ih =>
    by_cases h : b.bid = bid
    · simp [h, hf]
    · simp [h, ih]

/-- Finding another block after a change. -/
theorem State.block?_modBlock_ne (s : State) (bid n : Nat) (f : Block → Block) (hf : ∀ b, (f b).bid = b.bid) (h : n ≠ bid) :
    (s.modBlock bid f).block? n = s.block? n := by
  unfold State.block? State.modBlock
  induction s.blocks with
  | nil => rfl
  | cons b bs ih =>
    by_cases hb : b.bid = bid
    · have : b.bid ≠ n := fun e => h (e ▸ hb)
      simp only [List.map_cons, hb, if_true, List.find?_cons, hf]
      simp only [ih]
      have h' : (bid == n) = false := by simpa using fun e => h e.symm
      simp [h']
    · simp only [List.map_cons, hb, if_false, List.find?_cons, ih]

/-- A found block has the identity it was sought by. -/
theorem State.block?_bid {s : State} {n : Nat} {b : Block} (h : s.block? n = some b) : b.bid = n := by
  have := List.find?_some h
  simpa using this

@[simp] theorem Block.modThread_bid (b : Block) (ti : Nat) (f : Thread → Thread) : (b.modThread ti f).bid = b.bid := rfl

theorem modAt_get {α : Type} (xs : List α) (n : Nat) (f : α → α) : (modAt xs n f)[n]? = (xs[n]?).map f := by
  induction xs generalizing n with
  | nil => simp [modAt]
  | cons x xs ih => cases n <;> simp [modAt, ih]

theorem modAt_get_ne {α : Type} (xs : List α) (n k : Nat) (f : α → α) (h : k ≠ n) : (modAt xs n f)[k]? = xs[k]? := by
  induction xs generalizing n k with
  | nil => simp [modAt]
  | cons x xs ih =>
    cases n with
    | zero => cases k with
      | zero => exact absurd rfl h
      | succ k => simp [modAt]
    | succ n => cases k with
      | zero => simp [modAt]
      | succ k => simpa [modAt] using ih n k (fun e => h (e ▸ rfl))

theorem setAt_get {α : Type} (xs : List α) (n : Nat) (y : α) (h : n < xs.length) : (setAt xs n y)[n]? = some y := by
  induction xs generalizing n with
  | nil => simp at h
  | cons x xs ih => cases n <;> simp_all [setAt]

theorem setAt_get_ne {α : Type} (xs : List α) (n k : Nat) (y : α) (h : k ≠ n) : (setAt xs n y)[k]? = xs[k]? := by
  induction xs generalizing n k with
  | nil => simp [setAt]
  | cons x xs ih =>
    cases n with
    | zero => cases k with
      | zero => exact absurd rfl h
      | succ k => simp [setAt]
    | succ n => cases k with
      | zero => simp [setAt]
      | succ k => simpa [setAt] using ih n k (fun e => h (e ▸ rfl))

@[simp] theorem setAt_length {α : Type} (xs : List α) (n : Nat) (y : α) : (setAt xs n y).length = xs.length := by
  induction xs generalizing n with
  | nil => rfl
  | cons x xs ih => cases n <;> simp [setAt, ih]

@[simp] theorem modAt_length {α : Type} (xs : List α) (n : Nat) (f : α → α) : (modAt xs n f).length = xs.length := by
  induction xs generalizing n with
  | nil => rfl
  | cons x xs ih => cases n <;> simp [modAt, ih]

/-- The changed thread of a block. -/
theorem State.thread?_modThread (s : State) (bid ti : Nat) (f : Thread → Thread) :
    (s.modThread bid ti f).thread? bid ti = (s.thread? bid ti).map f := by
  unfold State.thread? State.modThread
  rw [State.block?_modBlock _ _ _ (by simp)]
  cases s.block? bid with
  | none => rfl
  | some b => simp [Block.modThread, modAt_get]

/-- Another thread of the same block. -/
theorem State.thread?_modThread_ne (s : State) (bid ti tj : Nat) (f : Thread → Thread) (h : tj ≠ ti) :
    (s.modThread bid ti f).thread? bid tj = s.thread? bid tj := by
  unfold State.thread? State.modThread
  rw [State.block?_modBlock _ _ _ (by simp)]
  cases s.block? bid with
  | none => rfl
  | some b => simp [Block.modThread, modAt_get_ne _ _ _ _ h]

/-- The threads of another block. -/
theorem State.thread?_modBlock_ne (s : State) (bid n ti : Nat) (f : Block → Block) (hf : ∀ b, (f b).bid = b.bid)
    (h : n ≠ bid) : (s.modBlock bid f).thread? n ti = s.thread? n ti := by
  unfold State.thread?
  rw [State.block?_modBlock_ne _ _ _ _ hf h]

/-- A change of a block that keeps its threads. -/
theorem State.thread?_modBlock_keep (s : State) (bid n ti : Nat) (f : Block → Block) (hb : ∀ b, (f b).bid = b.bid)
    (ht : ∀ b, (f b).threads = b.threads) : (s.modBlock bid f).thread? n ti = s.thread? n ti := by
  by_cases h : n = bid
  · subst h
    unfold State.thread?
    rw [State.block?_modBlock _ _ _ hb]
    cases s.block? n <;> simp [ht]
  · exact State.thread?_modBlock_ne _ _ _ _ _ hb h

/-- A change of a warp changes no thread. -/
@[simp] theorem State.thread?_modWarp (s : State) (r : WarpRef) (f : Warp → Warp) (bid ti : Nat) :
    (s.modWarp r f).thread? bid ti = s.thread? bid ti :=
  State.thread?_modBlock_keep _ _ _ _ _ (fun _ => rfl) (fun _ => rfl)

/-- A change of the sets of a partition changes nothing else. -/
theorem State.modSched_frame (s : State) (die core part : Nat) (f : Sched → Sched) :
    s.modSched die core part f = { s with scheds := (s.modSched die core part f).scheds } := by
  unfold State.modSched
  split <;> rfl

/-- An exchange of warps changes the sets and the issue clocks of the warp that comes in (R68), and no thread. -/
theorem State.exchange_frame (s : State) (die core part idx : Nat) :
    let t := s.exchange die core part idx
    t = { s with blocks := t.blocks, scheds := t.scheds } ∧ ∀ bid ti, t.thread? bid ti = s.thread? bid ti := by
  simp only [State.exchange]
  split
  · split
    · have h := State.modSched_frame s die core part (Sched.exchange s idx)
      generalize (s.modSched die core part (Sched.exchange s idx)).scheds = y at h
      rw [h]
      exact ⟨rfl, fun _ _ => State.thread?_modWarp _ _ _ _ _⟩
    · exact ⟨rfl, fun _ _ => rfl⟩
  · exact ⟨rfl, fun _ _ => rfl⟩

/-- The exchanges that are due after a step change the sets and issue clocks of warps only (R68). -/
theorem State.exchangeDue_frame (n : Nat) (s : State) :
    let t := s.exchangeDue n
    t = { s with blocks := t.blocks, scheds := t.scheds } ∧ ∀ bid ti, t.thread? bid ti = s.thread? bid ti := by
  induction n generalizing s with
  | zero => exact ⟨rfl, fun _ _ => rfl⟩
  | succ n ih =>
    simp only [State.exchangeDue]
    split
    · next x idx _ =>
      have h := ih (s.exchange x.die x.core x.part idx)
      have k := State.exchange_frame s x.die x.core x.part idx
      exact ⟨by rw [h.1, k.1], fun bid ti => (h.2 bid ti).trans (k.2 bid ti)⟩
    · exact ⟨rfl, fun _ _ => rfl⟩

/-- The exchanges that are due move no byte of memory. -/
@[simp] theorem State.exchangeDue_mem (n : Nat) (s : State) : (s.exchangeDue n).mem = s.mem := by
  rw [(State.exchangeDue_frame n s).1]

/-- Reading the streams of a block changes that block alone (R174). -/
@[simp] theorem State.sampleStreams_mem (s : State) (bid : Nat) : (s.sampleStreams bid).mem = s.mem := rfl
@[simp] theorem State.sampleStreams_fab (s : State) (bid : Nat) : (s.sampleStreams bid).fab = s.fab := rfl
@[simp] theorem State.sampleStreams_copies (s : State) (bid : Nat) : (s.sampleStreams bid).copies = s.copies := rfl

end Sys2Proof.Machine
end

