-- ==== Sys2Proof/Laws/Packet.lean ====
section
/-! SUPPORT. What traffic with other packages changes: the outbox, the order numbers of the streams, what the dies have of other
packages' memory and the ports, and nothing else. -/

namespace Sys2Proof.Machine

open Sys2Proof

/-- A change of what traffic with other packages changes, and of nothing else. -/
def SendsOnly (s t : State) : Prop := t = { s with
  fab := { s.fab with outbox := t.fab.outbox, orders := t.fab.orders, peer := t.fab.peer }
  plat := { s.plat with ports := t.plat.ports }
  nextId := t.nextId }

theorem SendsOnly.refl (s : State) : SendsOnly s s := rfl

theorem SendsOnly.trans {s t u : State} (h : SendsOnly s t) (k : SendsOnly t u) : SendsOnly s u := by
  unfold SendsOnly at *
  rw [k, h]

/-- A fold of changes of this kind is one. -/
theorem SendsOnly.foldl {α : Type} (f : State → α → State) (hf : ∀ s x, SendsOnly s (f s x)) (xs : List α) (s : State) :
    SendsOnly s (xs.foldl f s) := by
  induction xs generalizing s with
  | nil => exact .refl s
  | cons x xs ih => exact (hf s x).trans (ih _)

theorem SendsOnly.mem {s t : State} (h : SendsOnly s t) : t.mem = s.mem := by rw [h]
theorem SendsOnly.blocks {s t : State} (h : SendsOnly s t) : t.blocks = s.blocks := by rw [h]
theorem SendsOnly.clusters {s t : State} (h : SendsOnly s t) : t.clusters = s.clusters := by rw [h]
theorem SendsOnly.launches {s t : State} (h : SendsOnly s t) : t.launches = s.launches := by rw [h]
theorem SendsOnly.queues {s t : State} (h : SendsOnly s t) : t.queues = s.queues := by rw [h]
theorem SendsOnly.ctxs {s t : State} (h : SendsOnly s t) : t.ctxs = s.ctxs := by rw [h]
theorem SendsOnly.scheds {s t : State} (h : SendsOnly s t) : t.scheds = s.scheds := by rw [h]
theorem SendsOnly.mats {s t : State} (h : SendsOnly s t) : t.mats = s.mats := by rw [h]
theorem SendsOnly.copies {s t : State} (h : SendsOnly s t) : t.copies = s.copies := by rw [h]
theorem SendsOnly.churn {s t : State} (h : SendsOnly s t) : t.churn = s.churn := by rw [h]
theorem SendsOnly.tlb {s t : State} (h : SendsOnly s t) : t.tlb = s.tlb := by rw [h]
theorem SendsOnly.dir {s t : State} (h : SendsOnly s t) : t.dir = s.dir := by rw [h]
theorem SendsOnly.saveQ {s t : State} (h : SendsOnly s t) : t.saveQ = s.saveQ := by rw [h]
theorem SendsOnly.cur {s t : State} (h : SendsOnly s t) : t.cur = s.cur := by rw [h]
theorem SendsOnly.agenda {s t : State} (h : SendsOnly s t) : t.agenda = s.agenda := by rw [h]
theorem SendsOnly.tick {s t : State} (h : SendsOnly s t) : t.tick = s.tick := by rw [h]

/-- The fuses are no traffic's: which addresses are of another package stays. -/
theorem SendsOnly.elsewhere {s t : State} (h : SendsOnly s t) (pa : Nat) : t.elsewhere pa = s.elsewhere pa := by
  rw [h]; rfl

/-- Sending what waits changes the outbox, the ports and the next number. -/
theorem State.pump_sends (n : Nat) (s : State) : SendsOnly s (s.pump n) := by
  induction n generalizing s with
  | zero => exact .refl s
  | succ n ih =>
    unfold State.pump
    split
    · split
      · refine SendsOnly.trans ?_ (ih _)
        exact rfl
      · exact .refl s
    · exact .refl s

/-- A packet sent takes its stream's next order number too. -/
theorem State.sendPacket_sends (s : State) (k : Packet) : SendsOnly s (s.sendPacket k) := by
  unfold State.sendPacket
  simp only
  refine SendsOnly.trans ?_ (State.pump_sends _ _)
  exact rfl

/-- A packet of peer memory traffic, sent or not needed. -/
theorem State.sendPeer_sends (s : State) (die : Nat) (k : PacketKind) (f : Half) (pa : Nat) (ls : List WireLine) :
    SendsOnly s (s.sendPeer die k f pa ls) := by
  unfold State.sendPeer
  split
  · exact State.sendPacket_sends ..
  · exact .refl s

/-- An access to an address that is not of another package sends nothing. -/
theorem State.sendPeer_local (s : State) (die : Nat) (k : PacketKind) (f : Half) (pa : Nat) (ls : List WireLine)
    (h : s.elsewhere pa = false) : s.sendPeer die k f pa ls = s := by
  unfold State.sendPeer
  simp [h]

theorem State.modPeer_sends (s : State) (f : Peer → Peer) : SendsOnly s (s.modPeer f) := rfl

/-- A miss asks for a line, and does nothing else. -/
theorem State.askLine_sends (s : State) (die line : Nat) : SendsOnly s (s.askLine die line) := by
  unfold State.askLine
  split
  · exact (State.modPeer_sends s _).trans (State.sendPeer_sends ..)
  · exact .refl s

/-- A line of this package is never asked for. -/
theorem State.askLine_local (s : State) (die line : Nat) (h : s.elsewhere (128 * line) = false) : s.askLine die line = s := by
  unfold State.askLine State.missing
  simp [h]

/-- A write to another package is noted and sent. -/
theorem State.peerWrite_sends (s : State) (die : Nat) (o : PeerOwner) (f : Half) (pa : Nat) (ls : List WireLine) (sc : Bool) :
    SendsOnly s (s.peerWrite die o f pa ls sc) := by
  unfold State.peerWrite
  split
  · exact (State.modPeer_sends s _).trans (State.sendPeer_sends ..)
  · exact .refl s

theorem State.peerWrite_local (s : State) (die : Nat) (o : PeerOwner) (f : Half) (pa : Nat) (ls : List WireLine) (sc : Bool)
    (h : s.elsewhere pa = false) : s.peerWrite die o f pa ls sc = s := by
  unfold State.peerWrite
  simp [h]

theorem State.peerLine_sends (s : State) (die : Nat) (o : PeerOwner) (line : Nat) (w : WireLine) :
    SendsOnly s (s.peerLine die o line w) := State.peerWrite_sends ..

@[simp] theorem State.sendPacket_mem (s : State) (k : Packet) : (s.sendPacket k).mem = s.mem :=
  (State.sendPacket_sends ..).mem
@[simp] theorem State.sendPacket_blocks (s : State) (k : Packet) : (s.sendPacket k).blocks = s.blocks :=
  (State.sendPacket_sends ..).blocks
@[simp] theorem State.sendPacket_clusters (s : State) (k : Packet) : (s.sendPacket k).clusters = s.clusters :=
  (State.sendPacket_sends ..).clusters
@[simp] theorem State.sendPacket_launches (s : State) (k : Packet) : (s.sendPacket k).launches = s.launches :=
  (State.sendPacket_sends ..).launches
@[simp] theorem State.sendPacket_queues (s : State) (k : Packet) : (s.sendPacket k).queues = s.queues :=
  (State.sendPacket_sends ..).queues
@[simp] theorem State.sendPacket_ctxs (s : State) (k : Packet) : (s.sendPacket k).ctxs = s.ctxs :=
  (State.sendPacket_sends ..).ctxs
@[simp] theorem State.sendPacket_scheds (s : State) (k : Packet) : (s.sendPacket k).scheds = s.scheds :=
  (State.sendPacket_sends ..).scheds
@[simp] theorem State.sendPacket_mats (s : State) (k : Packet) : (s.sendPacket k).mats = s.mats :=
  (State.sendPacket_sends ..).mats
@[simp] theorem State.sendPacket_copies (s : State) (k : Packet) : (s.sendPacket k).copies = s.copies :=
  (State.sendPacket_sends ..).copies
@[simp] theorem State.sendPacket_churn (s : State) (k : Packet) : (s.sendPacket k).churn = s.churn :=
  (State.sendPacket_sends ..).churn
@[simp] theorem State.sendPacket_tlb (s : State) (k : Packet) : (s.sendPacket k).tlb = s.tlb :=
  (State.sendPacket_sends ..).tlb
@[simp] theorem State.sendPacket_dir (s : State) (k : Packet) : (s.sendPacket k).dir = s.dir :=
  (State.sendPacket_sends ..).dir
@[simp] theorem State.sendPacket_saveQ (s : State) (k : Packet) : (s.sendPacket k).saveQ = s.saveQ :=
  (State.sendPacket_sends ..).saveQ
@[simp] theorem State.sendPacket_cur (s : State) (k : Packet) : (s.sendPacket k).cur = s.cur :=
  (State.sendPacket_sends ..).cur
@[simp] theorem State.sendPacket_agenda (s : State) (k : Packet) : (s.sendPacket k).agenda = s.agenda :=
  (State.sendPacket_sends ..).agenda
@[simp] theorem State.sendPacket_tick (s : State) (k : Packet) : (s.sendPacket k).tick = s.tick :=
  (State.sendPacket_sends ..).tick

@[simp] theorem State.sendPeer_mem (s : State) (die : Nat) (k : PacketKind) (f : Half) (pa : Nat) (ls : List WireLine) : (s.sendPeer die k f pa ls).mem = s.mem :=
  (State.sendPeer_sends ..).mem
@[simp] theorem State.sendPeer_blocks (s : State) (die : Nat) (k : PacketKind) (f : Half) (pa : Nat) (ls : List WireLine) : (s.sendPeer die k f pa ls).blocks = s.blocks :=
  (State.sendPeer_sends ..).blocks
@[simp] theorem State.sendPeer_clusters (s : State) (die : Nat) (k : PacketKind) (f : Half) (pa : Nat) (ls : List WireLine) : (s.sendPeer die k f pa ls).clusters = s.clusters :=
  (State.sendPeer_sends ..).clusters
@[simp] theorem State.sendPeer_launches (s : State) (die : Nat) (k : PacketKind) (f : Half) (pa : Nat) (ls : List WireLine) : (s.sendPeer die k f pa ls).launches = s.launches :=
  (State.sendPeer_sends ..).launches
@[simp] theorem State.sendPeer_queues (s : State) (die : Nat) (k : PacketKind) (f : Half) (pa : Nat) (ls : List WireLine) : (s.sendPeer die k f pa ls).queues = s.queues :=
  (State.sendPeer_sends ..).queues
@[simp] theorem State.sendPeer_ctxs (s : State) (die : Nat) (k : PacketKind) (f : Half) (pa : Nat) (ls : List WireLine) : (s.sendPeer die k f pa ls).ctxs = s.ctxs :=
  (State.sendPeer_sends ..).ctxs
@[simp] theorem State.sendPeer_scheds (s : State) (die : Nat) (k : PacketKind) (f : Half) (pa : Nat) (ls : List WireLine) : (s.sendPeer die k f pa ls).scheds = s.scheds :=
  (State.sendPeer_sends ..).scheds
@[simp] theorem State.sendPeer_mats (s : State) (die : Nat) (k : PacketKind) (f : Half) (pa : Nat) (ls : List WireLine) : (s.sendPeer die k f pa ls).mats = s.mats :=
  (State.sendPeer_sends ..).mats
@[simp] theorem State.sendPeer_copies (s : State) (die : Nat) (k : PacketKind) (f : Half) (pa : Nat) (ls : List WireLine) : (s.sendPeer die k f pa ls).copies = s.copies :=
  (State.sendPeer_sends ..).copies
@[simp] theorem State.sendPeer_churn (s : State) (die : Nat) (k : PacketKind) (f : Half) (pa : Nat) (ls : List WireLine) : (s.sendPeer die k f pa ls).churn = s.churn :=
  (State.sendPeer_sends ..).churn
@[simp] theorem State.sendPeer_tlb (s : State) (die : Nat) (k : PacketKind) (f : Half) (pa : Nat) (ls : List WireLine) : (s.sendPeer die k f pa ls).tlb = s.tlb :=
  (State.sendPeer_sends ..).tlb
@[simp] theorem State.sendPeer_dir (s : State) (die : Nat) (k : PacketKind) (f : Half) (pa : Nat) (ls : List WireLine) : (s.sendPeer die k f pa ls).dir = s.dir :=
  (State.sendPeer_sends ..).dir
@[simp] theorem State.sendPeer_saveQ (s : State) (die : Nat) (k : PacketKind) (f : Half) (pa : Nat) (ls : List WireLine) : (s.sendPeer die k f pa ls).saveQ = s.saveQ :=
  (State.sendPeer_sends ..).saveQ
@[simp] theorem State.sendPeer_cur (s : State) (die : Nat) (k : PacketKind) (f : Half) (pa : Nat) (ls : List WireLine) : (s.sendPeer die k f pa ls).cur = s.cur :=
  (State.sendPeer_sends ..).cur
@[simp] theorem State.sendPeer_agenda (s : State) (die : Nat) (k : PacketKind) (f : Half) (pa : Nat) (ls : List WireLine) : (s.sendPeer die k f pa ls).agenda = s.agenda :=
  (State.sendPeer_sends ..).agenda
@[simp] theorem State.sendPeer_tick (s : State) (die : Nat) (k : PacketKind) (f : Half) (pa : Nat) (ls : List WireLine) : (s.sendPeer die k f pa ls).tick = s.tick :=
  (State.sendPeer_sends ..).tick

@[simp] theorem State.modPeer_mem (s : State) (f : Peer → Peer) : (s.modPeer f).mem = s.mem :=
  (State.modPeer_sends ..).mem
@[simp] theorem State.modPeer_blocks (s : State) (f : Peer → Peer) : (s.modPeer f).blocks = s.blocks :=
  (State.modPeer_sends ..).blocks
@[simp] theorem State.modPeer_clusters (s : State) (f : Peer → Peer) : (s.modPeer f).clusters = s.clusters :=
  (State.modPeer_sends ..).clusters
@[simp] theorem State.modPeer_launches (s : State) (f : Peer → Peer) : (s.modPeer f).launches = s.launches :=
  (State.modPeer_sends ..).launches
@[simp] theorem State.modPeer_queues (s : State) (f : Peer → Peer) : (s.modPeer f).queues = s.queues :=
  (State.modPeer_sends ..).queues
@[simp] theorem State.modPeer_ctxs (s : State) (f : Peer → Peer) : (s.modPeer f).ctxs = s.ctxs :=
  (State.modPeer_sends ..).ctxs
@[simp] theorem State.modPeer_scheds (s : State) (f : Peer → Peer) : (s.modPeer f).scheds = s.scheds :=
  (State.modPeer_sends ..).scheds
@[simp] theorem State.modPeer_mats (s : State) (f : Peer → Peer) : (s.modPeer f).mats = s.mats :=
  (State.modPeer_sends ..).mats
@[simp] theorem State.modPeer_copies (s : State) (f : Peer → Peer) : (s.modPeer f).copies = s.copies :=
  (State.modPeer_sends ..).copies
@[simp] theorem State.modPeer_churn (s : State) (f : Peer → Peer) : (s.modPeer f).churn = s.churn :=
  (State.modPeer_sends ..).churn
@[simp] theorem State.modPeer_tlb (s : State) (f : Peer → Peer) : (s.modPeer f).tlb = s.tlb :=
  (State.modPeer_sends ..).tlb
@[simp] theorem State.modPeer_dir (s : State) (f : Peer → Peer) : (s.modPeer f).dir = s.dir :=
  (State.modPeer_sends ..).dir
@[simp] theorem State.modPeer_saveQ (s : State) (f : Peer → Peer) : (s.modPeer f).saveQ = s.saveQ :=
  (State.modPeer_sends ..).saveQ
@[simp] theorem State.modPeer_cur (s : State) (f : Peer → Peer) : (s.modPeer f).cur = s.cur :=
  (State.modPeer_sends ..).cur
@[simp] theorem State.modPeer_agenda (s : State) (f : Peer → Peer) : (s.modPeer f).agenda = s.agenda :=
  (State.modPeer_sends ..).agenda
@[simp] theorem State.modPeer_tick (s : State) (f : Peer → Peer) : (s.modPeer f).tick = s.tick :=
  (State.modPeer_sends ..).tick

@[simp] theorem State.askLine_mem (s : State) (die line : Nat) : (s.askLine die line).mem = s.mem :=
  (State.askLine_sends ..).mem
@[simp] theorem State.askLine_blocks (s : State) (die line : Nat) : (s.askLine die line).blocks = s.blocks :=
  (State.askLine_sends ..).blocks
@[simp] theorem State.askLine_clusters (s : State) (die line : Nat) : (s.askLine die line).clusters = s.clusters :=
  (State.askLine_sends ..).clusters
@[simp] theorem State.askLine_launches (s : State) (die line : Nat) : (s.askLine die line).launches = s.launches :=
  (State.askLine_sends ..).launches
@[simp] theorem State.askLine_queues (s : State) (die line : Nat) : (s.askLine die line).queues = s.queues :=
  (State.askLine_sends ..).queues
@[simp] theorem State.askLine_ctxs (s : State) (die line : Nat) : (s.askLine die line).ctxs = s.ctxs :=
  (State.askLine_sends ..).ctxs
@[simp] theorem State.askLine_scheds (s : State) (die line : Nat) : (s.askLine die line).scheds = s.scheds :=
  (State.askLine_sends ..).scheds
@[simp] theorem State.askLine_mats (s : State) (die line : Nat) : (s.askLine die line).mats = s.mats :=
  (State.askLine_sends ..).mats
@[simp] theorem State.askLine_copies (s : State) (die line : Nat) : (s.askLine die line).copies = s.copies :=
  (State.askLine_sends ..).copies
@[simp] theorem State.askLine_churn (s : State) (die line : Nat) : (s.askLine die line).churn = s.churn :=
  (State.askLine_sends ..).churn
@[simp] theorem State.askLine_tlb (s : State) (die line : Nat) : (s.askLine die line).tlb = s.tlb :=
  (State.askLine_sends ..).tlb
@[simp] theorem State.askLine_dir (s : State) (die line : Nat) : (s.askLine die line).dir = s.dir :=
  (State.askLine_sends ..).dir
@[simp] theorem State.askLine_saveQ (s : State) (die line : Nat) : (s.askLine die line).saveQ = s.saveQ :=
  (State.askLine_sends ..).saveQ
@[simp] theorem State.askLine_cur (s : State) (die line : Nat) : (s.askLine die line).cur = s.cur :=
  (State.askLine_sends ..).cur
@[simp] theorem State.askLine_agenda (s : State) (die line : Nat) : (s.askLine die line).agenda = s.agenda :=
  (State.askLine_sends ..).agenda
@[simp] theorem State.askLine_tick (s : State) (die line : Nat) : (s.askLine die line).tick = s.tick :=
  (State.askLine_sends ..).tick

@[simp] theorem State.peerWrite_mem (s : State) (die : Nat) (o : PeerOwner) (f : Half) (pa : Nat) (ls : List WireLine) (sc : Bool) :
    (s.peerWrite die o f pa ls sc).mem = s.mem :=
  (State.peerWrite_sends ..).mem
@[simp] theorem State.peerWrite_blocks (s : State) (die : Nat) (o : PeerOwner) (f : Half) (pa : Nat) (ls : List WireLine) (sc : Bool) :
    (s.peerWrite die o f pa ls sc).blocks = s.blocks :=
  (State.peerWrite_sends ..).blocks
@[simp] theorem State.peerWrite_clusters (s : State) (die : Nat) (o : PeerOwner) (f : Half) (pa : Nat) (ls : List WireLine) (sc : Bool) :
    (s.peerWrite die o f pa ls sc).clusters = s.clusters :=
  (State.peerWrite_sends ..).clusters
@[simp] theorem State.peerWrite_launches (s : State) (die : Nat) (o : PeerOwner) (f : Half) (pa : Nat) (ls : List WireLine) (sc : Bool) :
    (s.peerWrite die o f pa ls sc).launches = s.launches :=
  (State.peerWrite_sends ..).launches
@[simp] theorem State.peerWrite_queues (s : State) (die : Nat) (o : PeerOwner) (f : Half) (pa : Nat) (ls : List WireLine) (sc : Bool) :
    (s.peerWrite die o f pa ls sc).queues = s.queues :=
  (State.peerWrite_sends ..).queues
@[simp] theorem State.peerWrite_ctxs (s : State) (die : Nat) (o : PeerOwner) (f : Half) (pa : Nat) (ls : List WireLine) (sc : Bool) :
    (s.peerWrite die o f pa ls sc).ctxs = s.ctxs :=
  (State.peerWrite_sends ..).ctxs
@[simp] theorem State.peerWrite_scheds (s : State) (die : Nat) (o : PeerOwner) (f : Half) (pa : Nat) (ls : List WireLine) (sc : Bool) :
    (s.peerWrite die o f pa ls sc).scheds = s.scheds :=
  (State.peerWrite_sends ..).scheds
@[simp] theorem State.peerWrite_mats (s : State) (die : Nat) (o : PeerOwner) (f : Half) (pa : Nat) (ls : List WireLine) (sc : Bool) :
    (s.peerWrite die o f pa ls sc).mats = s.mats :=
  (State.peerWrite_sends ..).mats
@[simp] theorem State.peerWrite_copies (s : State) (die : Nat) (o : PeerOwner) (f : Half) (pa : Nat) (ls : List WireLine) (sc : Bool) :
    (s.peerWrite die o f pa ls sc).copies = s.copies :=
  (State.peerWrite_sends ..).copies
@[simp] theorem State.peerWrite_churn (s : State) (die : Nat) (o : PeerOwner) (f : Half) (pa : Nat) (ls : List WireLine) (sc : Bool) :
    (s.peerWrite die o f pa ls sc).churn = s.churn :=
  (State.peerWrite_sends ..).churn
@[simp] theorem State.peerWrite_tlb (s : State) (die : Nat) (o : PeerOwner) (f : Half) (pa : Nat) (ls : List WireLine) (sc : Bool) :
    (s.peerWrite die o f pa ls sc).tlb = s.tlb :=
  (State.peerWrite_sends ..).tlb
@[simp] theorem State.peerWrite_dir (s : State) (die : Nat) (o : PeerOwner) (f : Half) (pa : Nat) (ls : List WireLine) (sc : Bool) :
    (s.peerWrite die o f pa ls sc).dir = s.dir :=
  (State.peerWrite_sends ..).dir
@[simp] theorem State.peerWrite_saveQ (s : State) (die : Nat) (o : PeerOwner) (f : Half) (pa : Nat) (ls : List WireLine) (sc : Bool) :
    (s.peerWrite die o f pa ls sc).saveQ = s.saveQ :=
  (State.peerWrite_sends ..).saveQ
@[simp] theorem State.peerWrite_cur (s : State) (die : Nat) (o : PeerOwner) (f : Half) (pa : Nat) (ls : List WireLine) (sc : Bool) :
    (s.peerWrite die o f pa ls sc).cur = s.cur :=
  (State.peerWrite_sends ..).cur
@[simp] theorem State.peerWrite_agenda (s : State) (die : Nat) (o : PeerOwner) (f : Half) (pa : Nat) (ls : List WireLine) (sc : Bool) :
    (s.peerWrite die o f pa ls sc).agenda = s.agenda :=
  (State.peerWrite_sends ..).agenda
@[simp] theorem State.peerWrite_tick (s : State) (die : Nat) (o : PeerOwner) (f : Half) (pa : Nat) (ls : List WireLine) (sc : Bool) :
    (s.peerWrite die o f pa ls sc).tick = s.tick :=
  (State.peerWrite_sends ..).tick

@[simp] theorem State.peerLine_mem (s : State) (die : Nat) (o : PeerOwner) (line : Nat) (w : WireLine) : (s.peerLine die o line w).mem = s.mem :=
  (State.peerLine_sends ..).mem
@[simp] theorem State.peerLine_blocks (s : State) (die : Nat) (o : PeerOwner) (line : Nat) (w : WireLine) : (s.peerLine die o line w).blocks = s.blocks :=
  (State.peerLine_sends ..).blocks
@[simp] theorem State.peerLine_clusters (s : State) (die : Nat) (o : PeerOwner) (line : Nat) (w : WireLine) : (s.peerLine die o line w).clusters = s.clusters :=
  (State.peerLine_sends ..).clusters
@[simp] theorem State.peerLine_launches (s : State) (die : Nat) (o : PeerOwner) (line : Nat) (w : WireLine) : (s.peerLine die o line w).launches = s.launches :=
  (State.peerLine_sends ..).launches
@[simp] theorem State.peerLine_queues (s : State) (die : Nat) (o : PeerOwner) (line : Nat) (w : WireLine) : (s.peerLine die o line w).queues = s.queues :=
  (State.peerLine_sends ..).queues
@[simp] theorem State.peerLine_ctxs (s : State) (die : Nat) (o : PeerOwner) (line : Nat) (w : WireLine) : (s.peerLine die o line w).ctxs = s.ctxs :=
  (State.peerLine_sends ..).ctxs
@[simp] theorem State.peerLine_scheds (s : State) (die : Nat) (o : PeerOwner) (line : Nat) (w : WireLine) : (s.peerLine die o line w).scheds = s.scheds :=
  (State.peerLine_sends ..).scheds
@[simp] theorem State.peerLine_mats (s : State) (die : Nat) (o : PeerOwner) (line : Nat) (w : WireLine) : (s.peerLine die o line w).mats = s.mats :=
  (State.peerLine_sends ..).mats
@[simp] theorem State.peerLine_copies (s : State) (die : Nat) (o : PeerOwner) (line : Nat) (w : WireLine) : (s.peerLine die o line w).copies = s.copies :=
  (State.peerLine_sends ..).copies
@[simp] theorem State.peerLine_churn (s : State) (die : Nat) (o : PeerOwner) (line : Nat) (w : WireLine) : (s.peerLine die o line w).churn = s.churn :=
  (State.peerLine_sends ..).churn
@[simp] theorem State.peerLine_tlb (s : State) (die : Nat) (o : PeerOwner) (line : Nat) (w : WireLine) : (s.peerLine die o line w).tlb = s.tlb :=
  (State.peerLine_sends ..).tlb
@[simp] theorem State.peerLine_dir (s : State) (die : Nat) (o : PeerOwner) (line : Nat) (w : WireLine) : (s.peerLine die o line w).dir = s.dir :=
  (State.peerLine_sends ..).dir
@[simp] theorem State.peerLine_saveQ (s : State) (die : Nat) (o : PeerOwner) (line : Nat) (w : WireLine) : (s.peerLine die o line w).saveQ = s.saveQ :=
  (State.peerLine_sends ..).saveQ
@[simp] theorem State.peerLine_cur (s : State) (die : Nat) (o : PeerOwner) (line : Nat) (w : WireLine) : (s.peerLine die o line w).cur = s.cur :=
  (State.peerLine_sends ..).cur
@[simp] theorem State.peerLine_agenda (s : State) (die : Nat) (o : PeerOwner) (line : Nat) (w : WireLine) : (s.peerLine die o line w).agenda = s.agenda :=
  (State.peerLine_sends ..).agenda
@[simp] theorem State.peerLine_tick (s : State) (die : Nat) (o : PeerOwner) (line : Nat) (w : WireLine) : (s.peerLine die o line w).tick = s.tick :=
  (State.peerLine_sends ..).tick

/-- A contribution to a round changes the rounds, and sends what other packages have to know of it. -/
theorem State.contribute_sends (s : State) (c : Contrib) :
    SendsOnly (s.modFab fun f => { f with contribs := (s.contribute c).fab.contribs, rounds := (s.contribute c).fab.rounds })
      (s.contribute c) := by
  have h : ∀ (t : State) (k : Packet), t.fab.contribs = (t.sendPacket k).fab.contribs ∧ t.fab.rounds = (t.sendPacket k).fab.rounds := by
    intro t k
    have := State.sendPacket_sends t k
    exact ⟨by rw [this], by rw [this]⟩
  unfold State.contribute
  simp only
  split
  · rw [← (h _ _).1, ← (h _ _).2]
    exact State.sendPacket_sends _ _
  · exact rfl

@[simp] theorem State.contribute_mem (s : State) (c : Contrib) : (s.contribute c).mem = s.mem :=
  (State.contribute_sends s c).mem
@[simp] theorem State.contribute_blocks (s : State) (c : Contrib) : (s.contribute c).blocks = s.blocks :=
  (State.contribute_sends s c).blocks
@[simp] theorem State.contribute_clusters (s : State) (c : Contrib) : (s.contribute c).clusters = s.clusters :=
  (State.contribute_sends s c).clusters
@[simp] theorem State.contribute_launches (s : State) (c : Contrib) : (s.contribute c).launches = s.launches :=
  (State.contribute_sends s c).launches
@[simp] theorem State.contribute_queues (s : State) (c : Contrib) : (s.contribute c).queues = s.queues :=
  (State.contribute_sends s c).queues
@[simp] theorem State.contribute_ctxs (s : State) (c : Contrib) : (s.contribute c).ctxs = s.ctxs :=
  (State.contribute_sends s c).ctxs
@[simp] theorem State.contribute_scheds (s : State) (c : Contrib) : (s.contribute c).scheds = s.scheds :=
  (State.contribute_sends s c).scheds
@[simp] theorem State.contribute_mats (s : State) (c : Contrib) : (s.contribute c).mats = s.mats :=
  (State.contribute_sends s c).mats
@[simp] theorem State.contribute_copies (s : State) (c : Contrib) : (s.contribute c).copies = s.copies :=
  (State.contribute_sends s c).copies
@[simp] theorem State.contribute_churn (s : State) (c : Contrib) : (s.contribute c).churn = s.churn :=
  (State.contribute_sends s c).churn
@[simp] theorem State.contribute_tlb (s : State) (c : Contrib) : (s.contribute c).tlb = s.tlb :=
  (State.contribute_sends s c).tlb
@[simp] theorem State.contribute_dir (s : State) (c : Contrib) : (s.contribute c).dir = s.dir :=
  (State.contribute_sends s c).dir
@[simp] theorem State.contribute_saveQ (s : State) (c : Contrib) : (s.contribute c).saveQ = s.saveQ :=
  (State.contribute_sends s c).saveQ
@[simp] theorem State.contribute_cur (s : State) (c : Contrib) : (s.contribute c).cur = s.cur :=
  (State.contribute_sends s c).cur
@[simp] theorem State.contribute_agenda (s : State) (c : Contrib) : (s.contribute c).agenda = s.agenda :=
  (State.contribute_sends s c).agenda
@[simp] theorem State.contribute_tick (s : State) (c : Contrib) : (s.contribute c).tick = s.tick :=
  (State.contribute_sends s c).tick

end Sys2Proof.Machine
end

