-- ==== Sys2Proof/Laws/Mem.lean ====
section
/-! SUPPORT. Memory: reading after a write, and the canonical form that every memory operation keeps. -/

namespace Sys2Proof.Machine

open Sys2Proof

/-! ### Byte lists -/

/-- Every key of a list lies above a bound. -/
def keysAbove (a : Nat) (l : List Host.Cell) : Prop := ∀ c ∈ l, a < c.1

theorem cellsWf_tail {c : Host.Cell} {l : List Host.Cell} (h : cellsWf (c :: l) = true) : cellsWf l = true := by
  cases l with
  | nil => rfl
  | cons d l => simp [cellsWf] at h; exact h.2

theorem cellsWf_keys {c : Host.Cell} {l : List Host.Cell} (h : cellsWf (c :: l) = true) : keysAbove c.1 l := by
  induction l generalizing c with
  | nil => intro d hd; simp at hd
  | cons d l ih =>
    simp [cellsWf] at h
    intro e he
    rcases List.mem_cons.mp he with rfl | he
    · exact h.1.2
    · exact Nat.lt_trans h.1.2 (ih h.2 e he)

theorem cellsWf_head {c : Host.Cell} {l : List Host.Cell} (h : cellsWf (c :: l) = true) : c.2 ≠ 0 := by
  cases l with
  | nil => simpa [cellsWf] using h
  | cons d l => simp [cellsWf] at h; exact h.1.1

theorem cellsWf_cons {a : Nat} {v : Byte} {l : List Host.Cell} (hv : v ≠ 0) (ha : keysAbove a l) (hl : cellsWf l = true) :
    cellsWf ((a, v) :: l) = true := by
  cases l with
  | nil => simpa [cellsWf] using hv
  | cons d l => simp [cellsWf]; exact ⟨⟨hv, ha d (by simp)⟩, hl⟩

theorem cellSet_keys {a b : Nat} {v : Byte} {l : List Host.Cell} (h : keysAbove b l) (hb : b < a) :
    keysAbove b (cellSet l a v) := by
  induction l with
  | nil => intro c hc; simp only [cellSet] at hc; split at hc <;> simp_all
  | cons d l ih =>
    have hd : b < d.1 := h d (by simp)
    have hl : keysAbove b l := fun c hc => h c (by simp [hc])
    have hi := ih hl
    intro c hc
    obtain ⟨k, w⟩ := d
    simp only [cellSet] at hc
    split at hc
    · split at hc
      · exact h c hc
      · rcases List.mem_cons.mp hc with rfl | hc
        · exact hb
        · exact h c hc
    · split at hc
      · split at hc
        · exact hl c hc
        · rcases List.mem_cons.mp hc with rfl | hc
          · exact hb
          · exact hl c hc
      · rcases List.mem_cons.mp hc with rfl | hc
        · exact hd
        · exact hi c hc

/-- Putting a byte keeps the canonical form. -/
theorem cellSet_wf {a : Nat} {v : Byte} {l : List Host.Cell} (h : cellsWf l = true) : cellsWf (cellSet l a v) = true := by
  induction l with
  | nil => simp only [cellSet]; split <;> simp_all [cellsWf]
  | cons d l ih =>
    obtain ⟨b, w⟩ := d
    have hk := cellsWf_keys h
    have ht := cellsWf_tail h
    have hw := cellsWf_head h
    simp only [cellSet]
    split
    · rename_i hab
      split
      · exact h
      · rename_i hv
        exact cellsWf_cons hv (fun c hc => by
          rcases List.mem_cons.mp hc with rfl | hc
          · exact hab
          · exact Nat.lt_trans hab (hk c hc)) h
    · rename_i hab
      split
      · rename_i he
        split
        · exact ht
        · rename_i hv
          exact cellsWf_cons hv (he ▸ hk) ht
      · rename_i he
        exact cellsWf_cons hw (cellSet_keys hk (by show b < a; omega)) (ih ht)

theorem cellGet_above {a : Nat} {l : List Host.Cell} (h : keysAbove a l) : cellGet l a = 0 := by
  cases l with
  | nil => rfl
  | cons d l =>
    have := h d (by simp)
    simp only [cellGet]
    split
    · omega
    · simp

/-- The byte put at a key is read there. -/
theorem cellGet_set {a : Nat} {v : Byte} {l : List Host.Cell} (h : cellsWf l = true) : cellGet (cellSet l a v) a = v := by
  induction l with
  | nil => simp only [cellSet]; split <;> simp_all [cellGet]
  | cons d l ih =>
    obtain ⟨b, w⟩ := d
    simp only [cellSet]
    split
    · rename_i hab
      split
      · rename_i hv
        simp [cellGet, hv, hab]
        intro e; omega
      · simp [cellGet]
    · split
      · rename_i he
        split
        · rename_i hv
          rw [cellGet_above (he ▸ cellsWf_keys h), hv]
        · simp [cellGet]
      · rename_i h1 h2
        simp only [cellGet, h2, if_false, h1]
        exact ih (cellsWf_tail h)

/-- Another key reads as before. -/
theorem cellGet_set_ne {a k : Nat} {v : Byte} {l : List Host.Cell} (h : cellsWf l = true) (hk : k ≠ a) :
    cellGet (cellSet l a v) k = cellGet l k := by
  induction l with
  | nil =>
    simp only [cellSet]
    split
    · rfl
    · simp only [cellGet, hk, if_false]; split <;> rfl
  | cons d l ih =>
    obtain ⟨b, w⟩ := d
    have hl := cellsWf_keys h
    simp only [cellSet]
    split
    · rename_i hab
      split
      · rfl
      · simp only [cellGet, hk, if_false]
        split
        · rename_i hka
          have h1 : k ≠ b := by omega
          have h2 : k < b := by omega
          simp [h1, h2]
        · rfl
    · split
      · rename_i h1 he
        split
        · simp only [cellGet]
          have h1 : k ≠ b := he ▸ hk
          rw [if_neg h1]
          split
          · rename_i hkb
            exact cellGet_above (fun c hc => Nat.lt_trans hkb (hl c hc))
          · rfl
        · simp only [cellGet, hk, if_false, he ▸ hk]
          rw [he]
      · simp only [cellGet]
        rw [ih (cellsWf_tail h)]

/-! ### Memory -/

theorem Mem.wf_iff (m : Mem) : m.wf = true ↔ cellsWf m.cells = true ∧ cellsWf m.sides = true := by
  simp [Mem.wf]

theorem Mem.setByte_wf {m : Mem} (pa : Nat) (v : Byte) (h : m.wf = true) : (m.setByte pa v).wf = true := by
  rw [Mem.wf_iff] at h ⊢
  exact ⟨cellSet_wf h.1, h.2⟩

theorem Mem.setSide_wf {m : Mem} (k : Nat) (v : Byte) (h : m.wf = true) : (m.setSide k v).wf = true := by
  rw [Mem.wf_iff] at h ⊢
  exact ⟨h.1, cellSet_wf h.2⟩

theorem Mem.setBytes_wf {m : Mem} (pa : Nat) (bs : List Byte) (h : m.wf = true) : (m.setBytes pa bs).wf = true := by
  induction bs generalizing m pa with
  | nil => exact h
  | cons b bs ih => exact ih _ (Mem.setByte_wf pa b h)

theorem Mem.unmark_wf {m : Mem} (line : Nat) (h : m.wf = true) : (m.unmark line).wf = true := h

theorem Mem.mark_wf {m : Mem} (line : Nat) (h : m.wf = true) : (m.mark line).wf = true := h

/-- A fold of changes that each keep the canonical form keeps it. -/
theorem Mem.foldl_wf {α : Type} (f : Mem → α → Mem) (hf : ∀ m x, m.wf = true → (f m x).wf = true) (xs : List α) {m : Mem}
    (h : m.wf = true) : (xs.foldl f m).wf = true := by
  induction xs generalizing m with
  | nil => exact h
  | cons x xs ih => exact ih (hf m x h)

theorem Mem.setWire_wf {m : Mem} (line : Nat) (w : WireLine) (h : m.wf = true) : (m.setWire line w).wf = true := by
  unfold Mem.setWire
  exact Mem.unmark_wf _ (Mem.foldl_wf _ (fun m x hm => Mem.setSide_wf _ _ hm) _ (Mem.setBytes_wf _ _ h))

theorem Mem.mergeChurn_wf {m : Mem} (c : Churn) (h : m.wf = true) : (m.mergeChurn c).wf = true := Mem.setBytes_wf _ _ h

theorem Mem.noteStore_wf {m : Mem} (e : StoreEnt) (h : m.wf = true) : (m.noteStore e).wf = true := by
  unfold Mem.noteStore; split <;> exact h

/-! ### The state's memory -/

/-- A fold of steps that each keep the canonical form keeps it. -/
theorem State.foldl_memOk {α : Type} (f : State → α → State) (hf : ∀ s x, s.memOk → (f s x).memOk) (xs : List α) {s : State}
    (h : s.memOk) : (xs.foldl f s).memOk := by
  induction xs generalizing s with
  | nil => exact h
  | cons x xs ih => exact ih (hf s x h)

theorem State.mergeChurn_memOk {s : State} (f : Churn → Bool) (h : s.memOk) : (s.mergeChurn f).memOk :=
  Mem.foldl_wf _ (fun _ c hm => Mem.mergeChurn_wf c hm) _ h

theorem State.touch_memOk {s : State} (line : Nat) (h : s.memOk) : (s.touch line).memOk := State.mergeChurn_memOk _ h

theorem State.touchRange_memOk {s : State} (pa n : Nat) (h : s.memOk) : (s.touchRange pa n).memOk :=
  State.mergeChurn_memOk _ h

theorem State.writeMem_memOk {s : State} (pa : Nat) (bs : List Byte) (h : s.memOk) : (s.writeMem pa bs).memOk :=
  Mem.setBytes_wf _ _ (State.touchRange_memOk pa bs.length h)

theorem State.putWire_memOk {s : State} (line : Nat) (w : WireLine) (h : s.memOk) : (s.putWire line w).memOk :=
  Mem.setWire_wf _ _ (State.touch_memOk line h)

theorem State.performStore_memOk {s : State} (e : StoreEnt) (h : s.memOk) : (s.performStore e).memOk := by
  unfold State.performStore
  have h1 : (e.cells.foldl (fun s b => (targets s b.addr).foldl (fun s pa =>
      { s.touch (lineOf pa) with
        mem := (s.touch (lineOf pa)).mem.setByte pa (b.apply ((s.touch (lineOf pa)).mem.byte pa)) }) s) s).memOk := by
    refine State.foldl_memOk _ ?_ _ h
    intro s b hs
    refine State.foldl_memOk _ ?_ _ hs
    intro s pa hs
    exact Mem.setByte_wf _ _ (State.touch_memOk (lineOf pa) hs)
  exact Mem.noteStore_wf _ (Mem.foldl_wf _ (fun m x hm => Mem.setSide_wf _ _ hm) _ h1)

/-! ### Stores that leave their queue -/

/-- What a store sends changes only what traffic with other packages changes. -/
theorem State.sendStore_sends (s : State) (die : Nat) (o : PeerOwner) (e : StoreEnt) : SendsOnly s (s.sendStore die o e) :=
  SendsOnly.foldl _ (fun _ _ => SendsOnly.foldl _ (fun _ _ => State.peerWrite_sends ..) _ _) _ _

@[simp] theorem State.sendStore_mem (s : State) (die : Nat) (o : PeerOwner) (e : StoreEnt) :
    (s.sendStore die o e).mem = s.mem := (State.sendStore_sends ..).mem

@[simp] theorem State.sendStore_blocks (s : State) (die : Nat) (o : PeerOwner) (e : StoreEnt) :
    (s.sendStore die o e).blocks = s.blocks := (State.sendStore_sends ..).blocks

/-- Bytes that an engine writes change the memory as they are performed. -/
theorem State.engineStore_mem (s : State) (die : Nat) (o : PeerOwner) (cells : List MaskByte) :
    (s.engineStore die o cells).mem =
      (s.performStore { ti := 0, cells := cells, sides := [], lines := [], pay := [], nblk := 0 }).mem := State.sendStore_mem ..

theorem State.engineStore_memOk {s : State} (die : Nat) (o : PeerOwner) (cells : List MaskByte) (h : s.memOk) :
    (s.engineStore die o cells).memOk := by
  unfold State.memOk
  rw [State.engineStore_mem]
  exact State.performStore_memOk _ h

/-- Asking for the line of a held access changes only what traffic with other packages changes. -/
theorem State.askFor_sends (s : State) (die : Nat) (f : MemFault) : SendsOnly s (s.askFor die f) := by
  unfold State.askFor
  split
  · exact State.askLine_sends ..
  · exact .refl s

@[simp] theorem State.askFor_mem (s : State) (die : Nat) (f : MemFault) : (s.askFor die f).mem = s.mem :=
  (State.askFor_sends ..).mem

@[simp] theorem State.askFor_blocks (s : State) (die : Nat) (f : MemFault) : (s.askFor die f).blocks = s.blocks :=
  (State.askFor_sends ..).blocks

/-- The walker's bits of an entry of another package are sent. -/
theorem State.sendBits_sends (s : State) (die pa bits : Nat) : SendsOnly s (s.sendBits die pa bits) := by
  unfold State.sendBits
  split
  · exact (State.modPeer_sends s _).trans (State.sendPeer_sends ..)
  · exact .refl s

@[simp] theorem State.sendBits_mem (s : State) (die pa bits : Nat) : (s.sendBits die pa bits).mem = s.mem :=
  (State.sendBits_sends ..).mem

@[simp] theorem State.sendBits_blocks (s : State) (die pa bits : Nat) : (s.sendBits die pa bits).blocks = s.blocks :=
  (State.sendBits_sends ..).blocks

/-- A thread that goes on once its store is performed changes nothing but itself. -/
@[simp] theorem State.scDone_mem (s : State) (bid ti : Nat) : (s.scDone bid ti).mem = s.mem := by
  unfold State.scDone
  split <;> rfl

/-- A store that leaves its queue changes the memory as it is performed. -/
theorem State.leaveQueue_mem (b : Block) (s : State) (e : StoreEnt) : (s.leaveQueue b e).mem = (s.performStore e).mem := by
  unfold State.leaveQueue
  simp only
  split
  · exact (State.scDone_mem ..).trans (State.sendStore_mem ..)
  · exact State.sendStore_mem ..

theorem State.leaveQueue_memOk {b : Block} {s : State} (e : StoreEnt) (h : s.memOk) : (s.leaveQueue b e).memOk := by
  unfold State.memOk
  rw [State.leaveQueue_mem]
  exact State.performStore_memOk e h

theorem State.drain1_memOk {s : State} (bid wi : Nat) (h : s.memOk) : (s.drain1 bid wi).memOk := by
  unfold State.drain1
  split
  · split
    · exact State.foldl_memOk _ (fun s e hs => State.leaveQueue_memOk e hs) _ h
    · exact h
  · exact h

theorem State.drainWarp_memOk {s : State} (bid wi : Nat) (h : s.memOk) : (s.drainWarp bid wi).memOk := by
  unfold State.drainWarp
  split
  · split
    · exact State.foldl_memOk _ (fun s e hs => State.leaveQueue_memOk e hs) _ h
    · exact h
  · exact h

theorem State.drainOf_memOk {s : State} (bid ti : Nat) (h : s.memOk) : (s.drainOf bid ti).memOk := by
  unfold State.drainOf
  split
  · exact State.drainWarp_memOk _ _ h
  · exact h

theorem State.drainBlock_memOk {s : State} (bid : Nat) (h : s.memOk) : (s.drainBlock bid).memOk := by
  unfold State.drainBlock
  split
  · exact State.foldl_memOk _ (fun s wi hs => State.drainWarp_memOk _ _ hs) _ h
  · exact h

theorem State.noteLeaf_memOk {s : State} (c : Context) (site va : Nat) (l : Leaf) (a : Acc) (h : s.memOk) :
    (s.noteLeaf c site va l a).memOk := by
  have h1 : (if leafBits l a = l.e then s else
      (s.writeMem l.at_ (toBytes 8 (leafBits l a))).sendBits (siteDie site) l.at_ (leafBits l a ^^^ l.e)).memOk := by
    split
    · exact h
    · unfold State.memOk
      rw [State.sendBits_mem]
      exact State.writeMem_memOk _ _ h
  exact h1

theorem State.translate_memOk {s : State} (c : Context) (site : Nat) (ea : DWord) (a : Acc) (r : Bool) (h : s.memOk) :
    (s.translate c site ea a r).1.memOk := by
  unfold State.translate
  simp only
  split
  · exact h
  · split
    · split <;> exact h
    · split
      · exact h
      · split
        · exact h
        · exact State.noteLeaf_memOk _ _ _ _ _ h

theorem State.noteDir_memOk {s : State} (site : Nat) (p : Pa) (e : Bool) (h : s.memOk) : (s.noteDir site p e).memOk := by
  unfold State.noteDir
  simp only
  split
  · exact h
  · split
    · split <;> exact h
    · exact h

theorem State.askFor_memOk {s : State} (die : Nat) (f : MemFault) (h : s.memOk) : (s.askFor die f).memOk := by
  unfold State.memOk
  rw [State.askFor_mem]
  exact h

theorem State.reachPage_memOk {s : State} (c : Context) (site : Nat) (ea : DWord) (a : Acc) (r : Bool) (h : s.memOk) :
    (s.reachPage c site ea a r).1.memOk := by
  have ht := State.translate_memOk c site ea a r h
  unfold State.reachPage
  split
  · rename_i s1 f he; rw [he] at ht; exact State.askFor_memOk _ _ ht
  · rename_i s1 p he
    rw [he] at ht
    split
    · exact ht
    · split
      · exact State.askFor_memOk _ _ ht
      · split
        · exact ht
        · split
          · exact h
          · exact State.noteDir_memOk _ _ _ ht

theorem State.reachAt_memOk {s : State} (c : Context) (site : Nat) (ea : DWord) (a : Acc) (r : Bool) (h : s.memOk) :
    (s.reachAt c site ea a r).1.memOk := by
  have ht := State.reachPage_memOk c site ea a r h
  unfold State.reachAt
  split
  · rename_i s1 f he; rw [he] at ht; exact ht
  · rename_i s1 p he
    rw [he] at ht
    split <;> exact ht

/-- The memory after reset has the canonical form. -/
theorem State.reset_memOk : State.reset.memOk := rfl

end Sys2Proof.Machine
end

