-- ==== Sys2Proof/Laws/PerInstr.lean ====
section
/-! SUPPORT. One lemma per constructor of `Instr`: the word of an instruction fits its length, and its low bits announce
that length (R32). -/

namespace Sys2Proof.Laws.WordFits

open Sys2Proof

/-- Every word that the encoder gives an instruction fits the length, and its first halfword announces it (R32). -/
def Statement (i : Instr) : Prop := ∀ nb w, encode i = some (nb, w) → w < 2 ^ nb ∧ 8 * lenOf (w % 65536) = nb

theorem bit_lt (b : Bool) : bit b < 2 := by cases b <;> decide

theorem fits16 (sw : Bool) (op d r : Nat) (ho : op < 16) (hd : d < 32) (hr : r < 32) :
    enc16 sw op d r < 2 ^ 16 ∧ 8 * lenOf (enc16 sw op d r % 65536) = 16 := by
  have := bit_lt sw
  unfold enc16 lenOf
  refine ⟨by omega, ?_⟩
  split
  · omega
  · split <;> omega

theorem fits32 (sw : Bool) (mj hi : Nat) (hm : mj < 128) (hh : hi < 4194304) :
    enc32 sw mj hi < 2 ^ 32 ∧ 8 * lenOf (enc32 sw mj hi % 65536) = 32 := by
  have := bit_lt sw
  unfold enc32 lenOf
  refine ⟨by omega, ?_⟩
  split
  · omega
  · split <;> omega

theorem fitsX (mj : Nat) (x : FormX) (hm : mj < 128) :
    encX mj x < 2 ^ 64 ∧ 8 * lenOf (encX mj x % 65536) = 64 := by
  have := bit_lt x.sw; have := bit_lt x.ng
  have := x.g.isLt; have := x.d.isLt; have := x.a.isLt; have := x.b.isLt; have := x.c.isLt; have := x.m.isLt
  unfold encX lenOf
  refine ⟨by omega, ?_⟩
  split
  · omega
  · split <;> omega

theorem fitsI (mj : Nat) (x : FormI) (hm : mj < 128) :
    encI mj x < 2 ^ 64 ∧ 8 * lenOf (encI mj x % 65536) = 64 := by
  have := bit_lt x.sw; have := bit_lt x.ng
  have := x.g.isLt; have := x.d.isLt; have := x.a.isLt; have := x.kind.isLt; have := x.imm.isLt
  unfold encI lenOf
  refine ⟨by omega, ?_⟩
  split
  · omega
  · split <;> omega

theorem fitsA (mj : Nat) (f : FormA) (hm : mj < 128) : encA mj f < 2 ^ 32 ∧ 8 * lenOf (encA mj f % 65536) = 32 := by
  have := f.d.isLt; have := f.a.isLt; have := f.b.isLt; have := f.m.isLt
  exact fits32 _ _ _ hm (by omega)

theorem fitsU (mj : Nat) (f : FormU) (hm : mj < 128) : encU mj f < 2 ^ 32 ∧ 8 * lenOf (encU mj f % 65536) = 32 := by
  have := f.d.isLt; have := f.a.isLt; have := f.m.isLt
  exact fits32 _ _ _ hm (by omega)

theorem fitsB (mj : Nat) (f : FormB) (hm : mj < 128) : encB mj f < 2 ^ 32 ∧ 8 * lenOf (encB mj f % 65536) = 32 := by
  have := f.d.isLt; have := f.a.isLt; have := f.imm.isLt
  exact fits32 _ _ _ hm (by omega)

theorem fitsC (mj : Nat) (f : FormC) (hm : mj < 128) : encC mj f < 2 ^ 32 ∧ 8 * lenOf (encC mj f % 65536) = 32 := by
  have := f.d.isLt; have := f.imm.isLt
  exact fits32 _ _ _ hm (by omega)

/-- An instruction whose word is known to fit. -/
theorem of_some {i : Instr} {nb w : Nat} (e : encode i = some (nb, w)) (h : w < 2 ^ nb ∧ 8 * lenOf (w % 65536) = nb) :
    Statement i := by
  intro nb' w' e'
  rw [e] at e'
  obtain ⟨rfl, rfl⟩ := Prod.mk.inj (Option.some.inj e')
  exact h

theorem of_none {i : Instr} (e : encode i = none) : Statement i := by
  intro nb w e'
  rw [e] at e'
  exact absurd e' (by simp)

theorem of_op {i : Instr} {mj op : Nat} {x : FormX} (e : encode i = encOp mj op x) (hm : mj < 128) : Statement i := by
  intro nb w e'
  rw [e] at e'
  unfold encOp at e'
  split at e'
  · obtain ⟨rfl, rfl⟩ := Prod.mk.inj (Option.some.inj e')
    exact fitsX mj x hm
  · exact absurd e' (by simp)

theorem c16Mov (sw : Bool) (d r : BitVec 5) : Statement (.c16Mov sw d r) := of_some rfl (fits16 _ _ _ _ (by decide) d.isLt r.isLt)
theorem c16Add (sw : Bool) (d r : BitVec 5) : Statement (.c16Add sw d r) := of_some rfl (fits16 _ _ _ _ (by decide) d.isLt r.isLt)
theorem c16Sub (sw : Bool) (d r : BitVec 5) : Statement (.c16Sub sw d r) := of_some rfl (fits16 _ _ _ _ (by decide) d.isLt r.isLt)
theorem c16Mul (sw : Bool) (d r : BitVec 5) : Statement (.c16Mul sw d r) := of_some rfl (fits16 _ _ _ _ (by decide) d.isLt r.isLt)
theorem c16And (sw : Bool) (d r : BitVec 5) : Statement (.c16And sw d r) := of_some rfl (fits16 _ _ _ _ (by decide) d.isLt r.isLt)
theorem c16Or (sw : Bool) (d r : BitVec 5) : Statement (.c16Or sw d r) := of_some rfl (fits16 _ _ _ _ (by decide) d.isLt r.isLt)
theorem c16Xor (sw : Bool) (d r : BitVec 5) : Statement (.c16Xor sw d r) := of_some rfl (fits16 _ _ _ _ (by decide) d.isLt r.isLt)
theorem c16Shl (sw : Bool) (d r : BitVec 5) : Statement (.c16Shl sw d r) := of_some rfl (fits16 _ _ _ _ (by decide) d.isLt r.isLt)
theorem c16Shr (sw : Bool) (d r : BitVec 5) : Statement (.c16Shr sw d r) := of_some rfl (fits16 _ _ _ _ (by decide) d.isLt r.isLt)
theorem c16Sar (sw : Bool) (d r : BitVec 5) : Statement (.c16Sar sw d r) := of_some rfl (fits16 _ _ _ _ (by decide) d.isLt r.isLt)
theorem c16Addi (sw : Bool) (d imm : BitVec 5) : Statement (.c16Addi sw d imm) := of_some rfl (fits16 _ _ _ _ (by decide) d.isLt imm.isLt)
theorem c16Movi (sw : Bool) (d imm : BitVec 5) : Statement (.c16Movi sw d imm) := of_some rfl (fits16 _ _ _ _ (by decide) d.isLt imm.isLt)
theorem c16Fadd (sw : Bool) (d r : BitVec 5) : Statement (.c16Fadd sw d r) := of_some rfl (fits16 _ _ _ _ (by decide) d.isLt r.isLt)
theorem c16Fmul (sw : Bool) (d r : BitVec 5) : Statement (.c16Fmul sw d r) := of_some rfl (fits16 _ _ _ _ (by decide) d.isLt r.isLt)
theorem c16Fmax (sw : Bool) (d r : BitVec 5) : Statement (.c16Fmax sw d r) := of_some rfl (fits16 _ _ _ _ (by decide) d.isLt r.isLt)
theorem c16Fmin (sw : Bool) (d r : BitVec 5) : Statement (.c16Fmin sw d r) := of_some rfl (fits16 _ _ _ _ (by decide) d.isLt r.isLt)
theorem bra (sw : Bool) (off : BitVec 22) : Statement (.bra sw off) := by
  have := off.isLt
  exact of_some rfl (fits32 _ _ _ (by decide) (by omega))
theorem call (sw : Bool) (off : BitVec 22) : Statement (.call sw off) := by
  have := off.isLt
  exact of_some rfl (fits32 _ _ _ (by decide) (by omega))
theorem bc (sw : Bool) (off : BitVec 18) (neg : Bool) (p : BitVec 3) : Statement (.bc sw off neg p) := by
  have := off.isLt
  have := p.isLt
  have := bit_lt neg
  exact of_some rfl (fits32 _ _ _ (by decide) (by omega))
theorem ctrlNop (sw : Bool) : Statement (.ctrlNop sw) := by
  exact of_some rfl (fits32 _ _ _ (by decide) (by omega))
theorem ctrlRet (sw : Bool) : Statement (.ctrlRet sw) := by
  exact of_some rfl (fits32 _ _ _ (by decide) (by omega))
theorem ctrlExit (sw : Bool) : Statement (.ctrlExit sw) := by
  exact of_some rfl (fits32 _ _ _ (by decide) (by omega))
theorem ctrlYield (sw : Bool) : Statement (.ctrlYield sw) := by
  exact of_some rfl (fits32 _ _ _ (by decide) (by omega))
theorem ctrlBrk (sw : Bool) : Statement (.ctrlBrk sw) := by
  exact of_some rfl (fits32 _ _ _ (by decide) (by omega))
theorem trap (sw : Bool) (code : BitVec 16) : Statement (.trap sw code) := by
  have := code.isLt
  exact of_some rfl (fits32 _ _ _ (by decide) (by omega))
theorem jtab (sw : Bool) (n : BitVec 10) (a : BitVec 6) : Statement (.jtab sw n a) := by
  have := n.isLt
  have := a.isLt
  refine of_some (w := enc32 sw 0x06 (64 * a.toNat + 4096 * n.toNat)) ?_ (fits32 _ _ _ (by decide) (by omega))
  simp only [encode, encF, enc32]
  congr 2
  omega
theorem ctab (sw : Bool) (n : BitVec 10) (a : BitVec 6) : Statement (.ctab sw n a) := by
  have := n.isLt
  have := a.isLt
  refine of_some (w := enc32 sw 0x07 (64 * a.toNat + 4096 * n.toNat)) ?_ (fits32 _ _ _ (by decide) (by omega))
  simp only [encode, encF, enc32]
  congr 2
  omega
theorem plog (f : FormA) : Statement (.plog f) := of_some rfl (fitsA _ f (by decide))
theorem vote (f : FormU) : Statement (.vote f) := of_some rfl (fitsU _ f (by decide))
theorem matchPeers (f : FormA) : Statement (.matchPeers f) := of_some rfl (fitsA _ f (by decide))
theorem elect (sw : Bool) (d : BitVec 6) : Statement (.elect sw d) := by
  have := d.isLt
  exact of_some rfl (fits32 _ _ _ (by decide) (by omega))
theorem wresize (sw : Bool) (m : BitVec 2) (d : BitVec 6) : Statement (.wresize sw m d) := by
  have := m.isLt
  have := d.isLt
  exact of_some rfl (fits32 _ _ _ (by decide) (by omega))
theorem wsyncWarp (sw : Bool) : Statement (.wsyncWarp sw) := by
  exact of_some rfl (fits32 _ _ _ (by decide) (by omega))
theorem wsyncMask (sw : Bool) (a : BitVec 6) : Statement (.wsyncMask sw a) := by
  have := a.isLt
  exact of_some rfl (fits32 _ _ _ (by decide) (by omega))
theorem bar (sw : Bool) (lv : BitVec 2) (cnt : BitVec 14) (id : BitVec 6) : Statement (.bar sw lv cnt id) := by
  have := lv.isLt
  have := cnt.isLt
  have := id.isLt
  exact of_some rfl (fits32 _ _ _ (by decide) (by omega))
theorem spawn (sw : Bool) (a : BitVec 6) : Statement (.spawn sw a) := by
  have := a.isLt
  exact of_some rfl (fits32 _ _ _ (by decide) (by omega))
theorem spawnExit (sw : Bool) (a : BitVec 6) : Statement (.spawnExit sw a) := by
  have := a.isLt
  exact of_some rfl (fits32 _ _ _ (by decide) (by omega))
theorem reggrow (sw : Bool) (n : BitVec 8) (d : BitVec 6) : Statement (.reggrow sw n d) := by
  have := n.isLt
  have := d.isLt
  exact of_some rfl (fits32 _ _ _ (by decide) (by omega))
theorem regshrink (sw : Bool) (n : BitVec 8) : Statement (.regshrink sw n) := by
  have := n.isLt
  exact of_some rfl (fits32 _ _ _ (by decide) (by omega))
theorem movs (sw : Bool) (num : BitVec 10) (d : BitVec 6) : Statement (.movs sw num d) := by
  have := num.isLt
  have := d.isLt
  exact of_some rfl (fits32 _ _ _ (by decide) (by omega))
theorem iadd (f : FormA) : Statement (.iadd f) := of_some rfl (fitsA _ f (by decide))
theorem imul (f : FormA) : Statement (.imul f) := of_some rfl (fitsA _ f (by decide))
theorem iminmax (f : FormA) : Statement (.iminmax f) := of_some rfl (fitsA _ f (by decide))
theorem logic (f : FormA) : Statement (.logic f) := of_some rfl (fitsA _ f (by decide))
theorem shift (f : FormA) : Statement (.shift f) := of_some rfl (fitsA _ f (by decide))
theorem iunary (f : FormU) : Statement (.iunary f) := of_some rfl (fitsU _ f (by decide))
theorem iset (f : FormA) : Statement (.iset f) := of_some rfl (fitsA _ f (by decide))
theorem iaddi (f : FormB) : Statement (.iaddi f) := of_some rfl (fitsB _ f (by decide))
theorem andi (f : FormB) : Statement (.andi f) := of_some rfl (fitsB _ f (by decide))
theorem ori (f : FormB) : Statement (.ori f) := of_some rfl (fitsB _ f (by decide))
theorem xori (f : FormB) : Statement (.xori f) := of_some rfl (fitsB _ f (by decide))
theorem shifti (sw : Bool) (k : BitVec 3) (h : BitVec 5) (a d : BitVec 6) : Statement (.shifti sw k h a d) := by
  have := k.isLt
  have := h.isLt
  have := a.isLt
  have := d.isLt
  exact of_some rfl (fits32 _ _ _ (by decide) (by omega))
theorem movi (f : FormC) : Statement (.movi f) := of_some rfl (fitsC _ f (by decide))
theorem movhi (f : FormC) : Statement (.movhi f) := of_some rfl (fitsC _ f (by decide))
theorem lea (f : FormA) : Statement (.lea f) := of_some rfl (fitsA _ f (by decide))
theorem bfx (f : FormA) : Statement (.bfx f) := of_some rfl (fitsA _ f (by decide))
theorem bfi (sw : Bool) (b a d : BitVec 6) : Statement (.bfi sw b a d) := by
  have := b.isLt
  have := a.isLt
  have := d.isLt
  exact of_some rfl (fits32 _ _ _ (by decide) (by omega))
theorem idiv (f : FormA) : Statement (.idiv f) := of_some rfl (fitsA _ f (by decide))
theorem fadd (f : FormA) : Statement (.fadd f) := of_some rfl (fitsA _ f (by decide))
theorem fmul (f : FormA) : Statement (.fmul f) := of_some rfl (fitsA _ f (by decide))
theorem fset (f : FormA) : Statement (.fset f) := of_some rfl (fitsA _ f (by decide))
theorem func (f : FormU) : Statement (.func f) := of_some rfl (fitsU _ f (by decide))
theorem cvtfi (f : FormU) : Statement (.cvtfi f) := of_some rfl (fitsU _ f (by decide))
theorem cvtif (f : FormU) : Statement (.cvtif f) := of_some rfl (fitsU _ f (by decide))
theorem hop (f : FormA) : Statement (.hop f) := of_some rfl (fitsA _ f (by decide))
theorem shfl (f : FormA) : Statement (.shfl f) := of_some rfl (fitsA _ f (by decide))
theorem wred (f : FormU) : Statement (.wred f) := of_some rfl (fitsU _ f (by decide))
theorem wscan (f : FormU) : Statement (.wscan f) := of_some rfl (fitsU _ f (by decide))
theorem ld32 (f : FormB) : Statement (.ld32 f) := of_some rfl (fitsB _ f (by decide))
theorem ld128 (f : FormB) : Statement (.ld128 f) := of_some rfl (fitsB _ f (by decide))
theorem st32 (f : FormB) : Statement (.st32 f) := of_some rfl (fitsB _ f (by decide))
theorem st128 (f : FormB) : Statement (.st128 f) := of_some rfl (fitsB _ f (by decide))
theorem movf (sw : Bool) (w : Bool) (f : BitVec 3) (d : BitVec 6) : Statement (.movf sw w f d) := by
  have := f.isLt
  have := d.isLt
  have := bit_lt w
  exact of_some rfl (fits32 _ _ _ (by decide) (by omega))
theorem eret (sw : Bool) : Statement (.eret sw) := by
  exact of_some rfl (fits32 _ _ _ (by decide) (by omega))
theorem ctlrd (sw : Bool) (num : BitVec 10) (d : BitVec 6) : Statement (.ctlrd sw num d) := by
  have := num.isLt
  have := d.isLt
  exact of_some rfl (fits32 _ _ _ (by decide) (by omega))
theorem ctlwr (sw : Bool) (num : BitVec 10) (a : BitVec 6) : Statement (.ctlwr sw num a) := by
  have := num.isLt
  have := a.isLt
  exact of_some rfl (fits32 _ _ _ (by decide) (by omega))
theorem pginvPage (sw : Bool) (a : BitVec 6) : Statement (.pginvPage sw a) := by
  have := a.isLt
  exact of_some rfl (fits32 _ _ _ (by decide) (by omega))
theorem pginvContext (sw : Bool) : Statement (.pginvContext sw) := by
  exact of_some rfl (fits32 _ _ _ (by decide) (by omega))
theorem idle (sw : Bool) : Statement (.idle sw) := by
  exact of_some rfl (fits32 _ _ _ (by decide) (by omega))
theorem ffma (x : FormX) : Statement (.ffma x) := of_some rfl (fitsX _ x (by decide))
theorem imad (x : FormX) : Statement (.imad x) := of_some rfl (fitsX _ x (by decide))
theorem sel (x : FormX) : Statement (.sel x) := of_some rfl (fitsX _ x (by decide))
theorem hfma (x : FormX) : Statement (.hfma x) := of_some rfl (fitsX _ x (by decide))
theorem idp4 (x : FormX) : Statement (.idp4 x) := of_some rfl (fitsX _ x (by decide))
theorem iadd64 (x : FormX) : Statement (.iadd64 x) := of_some rfl (fitsX _ x (by decide))
theorem lea64 (x : FormX) : Statement (.lea64 x) := of_some rfl (fitsX _ x (by decide))
theorem iset64 (x : FormX) : Statement (.iset64 x) := of_some rfl (fitsX _ x (by decide))
theorem movx (x : FormI) : Statement (.movx x) := of_some rfl (fitsI _ x (by decide))
theorem wide (x : FormX) : Statement (.wide x) := of_some rfl (fitsX _ x (by decide))
theorem cvt (x : FormX) : Statement (.cvt x) := of_some rfl (fitsX _ x (by decide))
theorem qnt (x : FormX) : Statement (.qnt x) := of_some rfl (fitsX _ x (by decide))
theorem dqn (x : FormX) : Statement (.dqn x) := of_some rfl (fitsX _ x (by decide))
theorem amax (x : FormX) : Statement (.amax x) := of_some rfl (fitsX _ x (by decide))
theorem scof (x : FormX) : Statement (.scof x) := of_some rfl (fitsX _ x (by decide))
theorem rscl (x : FormX) : Statement (.rscl x) := of_some rfl (fitsX _ x (by decide))
theorem rhad (x : FormX) : Statement (.rhad x) := of_some rfl (fitsX _ x (by decide))
theorem rand (x : FormX) : Statement (.rand x) := of_some rfl (fitsX _ x (by decide))
theorem npack (x : FormX) : Statement (.npack x) := of_some rfl (fitsX _ x (by decide))
theorem nunpk (x : FormX) : Statement (.nunpk x) := of_some rfl (fitsX _ x (by decide))
theorem talloc (x : FormX) : Statement (.talloc x) := of_some rfl (fitsX _ x (by decide))
theorem tfree (x : FormX) : Statement (.tfree x) := of_some rfl (fitsX _ x (by decide))
theorem tstat (x : FormX) : Statement (.tstat x) := of_some rfl (fitsX _ x (by decide))
theorem twait (x : FormX) : Statement (.twait x) := of_some rfl (fitsX _ x (by decide))
theorem tld (x : FormX) : Statement (.tld x) := of_some rfl (fitsX _ x (by decide))
theorem tst (x : FormX) : Statement (.tst x) := of_some rfl (fitsX _ x (by decide))
theorem tfill (x : FormX) : Statement (.tfill x) := of_some rfl (fitsX _ x (by decide))
theorem tsetEmpty (x : FormX) : Statement (.tsetEmpty x) := of_op (x := x) rfl (by decide)
theorem tsetReady (x : FormX) : Statement (.tsetReady x) := of_op (x := x) rfl (by decide)
theorem cpyin (x : FormX) : Statement (.cpyin x) := of_some rfl (fitsX _ x (by decide))
theorem cpyout (x : FormX) : Statement (.cpyout x) := of_some rfl (fitsX _ x (by decide))
theorem cpytt (x : FormX) : Statement (.cpytt x) := of_some rfl (fitsX _ x (by decide))
theorem cpygg (x : FormX) : Statement (.cpygg x) := of_some rfl (fitsX _ x (by decide))
theorem stash (x : FormX) : Statement (.stash x) := of_some rfl (fitsX _ x (by decide))
theorem ld (x : FormX) : Statement (.ld x) := of_some rfl (fitsX _ x (by decide))
theorem st (x : FormX) : Statement (.st x) := of_some rfl (fitsX _ x (by decide))
theorem pst (x : FormX) : Statement (.pst x) := of_some rfl (fitsX _ x (by decide))
theorem pld (x : FormX) : Statement (.pld x) := of_some rfl (fitsX _ x (by decide))
theorem atom (x : FormX) : Statement (.atom x) := of_some rfl (fitsX _ x (by decide))
theorem atomcas (x : FormX) : Statement (.atomcas x) := of_some rfl (fitsX _ x (by decide))
theorem red (x : FormX) : Statement (.red x) := of_some rfl (fitsX _ x (by decide))
theorem tatom (x : FormX) : Statement (.tatom x) := of_some rfl (fitsX _ x (by decide))
theorem tred (x : FormX) : Statement (.tred x) := of_some rfl (fitsX _ x (by decide))
theorem waita (x : FormX) : Statement (.waita x) := of_some rfl (fitsX _ x (by decide))
theorem fence (x : FormX) : Statement (.fence x) := of_some rfl (fitsX _ x (by decide))
theorem qwait (x : FormX) : Statement (.qwait x) := of_some rfl (fitsX _ x (by decide))
theorem qread (x : FormX) : Statement (.qread x) := of_some rfl (fitsX _ x (by decide))
theorem qadv (x : FormX) : Statement (.qadv x) := of_some rfl (fitsX _ x (by decide))
theorem pref (x : FormX) : Statement (.pref x) := of_some rfl (fitsX _ x (by decide))
theorem cmaintWb (x : FormX) : Statement (.cmaintWb x) := of_op (x := x) rfl (by decide)
theorem cmaintWbinv (x : FormX) : Statement (.cmaintWbinv x) := of_op (x := x) rfl (by decide)
theorem cmaintMerge (x : FormX) : Statement (.cmaintMerge x) := of_op (x := x) rfl (by decide)
theorem cmaintZero (x : FormX) : Statement (.cmaintZero x) := of_op (x := x) rfl (by decide)
theorem jdecl (x : FormX) : Statement (.jdecl x) := of_some rfl (fitsX _ x (by decide))
theorem jfree (x : FormX) : Statement (.jfree x) := of_some rfl (fitsX _ x (by decide))
theorem mma (x : FormX) : Statement (.mma x) := of_some rfl (fitsX _ x (by decide))
theorem tacq (x : FormX) : Statement (.tacq x) := of_some rfl (fitsX _ x (by decide))
theorem trel (x : FormX) : Statement (.trel x) := of_some rfl (fitsX _ x (by decide))
theorem smxinit (x : FormX) : Statement (.smxinit x) := of_some rfl (fitsX _ x (by decide))
theorem smxupd (x : FormX) : Statement (.smxupd x) := of_some rfl (fitsX _ x (by decide))
theorem smxmrg (x : FormX) : Statement (.smxmrg x) := of_some rfl (fitsX _ x (by decide))
theorem smxfin (x : FormX) : Statement (.smxfin x) := of_some rfl (fitsX _ x (by decide))
theorem send (x : FormX) : Statement (.send x) := of_some rfl (fitsX _ x (by decide))
theorem rpost (x : FormX) : Statement (.rpost x) := of_some rfl (fitsX _ x (by decide))
theorem rcancel (x : FormX) : Statement (.rcancel x) := of_some rfl (fitsX _ x (by decide))
theorem rprobe (x : FormX) : Statement (.rprobe x) := of_some rfl (fitsX _ x (by decide))
theorem wpost (x : FormX) : Statement (.wpost x) := of_some rfl (fitsX _ x (by decide))
theorem rred (x : FormX) : Statement (.rred x) := of_some rfl (fitsX _ x (by decide))
theorem fstat (x : FormX) : Statement (.fstat x) := of_some rfl (fitsX _ x (by decide))
theorem resultWriteback (bid ti rid : Nat) : Statement (.resultWriteback bid ti rid) := of_none rfl
theorem warpExchange (die core part idx : Nat) : Statement (.warpExchange die core part idx) := of_none rfl
theorem warpQuantumExpire (die core part idx : Nat) : Statement (.warpQuantumExpire die core part idx) := of_none rfl
theorem waitaWake (bid ti : Nat) : Statement (.waitaWake bid ti) := of_none rfl
theorem waitaDeadline (bid ti : Nat) : Statement (.waitaDeadline bid ti) := of_none rfl
theorem watchFilterClear (slice : SliceRef) (bay : Nat) : Statement (.watchFilterClear slice bay) := of_none rfl
theorem idleTimeout (bid ti : Nat) : Statement (.idleTimeout bid ti) := of_none rfl
theorem churnMerge (line : Nat) : Statement (.churnMerge line) := of_none rfl
theorem mcArrival (cid dst : Nat) : Statement (.mcArrival cid dst) := of_none rfl
theorem landingAcceptAfterDrain (cid dst : Nat) : Statement (.landingAcceptAfterDrain cid dst) := of_none rfl
theorem copyComplete (cid : Nat) : Statement (.copyComplete cid) := of_none rfl
theorem matrixQueueEnter (die core : Nat) : Statement (.matrixQueueEnter die core) := of_none rfl
theorem matrixOpComplete (die core : Nat) : Statement (.matrixOpComplete die core) := of_none rfl
theorem flitReceive (port : Nat) (flit : RxFlit) : Statement (.flitReceive port flit) := of_none rfl
theorem laneRetrain (port lane : Nat) (trained : Bool) : Statement (.laneRetrain port lane trained) := of_none rfl
theorem packetDeliver (pkt : Packet) : Statement (.packetDeliver pkt) := of_none rfl
theorem dirInvalidate (line ep : Nat) : Statement (.dirInvalidate line ep) := of_none rfl
theorem reductionHop (win off round : Nat) (leaf : Option Nat) : Statement (.reductionHop win off round leaf) := of_none rfl
theorem finalHop (rid : Nat) : Statement (.finalHop rid) := of_none rfl
theorem counterAdvanceArrive (aid : Nat) : Statement (.counterAdvanceArrive aid) := of_none rfl
theorem workEntryFire (eid : Nat) : Statement (.workEntryFire eid) := of_none rfl
theorem workEntryDone (eid : Nat) : Statement (.workEntryDone eid) := of_none rfl
theorem msgArrive (mid : Nat) : Statement (.msgArrive mid) := of_none rfl
theorem msgRetry (mid : Nat) : Statement (.msgRetry mid) := of_none rfl
theorem rendezvousPull (mid : Nat) : Statement (.rendezvousPull mid) := of_none rfl
theorem receiveComplete (rid : Nat) : Statement (.receiveComplete rid) := of_none rfl
theorem sendComplete (mid : Nat) : Statement (.sendComplete mid) := of_none rfl
theorem rcancelAnswer (bid ti : Nat) : Statement (.rcancelAnswer bid ti) := of_none rfl
theorem graphFetch (die q : Nat) : Statement (.graphFetch die q) := of_none rfl
theorem graphResident (die q : Nat) : Statement (.graphResident die q) := of_none rfl
theorem nodeStart (die q node : Nat) : Statement (.nodeStart die q node) := of_none rfl
theorem nodeDone (die q node : Nat) : Statement (.nodeDone die q node) := of_none rfl
theorem graphEnd (die q : Nat) : Statement (.graphEnd die q) := of_none rfl
theorem clusterAdmit (launch : Nat) (pl : Placement) : Statement (.clusterAdmit launch pl) := of_none rfl
theorem blockEnd (bid : Nat) : Statement (.blockEnd bid) := of_none rfl
theorem launchEnd (launch : Nat) : Statement (.launchEnd launch) := of_none rfl
theorem spawnCrewForm (launch die : Nat) (entry : DWord) : Statement (.spawnCrewForm launch die entry) := of_none rfl
theorem spawnGatherTimeout (launch die : Nat) : Statement (.spawnGatherTimeout launch die) := of_none rfl
theorem blockSave (bid : Nat) (cause : SaveCause) : Statement (.blockSave bid cause) := of_none rfl
theorem saveSlotGrant (die : Nat) : Statement (.saveSlotGrant die) := of_none rfl
theorem blockRestore (bid : Nat) : Statement (.blockRestore bid) := of_none rfl
theorem watchdogExpire (ctx die : Nat) : Statement (.watchdogExpire ctx die) := of_none rfl
theorem handlerEntry (bid ti : Nat) : Statement (.handlerEntry bid ti) := of_none rfl
theorem lateFailureDelivery (bid ti : Nat) : Statement (.lateFailureDelivery bid ti) := of_none rfl
theorem reportWrite (ctx : Nat) : Statement (.reportWrite ctx) := of_none rfl
theorem repactResume (ctx idx : Nat) : Statement (.repactResume ctx idx) := of_none rfl
theorem repactAbandon (ctx idx : Nat) : Statement (.repactAbandon ctx idx) := of_none rfl
theorem ctxCreate (fn ctx : Nat) (job : Word) : Statement (.ctxCreate fn ctx job) := of_none rfl
theorem ctxDestroy (fn ctx : Nat) : Statement (.ctxDestroy fn ctx) := of_none rfl
theorem ctxSuspend (fn ctx : Nat) : Statement (.ctxSuspend fn ctx) := of_none rfl
theorem ctxResume (fn ctx : Nat) : Statement (.ctxResume fn ctx) := of_none rfl
theorem wake (fn : Nat) : Statement (.wake fn) := of_none rfl
theorem intstatClear (fn : Nat) (val : DWord) : Statement (.intstatClear fn val) := of_none rfl
theorem svcreqClear (fn : Nat) (val : DWord) : Statement (.svcreqClear fn val) := of_none rfl
theorem winvaWrite (fn : Nat) (val : DWord) : Statement (.winvaWrite fn val) := of_none rfl
theorem doorbell (fn die q : Nat) (tail : Word) : Statement (.doorbell fn die q tail) := of_none rfl
theorem queueDescWrite (fn die q : Nat) (desc : List Byte) : Statement (.queueDescWrite fn die q desc) := of_none rfl
theorem queueDisable (die q : Nat) : Statement (.queueDisable die q) := of_none rfl
theorem carveWrite (fn die : Nat) (w : ByteWrite) : Statement (.carveWrite fn die w) := of_none rfl
theorem islctlWrite (fn island : Nat) (val : DWord) : Statement (.islctlWrite fn island val) := of_none rfl
theorem onceclr (fn : Nat) (die : Option Nat) : Statement (.onceclr fn die) := of_none rfl
theorem ctlRegWrite (fn num : Nat) (die : Option Nat) (val : DWord) : Statement (.ctlRegWrite fn num die val) := of_none rfl
theorem apertureRead (fn off size : Nat) : Statement (.apertureRead fn off size) := of_none rfl
theorem apertureWrite (fn off size val : Nat) : Statement (.apertureWrite fn off size val) := of_none rfl
theorem readbackRead (rd : HostRead) : Statement (.readbackRead rd) := of_none rfl
theorem reset : Statement (.reset) := of_none rfl
theorem bootVerify : Statement .bootVerify := of_none rfl
theorem attestRequest (nonce : List Byte) : Statement (.attestRequest nonce) := of_none rfl
theorem attestComplete : Statement (.attestComplete) := of_none rfl
theorem ptpMessage (offset : Int) : Statement (.ptpMessage offset) := of_none rfl
theorem powerSample (coreAmps above15us : Nat) (avg : PowerAvg) (isl : IslandSample) : Statement (.powerSample coreAmps above15us avg isl) := of_none rfl
theorem clockStepDown (island : Nat) : Statement (.clockStepDown island) := of_none rfl
theorem clockStepUp (island : Nat) : Statement (.clockStepUp island) := of_none rfl
theorem thermalShutdown (island : Nat) : Statement (.thermalShutdown island) := of_none rfl
theorem scrub (line : Nat) (error : Option Bool) : Statement (.scrub line error) := of_none rfl
theorem coreFail (core : CoreRef) (logic : Bool) : Statement (.coreFail core logic) := of_none rfl
theorem spareEngage (die half : Nat) : Statement (.spareEngage die half) := of_none rfl
theorem hbmRowRemap (stack bank row : Nat) : Statement (.hbmRowRemap stack bank row) := of_none rfl
theorem channelFail (stack channel : Nat) : Statement (.channelFail stack channel) := of_none rfl
theorem functionReady (word : FnWord) : Statement (.functionReady word) := of_none rfl
theorem decodeTrap (fault : FetchFault) : Statement (.decodeTrap fault) := of_none rfl
theorem lineLanded (cid dst : Nat) (unit : Nat) : Statement (.lineLanded cid dst unit) := of_none rfl
theorem storeQueueDrain (bid wi : Nat) : Statement (.storeQueueDrain bid wi) := of_none rfl
theorem softError (site : ErrorSite) (corrected : Bool) : Statement (.softError site corrected) := of_none rfl
theorem junctionAbove105 (island : Nat) : Statement (.junctionAbove105 island) := of_none rfl

end Sys2Proof.Laws.WordFits
end

