-- ==== Sys2Proof/Laws/Run.lean ====
section
/-! SUPPORT. What an issuing instruction does to its threads: one lemma for each way in which a meaning runs over them. -/

namespace Sys2Proof.Machine

open Sys2Proof

/-- The issuing block stands in the state under its own identity. -/
theorem State.iss?_block {s : State} {i : Iss} (h : s.iss? = some i) : s.block? i.blk.bid = some i.blk := by
  unfold State.iss? at h
  cases hc : s.cur with
  | none => rw [hc] at h; simp at h
  | some r =>
    rw [hc] at h
    cases hb : s.block? r.bid with
    | none => simp only [hb] at h; simp at h
    | some b =>
      simp only [hb] at h
      split at h
      · have := Option.some.inj h
        subst this
        show s.block? b.bid = some b
        rw [State.block?_bid hb, hb]
      · simp at h

/-- The issuing context stands in the state under the block's context number. -/
theorem State.iss?_ctx {s : State} {i : Iss} (h : s.iss? = some i) : s.ctx? i.blk.ctx = some i.ctx := by
  unfold State.iss? at h
  split at h
  · simp at h
  · split at h
    · simp at h
    · split at h
      · rename_i hc
        have := Option.some.inj h
        subst this
        exact hc
      · simp at h

theorem State.withIss_some {s : State} {i : Iss} (h : s.iss? = some i) (f : Iss → State) : s.withIss f = f i := by
  unfold State.withIss
  rw [h]

theorem State.withIss_none {s : State} (h : s.iss? = none) (f : Iss → State) : s.withIss f = s := by
  unfold State.withIss
  rw [h]

theorem goes_iff {x : Sig} {tick : Nat} {i : Iss} {t : Thread} :
    goes x tick i t = true ↔ i.run.has t = true ∧ fateOf x tick i.blk t = .go := by
  simp [goes]

theorem Thread.settle_go (t : Thread) (x : Sig) (c : Context) : t.settle x c .go = t := rfl

/-- A run changes nothing but blocks. -/
theorem State.runLocal_frame (s : State) (x : Sig) (f : Iss → Thread → Thread) :
    s.runLocal x f = { s with blocks := (s.runLocal x f).blocks } := by
  unfold State.runLocal State.withIss
  split <;> rfl

theorem State.runLocal_others {s : State} {i : Iss} (h : s.iss? = some i) (x : Sig) (f : Iss → Thread → Thread) (n : Nat)
    (hn : n ≠ i.blk.bid) : (s.runLocal x f).block? n = s.block? n := by
  unfold State.runLocal
  rw [State.withIss_some h, State.block?_modBlock_ne _ _ _ _ _ hn]
  intro b; rfl

/-- What becomes of any thread of the issuing block. -/
theorem State.runLocal_thread {s : State} {i : Iss} (h : s.iss? = some i) (x : Sig) (f : Iss → Thread → Thread) (n : Nat) :
    (s.runLocal x f).thread? i.blk.bid n = (i.blk.threads[n]?).map (fun t =>
      if i.run.has t then
        (if fateOf x s.tick i.blk t = .go then f i t else t.settle x i.ctx (fateOf x s.tick i.blk t))
      else t) := by
  unfold State.runLocal State.thread?
  rw [State.withIss_some h, State.block?_modBlock (hf := by intro b; rfl), State.iss?_block h]
  simp

/-- A performing thread becomes what the instruction makes of it. -/
theorem State.runLocal_performs {s : State} {x : Sig} {i : Iss} {ti : Nat} {t : Thread} (h : Performs s x i ti t)
    (f : Iss → Thread → Thread) : (s.runLocal x f).thread? i.blk.bid ti = some (f i t) := by
  obtain ⟨hi, ht, hg⟩ := h
  rw [goes_iff] at hg
  rw [State.runLocal_thread hi, ht]
  simp [hg.1, hg.2]

/-- A thread outside the run stays as it was. -/
theorem State.runLocal_outside {s : State} {i : Iss} (h : s.iss? = some i) (x : Sig) (f : Iss → Thread → Thread) :
    OutsideRunSame (s.runLocal x f) i := by
  intro n u hu hr
  rw [State.runLocal_thread h, hu]
  simp [hr]

/-- The frame of a run over threads. -/
theorem State.runLocal_onlyBlock {s : State} {i : Iss} (h : s.iss? = some i) (x : Sig) (f : Iss → Thread → Thread) :
    OnlyBlock s (s.runLocal x f) i.blk.bid :=
  ⟨State.runLocal_frame s x f, fun n hn => State.runLocal_others h x f n hn⟩

/-- Changing the block once more stays within the frame. -/
theorem OnlyBlock.modBlock {s t : State} {bid : Nat} (h : OnlyBlock s t bid) (f : Block → Block) (hf : ∀ b, (f b).bid = b.bid) :
    OnlyBlock s (t.modBlock bid f) bid := by
  refine ⟨?_, fun n hn => ?_⟩
  · have e := h.1
    unfold State.modBlock
    rw [e]
  · rw [State.block?_modBlock_ne _ _ _ _ hf hn]
    exact h.2 n hn

theorem OnlyBlock.refl (s : State) (bid : Nat) : OnlyBlock s s bid := ⟨rfl, fun _ _ => rfl⟩

theorem OnlyBlock.trans {s t u : State} {bid : Nat} (h : OnlyBlock s t bid) (k : OnlyBlock t u bid) : OnlyBlock s u bid := by
  refine ⟨?_, fun n hn => (k.2 n hn).trans (h.2 n hn)⟩
  have e := h.1
  have e' := k.1
  rw [e] at e'
  exact e'

/-! ### Register instructions -/

/-- The writes of w registers touch no thread. -/
theorem State.runAlu_thread {s : State} {i : Iss} (h : s.iss? = some i) (x : Sig)
    (f : Iss → List Thread → Thread → List RegWrite) (n : Nat) :
    (s.runAlu x f).thread? i.blk.bid n =
      (s.runLocal x fun i t => t.effect x (f i (parts x s.tick i) t)).thread? i.blk.bid n := by
  unfold State.runAlu
  rw [State.withIss_some h]
  have e : (s.runLocal x fun j t => t.effect x (f j (parts x s.tick i) t)).thread? i.blk.bid n =
      (s.runLocal x fun j t => t.effect x (f j (parts x s.tick j) t)).thread? i.blk.bid n := by
    rw [State.runLocal_thread h, State.runLocal_thread h]
  rw [← e]
  cases parts x s.tick i with
  | nil => rfl
  | cons p ps =>
    simp only
    unfold State.thread?
    rw [State.block?_modBlock (hf := by intro b; rfl)]
    cases (s.runLocal x fun j t => t.effect x (f j (p :: ps) t)).block? i.blk.bid <;> rfl

/-- A performing thread of a register instruction takes its writes and goes on. -/
theorem State.runAlu_performs {s : State} {x : Sig} {i : Iss} {ti : Nat} {t : Thread} (h : Performs s x i ti t)
    (f : Iss → List Thread → Thread → List RegWrite) :
    (s.runAlu x f).thread? i.blk.bid ti = some (t.effect x (f i (parts x s.tick i) t)) := by
  rw [State.runAlu_thread h.1, State.runLocal_performs h]

theorem State.runAlu_outside {s : State} {i : Iss} (h : s.iss? = some i) (x : Sig)
    (f : Iss → List Thread → Thread → List RegWrite) : OutsideRunSame (s.runAlu x f) i := by
  intro n u hu hr
  rw [State.runAlu_thread h]
  exact State.runLocal_outside h x _ n u hu hr

theorem State.runAlu_onlyBlock {s : State} {i : Iss} (h : s.iss? = some i) (x : Sig)
    (f : Iss → List Thread → Thread → List RegWrite) : OnlyBlock s (s.runAlu x f) i.blk.bid := by
  unfold State.runAlu
  rw [State.withIss_some h]
  have hl := State.runLocal_onlyBlock h x (fun j t => t.effect x (f j (parts x s.tick i) t))
  generalize parts x s.tick i = q at hl ⊢
  cases q with
  | nil => exact hl
  | cons p ps =>
    refine OnlyBlock.modBlock hl _ ?_
    intro b
    rfl

/-- An instruction whose writes depend on a thread's own registers alone. -/
theorem State.runOwn_performs {s : State} {x : Sig} {i : Iss} {ti : Nat} {t : Thread} (h : Performs s x i ti t)
    (f : Rd → List RegWrite) : (s.runOwn x f).thread? i.blk.bid ti = some (t.effect x (f (t.rd i.warp.w))) :=
  State.runAlu_performs h _

/-! ### Instructions that act thread by thread -/

theorem State.settleRun_onlyBlock (s : State) (x : Sig) (i : Iss) : OnlyBlock s (s.settleRun x i) i.blk.bid :=
  by
  refine ⟨rfl, fun n hn => State.block?_modBlock_ne s i.blk.bid n _ ?_ hn⟩
  intro b
  rfl

theorem State.settleRun_thread {s : State} {i : Iss} (h : s.iss? = some i) (x : Sig) (n : Nat) :
    (s.settleRun x i).thread? i.blk.bid n = (i.blk.threads[n]?).map (fun t =>
      if i.run.has t then t.settle x i.ctx (fateOf x s.tick i.blk t) else t) := by
  unfold State.settleRun State.thread?
  rw [State.block?_modBlock (hf := by intro b; rfl), State.iss?_block h]
  simp

/-- A performing thread is as it was when its turn comes. -/
theorem State.settleRun_performs {s : State} {x : Sig} {i : Iss} {ti : Nat} {t : Thread} (h : Performs s x i ti t) :
    (s.settleRun x i).thread? i.blk.bid ti = some t := by
  obtain ⟨hi, ht, hg⟩ := h
  rw [goes_iff] at hg
  rw [State.settleRun_thread hi, ht]
  simp [hg.1, hg.2, Thread.settle_go]

/-- An instruction that one thread alone performs: its turn, once the rest of the run is settled. -/
theorem State.runFold_alone {s : State} {x : Sig} {i : Iss} {ti : Nat} {t : Thread} (h : Alone s x i ti t)
    (f : Iss → Nat → State → State) : s.runFold x f = f i ti (s.settleRun x i) := by
  obtain ⟨⟨hi, -, -⟩, hp, he⟩ := h
  unfold State.runFold
  rw [State.withIss_some hi, hp]
  simp [he]

/-- A run over threads that each keep the memory's canonical form keeps it. -/
theorem State.runFold_memOk {s : State} (x : Sig) (f : Iss → Nat → State → State)
    (hf : ∀ i ti s, s.memOk → (f i ti s).memOk) (h : s.memOk) : (s.runFold x f).memOk := by
  unfold State.runFold State.withIss
  split
  · exact State.foldl_memOk _ (fun s ti hs => hf _ ti s hs) _ h
  · exact h

theorem State.runLocal_memOk {s : State} (x : Sig) (f : Iss → Thread → Thread) (h : s.memOk) : (s.runLocal x f).memOk := by
  rw [State.runLocal_frame]; exact h

theorem State.runAlu_memOk {s : State} (x : Sig) (f : Iss → List Thread → Thread → List RegWrite) (h : s.memOk) :
    (s.runAlu x f).memOk := by
  unfold State.runAlu State.withIss
  split
  · rename_i i hi
    beta_reduce
    generalize parts x s.tick i = ps
    cases ps <;> exact State.runLocal_memOk x _ h
  · exact h

/-! ### Results -/

/-- The issuing block after a run over threads. -/
theorem State.runLocal_block {s : State} {i : Iss} (h : s.iss? = some i) (x : Sig) (f : Iss → Thread → Thread) :
    (s.runLocal x f).block? i.blk.bid = some { i.blk with threads := i.blk.threads.map (fun t =>
      if i.run.has t then
        (if fateOf x s.tick i.blk t = .go then f i t else t.settle x i.ctx (fateOf x s.tick i.blk t))
      else t) } := by
  unfold State.runLocal
  rw [State.withIss_some h, State.block?_modBlock (hf := by intro b; rfl), State.iss?_block h]
  rfl

/-- An instruction that runs over threads gives each performing thread its result, and leaves all else alone. -/
theorem Results.of_runLocal {ins : Instr} {x : Sig} {f : State → Iss → Thread → Thread} {g : State → Iss → Thread → Thread}
    (he : ∀ s, exec ins s = .next (s.runLocal x (g s)))
    (hf : ∀ s i ti t, Performs s x i ti t → g s i t = f s i t) : Results ins x f := by
  intro s i ti t h
  have hb := State.runLocal_block h.1 x (g s)
  have ht := State.runLocal_performs h (g s)
  refine ⟨s.runLocal x (g s), _, he s, State.runLocal_frame s x _, fun n hn => State.runLocal_others h.1 x _ n hn, hb, rfl, ?_, ?_⟩
  · unfold State.thread? at ht
    rw [hb] at ht
    rw [← hf s i ti t h]
    exact ht
  · intro n u hu hr
    have ho := State.runLocal_outside h.1 x (g s) n u hu hr
    unfold State.thread? at ho
    rw [hb] at ho
    exact ho

/-- Writes that name no w register leave a warp as it is. -/
theorem Warp.writes_none (w : Warp) (xs : List RegWrite) (h : ∀ x ∈ xs, ∀ n, x.dest ≠ .w n) : w.writes xs = w := by
  unfold Warp.writes
  induction xs generalizing w with
  | nil => rfl
  | cons x xs ih =>
    rw [List.foldl_cons]
    have hx := h x (by simp)
    have hs := fun y hy => h y (List.mem_cons_of_mem _ hy)
    cases hd : x.dest with
    | w n => exact absurd hd (hx n)
    | v n => exact ih _ hs
    | k n => exact ih _ hs
    | kb n b => exact ih _ hs
    | p n => exact ih _ hs

/-- The issuing block after a register instruction: its threads and, where a w register is written, its warp. -/
theorem State.runAlu_block {s : State} {x : Sig} {i : Iss} {p : Thread} {ps : List Thread} (h : s.iss? = some i)
    (hp : parts x s.tick i = p :: ps) (f : Iss → List Thread → Thread → List RegWrite) :
    (s.runAlu x f).block? i.blk.bid = some { i.blk with
      threads := i.blk.threads.map (fun t =>
        if i.run.has t then
          (if fateOf x s.tick i.blk t = .go then t.effect x (f i (p :: ps) t) else t.settle x i.ctx (fateOf x s.tick i.blk t))
        else t)
      warps := i.blk.warps.map (fun w =>
        if w.crew = i.warp.crew ∧ w.lane = i.warp.lane ∧ w.first = i.warp.first then w.writes (f i (p :: ps) p) else w) } := by
  unfold State.runAlu
  rw [State.withIss_some h, hp]
  have hb := State.runLocal_block h x (fun j t => t.effect x (f j (p :: ps) t))
  show (State.modBlock _ _ _).block? _ = _
  rw [State.block?_modBlock (hf := by intro b; rfl), hb]
  rfl

theorem parts_cons {s : State} {x : Sig} {i : Iss} {ti : Nat} {t : Thread} (h : Performs s x i ti t) :
    ∃ p ps, parts x s.tick i = p :: ps ∧ t ∈ p :: ps := by
  have hm : t ∈ parts x s.tick i := List.mem_filter.mpr ⟨List.mem_of_getElem? h.2.1, h.2.2⟩
  cases hp : parts x s.tick i with
  | nil => rw [hp] at hm; exact absurd hm (by simp)
  | cons p ps => exact ⟨p, ps, rfl, hp ▸ hm⟩

/-- A register instruction gives each performing thread its writes; the warp takes the w writes of the first. -/
theorem GivesW.of_runAlu {ins : Instr} {x : Sig} {r : State → Iss → Thread → Thread} {g : State → Iss → Thread → Warp → Warp}
    {s : State} {i : Iss} {ti : Nat} {t : Thread} (e : Iss → List Thread → Thread → List RegWrite)
    (h : Performs s x i ti t) (he : exec ins s = .next (s.runAlu x e))
    (hr : t.effect x (e i (parts x s.tick i) t) = r s i t)
    (hg : ∀ p, (parts x s.tick i).head? = some p → ∀ w : Warp,
      w.writes (e i (parts x s.tick i) p) = g s i p w) : GivesW ins x r g s i ti t := by
  obtain ⟨p, ps, hp, -⟩ := parts_cons h
  have hb := State.runAlu_block h.1 hp e
  have ht := State.runAlu_performs h e
  have hd : (parts x s.tick i).head? = some p := by rw [hp]; rfl
  have hw := hg p hd
  rw [hp] at hw
  refine ⟨s.runAlu x e, _, p, he, (State.runAlu_onlyBlock h.1 x _).1, (State.runAlu_onlyBlock h.1 x _).2, hb, hd, ?_, ?_, ?_⟩
  · simp only [hw]
  · unfold State.thread? at ht
    rw [hb] at ht
    rw [← hr]
    exact ht
  · intro n u hu hn
    have ho := State.runAlu_outside h.1 x e n u hu hn
    unfold State.thread? at ho
    rw [hb] at ho
    exact ho

theorem ResultsW.of_runAlu {ins : Instr} {x : Sig} {r : State → Iss → Thread → Thread} {g : State → Iss → Thread → Warp → Warp}
    (e : State → Iss → List Thread → Thread → List RegWrite)
    (he : ∀ s, exec ins s = .next (s.runAlu x (e s)))
    (hr : ∀ s i ti t, Performs s x i ti t → t.effect x (e s i (parts x s.tick i) t) = r s i t)
    (hg : ∀ s i ti t p, Performs s x i ti t → (parts x s.tick i).head? = some p → ∀ w : Warp,
      w.writes (e s i (parts x s.tick i) p) = g s i p w) : ResultsW ins x r g :=
  fun s i ti t h => GivesW.of_runAlu (e s) h (he s) (hr s i ti t h) (fun p hp => hg s i ti t p h hp)

/-- The issuing block's slots are those that its instruction names. -/
theorem State.slots_of_iss {s : State} {i : Iss} (h : s.iss? = some i) : s.slots = i.blk.slots := by
  unfold State.slots
  rw [h]
  rfl

/-- A register instruction whose writes name no w register. -/
theorem Results.of_runAlu {ins : Instr} {x : Sig} {r : State → Iss → Thread → Thread}
    (e : State → Iss → List Thread → Thread → List RegWrite)
    (he : ∀ s, exec ins s = .next (s.runAlu x (e s)))
    (hr : ∀ s i ti t, Performs s x i ti t → t.effect x (e s i (parts x s.tick i) t) = r s i t)
    (hw : ∀ s i ti t, Performs s x i ti t → ∀ p, ∀ y ∈ e s i (parts x s.tick i) p, ∀ n, y.dest ≠ .w n) :
    Results ins x r := by
  intro s i ti t h
  obtain ⟨p, ps, hp, -⟩ := parts_cons h
  have hb := State.runAlu_block h.1 hp (e s)
  have ht := State.runAlu_performs h (e s)
  have hn := hw s i ti t h p
  rw [hp] at hn
  refine ⟨s.runAlu x (e s), _, he s, (State.runAlu_onlyBlock h.1 x _).1, (State.runAlu_onlyBlock h.1 x _).2, hb, ?_, ?_, ?_⟩
  · simp only [fun w => Warp.writes_none w _ hn, ite_self, List.map_id']
  · unfold State.thread? at ht
    rw [hb] at ht
    rw [← hr s i ti t h]
    exact ht
  · intro n u hu ho
    have ho := State.runAlu_outside h.1 x (e s) n u hu ho
    unfold State.thread? at ho
    rw [hb] at ho
    exact ho

/-! ### Register writes -/

theorem destOf_v {n : Nat} (h : n < 128) : destOf n = some (.v n) := by
  unfold destOf
  simp [h]

theorem wr_v {n : Nat} (h : n < 128) (x : Word) : wr n x = [vWrite n x] := by
  unfold wr
  rw [destOf_v h]
  rfl

theorem wr_none (x : Word) : wr 0xFF x = [] := rfl

theorem readSpec_v (w : List Word) (t : Thread) {n : Nat} (h : n < 128) : readSpec w t n = t.reg n := by
  unfold readSpec Thread.reg
  simp [h]

theorem Thread.writes_v (t : Thread) (n : Nat) (x : Word) : t.writes [vWrite n x] = t.setV n x := rfl

theorem Thread.writes_pred (t : Thread) (n : Nat) (b : Bool) : t.writes (wrPred n b) = t.setP n b := by
  unfold wrPred Thread.setP
  by_cases h : n = 7
  · simp [h, Thread.writes]
  · cases b <;> simp [h, Thread.writes, Thread.write1]

/-- A register instruction that writes one v register at once. -/
theorem Results.of_v {ins : Instr} {x : Sig} {r : State → Iss → Thread → Thread} {d : Nat} (hd : d < 128)
    (hx : x.vclass = false) (e : State → Iss → List Thread → Thread → Word)
    (he : ∀ s, exec ins s = .next (s.runAlu x (fun i ps t => wr d (e s i ps t))))
    (hr : ∀ s i ti t, Performs s x i ti t →
      (t.setV d (e s i (parts x s.tick i) t)).advance x.sw x.len = r s i t) : Results ins x r := by
  refine Results.of_runAlu (fun s i ps t => wr d (e s i ps t)) he ?_ ?_
  · intro s i ti t h
    rw [← hr s i ti t h]
    simp [Thread.effect, hx, wr_v hd, Thread.writes_v]
  · intro s i ti t _ p y hy n
    rw [wr_v hd] at hy
    have : y = vWrite d (e s i (parts x s.tick i) p) := by simpa using hy
    subst this
    simp [vWrite]

/-- A register instruction that writes one predicate at once. -/
theorem Results.of_p {ins : Instr} {x : Sig} {r : State → Iss → Thread → Thread} {d : Nat}
    (hx : x.vclass = false) (e : State → Iss → List Thread → Thread → Bool)
    (he : ∀ s, exec ins s = .next (s.runAlu x (fun i ps t => wrPred d (e s i ps t))))
    (hr : ∀ s i ti t, Performs s x i ti t →
      (t.setP d (e s i (parts x s.tick i) t)).advance x.sw x.len = r s i t) : Results ins x r := by
  refine Results.of_runAlu (fun s i ps t => wrPred d (e s i ps t)) he ?_ ?_
  · intro s i ti t h
    rw [← hr s i ti t h]
    simp [Thread.effect, hx, Thread.writes_pred]
  · intro s i ti t _ p y hy n
    unfold wrPred at hy
    split at hy
    · simp at hy
    · have : y = { dest := .p d, val := if e s i (parts x s.tick i) p then 1 else 0 } := by simpa using hy
      subst this
      simp

/-- A register instruction that owes one v register. -/
theorem Results.of_owes {ins : Instr} {x : Sig} {r : State → Iss → Thread → Thread} {d : Nat} (hd : d < 128)
    (hx : x.vclass = true) (e : State → Iss → List Thread → Thread → Word)
    (he : ∀ s, exec ins s = .next (s.runAlu x (fun i ps t => wr d (e s i ps t))))
    (hr : ∀ s i ti t, Performs s x i ti t →
      (t.owes [.v d] [vWrite d (e s i (parts x s.tick i) t)]).advance x.sw x.len = r s i t) : Results ins x r := by
  refine Results.of_runAlu (fun s i ps t => wr d (e s i ps t)) he ?_ ?_
  · intro s i ti t h
    rw [← hr s i ti t h]
    simp [Thread.effect, hx, wr_v hd, Thread.addResult, Thread.keepResult, Thread.owes, vWrite, Dest.name]
  · intro s i ti t _ p y hy n
    rw [wr_v hd] at hy
    have : y = vWrite d (e s i (parts x s.tick i) p) := by simpa using hy
    subst this
    simp [vWrite]

/-! ### Registers by specifier -/

theorem Thread.write_wr (t : Thread) (n : Nat) (x : Word) : t.writes (wr n x) = t.put n x := by
  unfold wr destOf Thread.put
  by_cases h1 : n < 128
  · simp [h1, Thread.writes, Thread.write1, Thread.setV]
  · by_cases h2 : n < 192
    · have : ¬ (192 ≤ n ∧ n < 208) := by omega
      simp [h1, h2, this, Thread.writes, Thread.write1]
    · by_cases h3 : n < 208
      · have h4 : 192 ≤ n := by omega
        simp [h1, h2, h3, h4, Thread.writes, Thread.write1]
      · simp [h1, h2, h3, Thread.writes]

theorem Thread.writes_append (t : Thread) (xs ys : List RegWrite) : t.writes (xs ++ ys) = (t.writes xs).writes ys := by
  simp [Thread.writes, List.foldl_append]

theorem Thread.write_wrs (t : Thread) (n : Nat) (xs : List Word) : t.writes (wrs n xs) = t.puts n xs := by
  induction xs generalizing t n with
  | nil => rfl
  | cons x xs ih =>
    unfold wrs Thread.puts
    split
    · rfl
    · rw [Thread.writes_append, Thread.write_wr, ih]

theorem Warp.write_wr (w : Warp) (n : Nat) (x : Word) : w.writes (wr n x) = w.put n x := by
  unfold wr destOf Warp.put
  by_cases h1 : n < 128
  · have : ¬ (128 ≤ n ∧ n < 192) := by omega
    simp [h1, this, Warp.writes]
  · by_cases h2 : n < 192
    · have h4 : 128 ≤ n := by omega
      simp [h1, h2, h4, Warp.writes]
    · by_cases h3 : n < 208
      · simp [h1, h2, h3, Warp.writes]
      · simp [h1, h2, h3, Warp.writes]

theorem Warp.writes_append (w : Warp) (xs ys : List RegWrite) : w.writes (xs ++ ys) = (w.writes xs).writes ys := by
  simp [Warp.writes, List.foldl_append]

theorem Warp.write_wrs (w : Warp) (n : Nat) (xs : List Word) : w.writes (wrs n xs) = w.puts n xs := by
  induction xs generalizing w n with
  | nil => rfl
  | cons x xs ih =>
    unfold wrs Warp.puts
    split
    · rfl
    · rw [Warp.writes_append, Warp.write_wr, ih]

/-- A register instruction of 8 bytes that writes consecutive registers at once. -/
theorem Writes.of_wrs {ins : Instr} {x : Sig} {sw : Bool} {d : Nat} {v : State → Iss → Thread → List Word}
    (hx : x.vclass = false) (hs : x.sw = sw) (hl : x.len = 8)
    (e : State → Iss → List Thread → Thread → List Word)
    (he : ∀ s, exec ins s = .next (s.runAlu x (fun i ps t => wrs d (e s i ps t))))
    (hv : ∀ s i t, e s i (parts x s.tick i) t = v s i t) : Writes ins x sw d v := by
  refine ResultsW.of_runAlu (fun s i ps t => wrs d (e s i ps t)) he ?_ ?_
  · intro s i ti t _
    simp [Thread.effect, hx, hs, hl, Thread.write_wrs, hv]
  · intro s i ti t p _ _ w
    rw [Warp.write_wrs, hv]

/-- One register is a list of one. -/
theorem wr_eq_wrs (n : Nat) (x : Word) : wr n x = wrs n [x] := by
  unfold wrs
  by_cases h : n = 0xFF
  · subst h; rfl
  · simp [h, wrs]

theorem wrPair_eq_wrs (n : Nat) (x : DWord) : wrPair n x = wrs n (words2 x) := rfl

end Sys2Proof.Machine
end

