-- ==== Sys2Proof/Tests/Slice0.lean ====
section
/-! SUPPORT. Tests: words of the manual decode to their instructions, the values of its worked examples, a refused term
for each well-formedness check, and for every statement with hypotheses a state and operands that meet them. -/

namespace Sys2Proof.Tests

open Sys2Proof Sys2Proof.Machine

set_option maxRecDepth 100000

/-! ### Instructions by their fields -/

def fa (m b a d : Nat) : FormA := { sw := false, m := .ofNat 4 m, b := .ofNat 6 b, a := .ofNat 6 a, d := .ofNat 6 d }
def fu (m a d : Nat) : FormU := { sw := false, m := .ofNat 4 m, a := .ofNat 6 a, d := .ofNat 6 d }
def fb (imm a d : Nat) : FormB := { sw := false, imm := .ofNat 10 imm, a := .ofNat 6 a, d := .ofNat 6 d }
def fc (imm d : Nat) : FormC := { sw := false, imm := .ofNat 16 imm, d := .ofNat 6 d }
def fi (kind a d imm : Nat) : FormI :=
  { sw := false, g := 7, ng := false, d := .ofNat 8 d, a := .ofNat 8 a, kind := .ofNat 2 kind, imm := .ofNat 32 imm }

/-- An X64 instruction without a guard, its modifier as (low bit, value) pairs. -/
def fx (d a b c : Nat) (fs : List (Nat × Nat) := []) : FormX :=
  { sw := false, g := 7, ng := false, d := .ofNat 8 d, a := .ofNat 8 a, b := .ofNat 8 b, c := .ofNat 8 c,
    m := .ofNat 18 ((fs.map (fun (lo, v) => v * 2 ^ (lo - 46))).sum) }

/-! ### Decoding (R32 to R46): words written out from the manual's encodings -/

/-- R35: pattern 0x3104 is `c16 add v4, v6`. -/
theorem test_decode_c16 : decodeTableWord 16 0x3104 = some (.c16Add false 4 6) ∧
    decodeTableWord 16 0xF8EC = some (.c16Movi false 3 31) := by decide
theorem test_decode_iadd : decodeTableWord 32 0x01851101 = some (.iadd (fa 0 6 5 4)) := by decide
/-- R74: `bra` by three halfwords. -/
theorem test_decode_bra : decodeTableWord 32 0x00000C09 = some (.bra false 3) := by decide
theorem test_decode_ctrl : decodeTableWord 32 0x20000021 = some (.ctrlExit false) ∧
    decodeTableWord 32 0x10000021 = some (.ctrlRet false) := by decide
/-- R96: `iset.lt.i p2, v7, v9`. -/
theorem test_decode_iset : decodeTableWord 32 0x22470931 = some (.iset (fa 2 9 7 2)) := by decide
/-- R97: `shifti.sar v6, v7, 3`. -/
theorem test_decode_shifti : decodeTableWord 32 0x10C71959 = some (.shifti false 2 3 7 6) := by decide
theorem test_decode_movs : decodeTableWord 32 0x04001091 = some (.movs false 16 4) := by decide
theorem test_decode_movf : decodeTableWord 32 0x02801A81 = some (.movf false true 2 6) := by decide
/-- R199: `st32 [v4:v5+12], v9`. -/
theorem test_decode_st32 : decodeTableWord 32 0x00C42651 = some (.st32 (fb 3 4 9)) := by decide
theorem test_decode_system : decodeTableWord 32 0x00801B89 = some (.ctlrd false 2 6) ∧
    decodeTableWord 32 0x00000381 = some (.eret false) ∧ decodeTableWord 32 0x000003A1 = some (.idle false) := by decide
theorem test_decode_pginv : decodeTableWord 32 0x00040399 = some (.pginvPage false 4) ∧
    decodeTableWord 32 0x10000399 = some (.pginvContext false) := by decide
/-- R40: `movx v9, 0x3F800000`. -/
theorem test_decode_movx : decodeTableWord 64 0x3F8000003FC25C4B = some (.movx (fi 0 0xFF 9 0x3F800000)) := by decide
/-- R40: `(!p2) movx v5, 7`. -/
theorem test_decode_guard : decodeTableWord 64 0x000000073FC1684B =
    some (.movx { fi 0 0xFF 5 7 with g := 2, ng := true }) := by decide
theorem test_decode_ffma : decodeTableWord 64 0x000001C181411C0B = some (.ffma (fx 4 5 6 7)) := by decide
/-- R101: `lea64.zx v4:v5, v8:v9, v12, 3`. -/
theorem test_decode_lea64 : decodeTableWord 64 0x0008FFC302011C3B =
    some (.lea64 (fx 4 8 12 0xFF [(46, 3), (50, 2)])) := by decide
theorem test_decode_wide : decodeTableWord 64 0x00083FE060201C53 =
    some (.wide (fx 0x80 0x80 0x81 0xFF [(46, 0x20)])) := by decide
theorem test_decode_cvt : decodeTableWord 64 0x00807FFFC2019C83 =
    some (.cvt (fx 6 8 0xFF 0xFF [(46, 1), (54, 2)])) := by decide
theorem test_decode_talloc : decodeTableWord 64 0x00007FFFC1809D03 =
    some (.talloc (fx 2 6 0xFF 0xFF [(46, 1)])) := by decide
theorem test_decode_cpyin : decodeTableWord 64 0x00003FC201008543 =
    some (.cpyin { fx 2 4 8 0xFF with g := 1 }) := by decide
/-- R196: `ld.b64.acq.clus v4:v5, [v8:v9+16]`. -/
theorem test_decode_ld : decodeTableWord 64 0x02643FFFC2011D83 =
    some (.ld (fx 4 8 0xFF 0xFF [(50, 1), (53, 3), (56, 2)])) := by decide
/-- R204: `red.add.far.die [v8:v9], v7`. -/
theorem test_decode_red : decodeTableWord 64 0x00027FC1C23FDDB3 =
    some (.red (fx 0xFF 8 7 0xFF [(46, 1), (49, 1)])) := by decide
/-- R215: `fence.sc.dom`. -/
theorem test_decode_fence : decodeTableWord 64 0x0003FFFFFFFFDDD3 =
    some (.fence (fx 0xFF 0xFF 0xFF 0xFF [(46, 3), (48, 3)])) := by decide
/-- R226: `jdecl j1, 0b0011, 64`; R232: `mma.m64.n64 t3, v32, v48, k0, j1, f0, f1`; R237: `trel t3`. -/
theorem test_decode_matrix : decodeTableWord 64 0x13003FFFFFFFDE43 =
      some (.jdecl (fx 0xFF 0xFF 0xFF 0xFF [(56, 3), (60, 1)])) ∧
    decodeTableWord 64 0x1004300C0800DE53 = some (.mma (fx 3 32 48 0xC0 [(50, 1), (60, 1)])) ∧
    decodeTableWord 64 0x00003FFFFFC0DE63 = some (.trel (fx 3 0xFF 0xFF 0xFF)) := by decide
/-- R243: `smxupd.rows t4, t3, t5, v6:v7, f2`. -/
theorem test_decode_smxupd : decodeTableWord 64 0x9000018140C11E73 =
    some (.smxupd (fx 4 3 5 6 [(59, 2), (62, 2)])) := by decide
/-- R268: `rred.once [v4:v5], v16:v23, v8:v9, n17, f3`; R274: `send v10, [v4:v5], v6, v7, q2`. -/
theorem test_decode_fabric : decodeTableWord 64 0x808CC23FC1041EEB =
      some (.rred (fx 16 4 0xFF 8 [(46, 3), (50, 1), (51, 17), (63, 1)])) ∧
    decodeTableWord 64 0x001001C181029EC3 = some (.send (fx 10 4 6 7 [(51, 2)])) := by decide

/-- R174: `tld.n8 v4, t3, v8, k1.b2`; R175: `tst.n8 t3, v4, v8, k1.b2`. -/
theorem test_decode_tld_tst : decodeTableWord 64 0x0004F04200C11D23 =
      some (.tld (fx 4 3 8 0xC1 [(46, 3), (49, 2)])) ∧
    decodeTableWord 64 0x0004F0420100DD2B = some (.tst (fx 3 4 8 0xC1 [(46, 3), (49, 2)])) := by decide

/-! ### Well-formed terms (R47): one refused term for each check -/

theorem test_illformed_major : illFormed (.wide (fx 4 5 6 0xFF [(46, 0x7F)])) = some 1 := by decide
theorem test_illformed_minor : illFormed (.iadd (fa 6 1 2 3)) = some 2 := by decide
theorem test_illformed_reserved : illFormed (.ffma (fx 4 5 6 7 [(63, 1)])) = some 3 := by decide
theorem test_illformed_specifier : illFormed (.ffma (fx 4 0xD0 6 7)) = some 4 := by decide
theorem test_illformed_alignment : illFormed (.iadd64 (fx 4 5 6 0xFF)) = some 5 := by decide
theorem test_illformed_uniform : illFormed (.ffma (fx 0x80 0x81 6 0x82)) = some 6 := by decide
theorem test_illformed_guard : illFormed (.ffma { fx 4 5 6 7 with ng := true }) = some 7 := by decide
theorem test_wellformed : WellFormed (.iadd (fa 5 1 2 3)) ∧ WellFormed (.ffma (fx 0x80 0x81 0x82 0x83)) := by decide

/-! ### States -/

/-- A context whose one table entry maps every address to itself with the given leaf bits, a block of one crew of 8
threads, and the run of its first thread. -/
def world (leaf : Nat) (f : Block → Block) : State :=
  let s := placeWord State.reset []
  { s with
    mem := s.mem.setBytes 0x4000 (toBytes 8 leaf)
    blocks := [f (placeBlock 0)]
    cur := some { bid := 0, crew := 0, lane := 0, first := 0, pos := [0], addr := 0x6000 } }

/-- Every page readable, writable and executable. -/
def base : State := world 0x1F id

/-- The block with its first thread changed. -/
def first (f : Thread → Thread) (b : Block) : Block := { b with threads := modAt b.threads 0 f }

/-- The world with the first thread changed. -/
def withT (f : Thread → Thread) : State := world 0x1F (first f)

/-- A thread with the given v registers written. -/
def vs (xs : List (Nat × Nat)) (t : Thread) : Thread := { t with v := xs.foldl (fun v (n, x) => setAt v n (BitVec.ofNat 32 x)) t.v }

/-- The state after one outcome; one that stops leaves what was. -/
def nextOr (s : State) (o : Host.Outcome State Fault Refusal) : State :=
  match o with
  | .next t => t
  | _ => s

/-- The first thread of the placed block after one instruction. -/
def after (i : Instr) (s : State) : Option Thread := (nextOr s (exec i s)).thread? 0 0

/-- Its v registers after one instruction. -/
def vAfter (i : Instr) (s : State) (n : Nat) : Option Word := (after i s).bind (fun t => t.v[n]?)

/-! ### Values of the manual's worked examples -/

/-- R98: a = 0x12345678 and b = 0x0C1C. -/
theorem test_bfx : vAfter (.bfx (fa 1 5 4 6)) (withT (vs [(4, 0x12345678), (5, 0x0C1C)])) 6 = some 1 := by decide
theorem test_bfi : vAfter (.bfi false 5 4 6) (withT (vs [(4, 0x12345678), (5, 0x0C1C)])) 6 = some 0x80000000 := by decide
/-- R101: `lea64.zx v4:v5, v8:v9, v12, 3` carries into the high word. -/
theorem test_lea64 :
    let s := withT (vs [(8, 0xFFFFFFF8), (9, 1), (12, 2)])
    let i := Instr.lea64 (fx 4 8 12 0xFF [(46, 3), (50, 2)])
    vAfter i s 4 = some 8 ∧ vAfter i s 5 = some 2 := by decide
/-- R109: BF16 halves 1.0 and 2.0 times 0.5 and 0.5, plus −0 and +0. -/
theorem test_hfma : vAfter (.hfma (fx 4 5 6 7)) (withT (vs [(5, 0x40003F80), (6, 0x3F003F00), (7, 0x00008000)])) 4 =
    some 0x3F803F00 := by decide
/-- R107: 0xFFFFFFFF under `cvtif.n32` is 2^32, and −0.4 under `cvtfi.rn.n32` is 0. -/
theorem test_cvt_integers : vAfter (.cvtif (fu 1 4 5)) (withT (vs [(4, 0xFFFFFFFF)])) 5 = some 0x4F800000 ∧
    vAfter (.cvtfi (fu 2 4 5)) (withT (vs [(4, 0xBECCCCCD)])) 5 = some 0 := by decide
/-- R48: the slot that `.slot f2, mxfp4, sr, sat, stream=7` emits, read by `movf`. -/
theorem test_movf :
    let s := world 0x1F (fun b => { b with slots := setAt b.slots 2 0x70194 })
    vAfter (.movf false false 2 6) s 6 = some 0x70194 ∧ vAfter (.movf false true 2 6) s 6 = some 0 := by decide
/-- R94: `iadd.adds` saturates. -/
theorem test_iadd_saturates : vAfter (.iadd (fa 2 5 4 6)) (withT (vs [(4, 0x7FFFFFFF), (5, 1)])) 6 = some 0x7FFFFFFF := by decide
/-- R99: the quotient of the most negative word by −1 wraps, a zero divisor gives all ones; the result arrives later (R50). -/
theorem test_idiv :
    ((after (.idiv (fa 0 5 4 6)) (withT (vs [(4, 0x80000000), (5, 0xFFFFFFFF)]))).map (fun t => t.results.map (fun r => r.writes))) =
      some [[{ dest := .v 6, val := 0x80000000 }]] ∧
    ((after (.idiv (fa 0 5 4 6)) (withT (vs [(4, 7)]))).map (fun t => t.results.map (fun r => r.writes))) =
      some [[{ dest := .v 6, val := 0xFFFFFFFF }]] := by decide
/-- R307: a trap of a thread whose context has a handler saves the cause and the addresses, and enters the handler. -/
theorem test_trap :
    let s := base.modCtx 0 (fun c => { c with handler := 0x8000 })
    (after (.trap false 0xBEEF) s).map (fun t => (t.tcause, t.tpc, t.epc, t.pc, t.priv)) =
      some (0xBEEF0014, 0x6000, 0x6004, 0x8000, true) := by decide
/-- R314: `eret` returns to `$epc` without privilege. -/
theorem test_eret : (after (.eret false) (withT (fun t => { t with priv := true, epc := 0x7000 }))).map (fun t => (t.pc, t.priv)) =
    some (0x7000, false) := by decide
/-- R197, R199, R213: a store is seen by its own thread's load before it is performed, and memory still reads zero. -/
theorem test_store_load :
    let s := withT (vs [(4, 0x9000), (9, 0x11223344)])
    let s1 := nextOr s (exec (.st32 (fb 3 4 9)) s)
    s1.mem.byte 0x900C = 0 ∧
      (after (.ld32 (fb 3 4 10)) { s1 with cur := s1.cur.map (fun r => { r with addr := 0x6004 }) }).map
        (fun u => u.results.map (fun r => r.writes)) = some [[{ dest := .v 10, val := 0x11223344 }]] := by decide
/-- R47: the word placed at the fetch address is fetched, decoded and run by one step. -/
theorem test_step :
    let s := State.reset.withFetchWord 32 0x01851101
    ((nextOr s (step s)).thread? 1 0).map (fun u => u.pc) = some 0x6004 := by decide

/-! ### Witnesses: states and operands that meet the statements' hypotheses -/

/-- Whether the first thread of the issuing block alone performs an instruction, and `e` holds of it. -/
def meets (s : State) (x : Sig) (e : Iss → Thread → Bool) : Bool :=
  match s.iss? with
  | some i => match i.blk.threads[0]? with
    | some t => goes x s.tick i t && decide (parts x s.tick i = [t]) && i.blk.tindex t == 0 && e i t
    | none => false
  | none => false

/-- The first thread performs an instruction alone, and `e` holds of it. -/
abbrev Shows (s : State) (x : Sig) (e : Iss → Thread → Bool) : Prop := ∃ i t, Alone s x i 0 t ∧ e i t = true

theorem shows_of_meets {s : State} {x : Sig} {e : Iss → Thread → Bool} (h : meets s x e = true) : Shows s x e := by
  unfold meets at h
  split at h
  · next i hi =>
    split at h
    · next t ht =>
      simp only [Bool.and_eq_true, decide_eq_true_eq, beq_iff_eq] at h
      exact ⟨i, t, ⟨⟨hi, ht, h.1.1.1⟩, h.1.1.2, h.1.2⟩, h.2⟩
    · cases h
  · cases h

/-- Nothing more is asked of the thread. -/
def yes (_ : Iss) (_ : Thread) : Bool := true

/-- The same for each signature of a list. -/
theorem shows_each {s : State} {xs : List Sig} (h : xs.all (fun x => meets s x yes) = true) : ∀ x ∈ xs, Shows s x yes :=
  fun x hx => shows_of_meets (List.all_eq_true.mp h x hx)

/-- The first thread is in the run, and `e` holds of it, whatever its fate. -/
def inRun (s : State) (e : Iss → Thread → Bool) : Bool :=
  match s.iss? with
  | some i => match i.blk.threads[0]? with
    | some t => i.run.has t && e i t
    | none => false
  | none => false

abbrev InRun (s : State) (e : Iss → Thread → Bool) : Prop :=
  ∃ i t, s.iss? = some i ∧ i.blk.threads[0]? = some t ∧ i.run.has t = true ∧ e i t = true

theorem inRun_of {s : State} {e : Iss → Thread → Bool} (h : inRun s e = true) : InRun s e := by
  unfold inRun at h
  split at h
  · next i hi =>
    split at h
    · next t ht =>
      simp only [Bool.and_eq_true] at h
      exact ⟨i, t, hi, ht, h.1, h.2⟩
    · cases h
  · cases h

/-- A privileged thread. -/
def priv : State := withT (fun t => { t with priv := true })

/-- A world whose format slot 0 holds a format code. -/
def slotW (fmt : Nat) : State := world 0x1F (fun b => { b with slots := setAt b.slots 0 (BitVec.ofNat 64 fmt) })

theorem witness_DecodingGivesBackEveryEncodedInstruction :
    encode (.iadd (fa 5 63 63 63)) = some (32, 0x5FFFFD01) ∧ decodeWord 0x5FFFFD01 = .inr (.iadd (fa 5 63 63 63)) := by decide

theorem witness_CompressedPatternsAndEmptyMajors :
    (0xFFFE % 2 = 0) ∧ cut 0x6F9 3 7 = 0x5F ∧ 0x6F9 % 4 = 1 ∧ cut 0x2FB 3 7 = 0x5F ∧ 0x2FB % 4 = 3 := by decide

theorem witness_AStepRunsTheDecodedInstruction :
    let s := State.reset.withFetchWord 32 0x01851101
    s.plat.stopped = false ∧ s.agenda = [.issue 0 0 0 0] ∧
      ((s.popTurn.elapse.nextRun 0 0 0 0).bind (fun (_, b, run) => (s.ctx? b.ctx).map (fun c =>
        (run.addr.toNat % 2, fetchHalves (s.popTurn.elapse.takeRun run) c b.site run.addr 1,
          fetchHalves (s.popTurn.elapse.takeRun run) c b.site run.addr 2)))) = some (0, .inr 0x1101, .inr 0x01851101) ∧
      lenOf 0x1101 = 4 ∧ decodeWord 0x01851101 = .inr (.iadd (fa 0 6 5 4)) := by decide

theorem witness_AStepTakesTheNamedEvent :
    (let s := { State.reset with agenda := [.event (.wake 0)] }; s.plat.stopped = false ∧ s.agenda = [.event (.wake 0)]) ∧
    (let s := State.reset.modPlat (fun p => { p with stopped := true }); s.plat.stopped = true ∧ s.agenda = []) ∧
    Instr.wake 0 ≠ .reset ∧ (∀ off, Instr.wake 0 ≠ .readbackRead off) := by
  refine ⟨by decide, by decide, by decide, fun off h => by cases h⟩

theorem witness_EveryStepKeepsTheFormOfMemory : base.memOk ∧ base.shapeOk ∧ (nextOr base (step base)).tick = base.tick + 1 :=
  ⟨by unfold State.memOk; decide, by unfold State.shapeOk; decide, by decide⟩

theorem witness_CompressedInstructionsGiveTheirResults : ∀ x ∈
    [mov16Sig false 31 31, moviSig 2 false 31, (addi16 false 0 31).theSig] ++
      ([(0x20, 0), (0x20, 1), (0x21, 0), (0x23, 0), (0x23, 1), (0x23, 2), (0x24, 0), (0x24, 1), (0x24, 2), (0x38, 0), (0x39, 0),
        (0x38, 3), (0x38, 2)].map (fun (mj, mn) => (Gen.ofC16 mj mn false 0 31).theSig)), Shows base x yes := shows_each (by decide)

theorem witness_RegisterIntegerOperationsGiveTheirResults : ∀ x ∈
    [(0x20, 5), (0x21, 3), (0x22, 3), (0x23, 5), (0x24, 4), (0x2E, 15)].map (fun (mj, m) => (Gen.ofA mj (fa m 63 0 63)).theSig),
    Shows base x yes := shows_each (by decide)

theorem witness_UnaryIntegerOperationsGiveTheirResults :
    (∀ x ∈ [0, 9].map (fun m => (Gen.ofU 0x25 (fu m 63 0)).theSig), Shows base x yes) ∧
    (let w := 0x9FC00129
     w % 4 = 1 ∧ cut w 3 7 = 0x25 ∧ cut w 28 4 < 10 ∧ cut w 22 6 ≠ 0) := ⟨shows_each (by decide), by decide⟩

theorem witness_ImmediatesAndBitFieldsGiveTheirResults :
    (∀ x ∈ [(Gen.ofB 0x27 (fb 1023 1 63)).theSig, (Gen.ofB 0x28 (fb 0 1 63)).theSig, (Gen.ofB 0x29 (fb 512 1 63)).theSig,
        (Gen.ofB 0x2A (fb 511 1 63)).theSig, sigOf [] (.shifti false 4 31 1 2), moviSig 4 false 63,
        movhiSig (fc 65535 63), (Gen.ofA 0x2F (fa 1 2 3 4)).theSig, sigOf [] (.bfi false 1 2 3)], Shows base x yes) ∧
    (let w := 0x4000015D; w % 4 = 1 ∧ cut w 3 7 = 0x2B ∧ cut w 30 2 ≠ 0) ∧
    (let w := 0xF0000181; w % 4 = 1 ∧ cut w 3 7 = 0x30 ∧ cut w 28 4 ≠ 0) ∧
    InRun (withT (fun t => { t with pend := [.v 6] }))
      (fun _ t => decide (6 < t.v.length) && t.pend.contains (.v 6) && !t.pend.contains (.v 5) && decide (5 ≤ 7) && decide (2 ≤ 15)) :=
  ⟨shows_each (by decide), by decide, by decide, inRun_of (by decide)⟩

theorem witness_FloatingAndPredicateOperationsGiveTheirResults : ∀ x ∈
    [(Gen.ofA 0x38 (fa 3 1 2 3)).theSig, (Gen.ofA 0x39 (fa 3 1 2 3)).theSig, (Gen.ofA 0x3E (fa 7 1 2 3)).theSig,
      (Gen.ofU 0x3C (fu 3 1 2)).theSig, (Gen.ofU 0x3D (fu 1 1 2)).theSig, (Gen.ofA 0x26 (fa 9 1 2 7)).theSig,
      (Gen.ofA 0x3A (fa 7 1 2 7)).theSig, (Gen.ofA 0x08 (fa 6 7 6 0)).theSig, (Gen.ofA 0x08 (fa 7 0 6 7)).theSig],
    Shows base x yes := shows_each (by decide)

theorem witness_SlowOperationsOweTheirResults :
    (∀ x ∈ [(Gen.ofA 0x31 (fa 3 1 2 3)).theSig, (Gen.ofU 0x3B (fu 7 1 2)).theSig, (Gen.ofU 0x41 (fu 11 1 2)).theSig,
      (Gen.ofU 0x42 (fu 3 1 2)).theSig], Shows base x yes) ∧ (f32 0x7F800001).isNan = true := ⟨shows_each (by decide), by decide⟩

theorem witness_SlowOperationsOweTheirResults_more : 0x80000000 < (0xBF800000 : Word).toNat ∧ (0xBF800000 : Word).toNat < 0xFF800000 := by
  decide

theorem witness_VotesAndShufflesCombineTheParticipants : ∀ x ∈
    [(Gen.ofU 0x09 (fu 0 7 63)).theSig, (Gen.ofU 0x09 (fu 4 0 63)).theSig, (Gen.ofU 0x09 (fu 3 0 7)).theSig,
      (Gen.ofA 0x0A (fa 1 7 62 0)).theSig, sigOf [] (.elect false 7), (Gen.ofA 0x40 (fa 3 1 2 3)).theSig,
      (Gen.ofA 0x40 (fa 7 1 2 3)).theSig], Shows base x yes := shows_each (by decide)

theorem witness_SpecialRegistersAndSlotsAreRead : ∀ x ∈
    [sigOf [] (.movs false 0 63), sigOf [] (.movs false 18 62), sigOf [] (.movs false 19 63), sigOf [] (.movf false true 7 63)],
    Shows base x yes := shows_each (by decide)

theorem witness_WideOperationsGiveTheirResults : ∀ x ∈
    [imadSig (fx 0 1 2 3), imadSig (fx 0 1 2 4 [(46, 2)]), selSig (fx 127 1 2 0xFF [(46, 7)]), selSig (fx 126 2 4 0xFF [(49, 1), (50, 1)]),
      idp4Sig (fx 1 2 3 4 [(48, 1)]), iadd64Sig (fx 126 2 3 0xFF [(47, 2)]), lea64Sig (fx 4 8 12 0xFF [(46, 15), (50, 2)]),
      iset64Sig (fx 7 2 4 0xFF [(46, 9)]), movxSig (fi 0 0xFF 0xBF 0), movxSig (fi 1 0xFF 126 0), movxSig (fi 2 0xFF 126 0),
      movxSig (fi 2 0xFF 0xFF 0), movxSig (fi 3 0xC0 0xCF 0x3FFF), ffmaSig (fx 1 2 3 4 [(49, 1)]), hfmaSig (fx 1 2 3 4 [(50, 1)])],
    Shows base x yes := shows_each (by decide)

theorem witness_ConversionsOfElementsGiveTheirResults :
    meets base (cvtSig (List.replicate 8 0) (fx 8 16 2 0xFF [(54, 3)])) yes = true ∧
    (fmtWidth 0 ∈ [4, 6, 8, 16, 32]) ∧
    meets base (dqnSig (fx 8 16 0xFF 0xCF [(48, 0x10), (53, 3)])) yes = true ∧
    meets base (amaxSig (fx 1 8 0xFF 0xFF [(47, 1)])) yes = true := by decide

theorem witness_QuantisationsGiveTheirResults :
    (let s := slotW 0x10
     let sl := [0x10, 0, 0, 0, 0, 0, 0, 0]
     meets s (qntSig sl (fx 8 16 4 0xC0)) yes = true ∧ meets s (scofSig sl (fx 0xC0 1 0xFF 0xFF)) yes = true ∧
     meets s (rsclSig sl (fx 8 16 4 0xC0 [(59, 0x11)])) yes = true) ∧
    meets base (rhadSig (List.replicate 8 0) (fx 8 16 4 6 [(49, 2)])) yes = true ∧
    meets base (randSig (List.replicate 8 0) (fx 8 16 4 0xFF [(50, 1)])) yes = true ∧
    meets base (npackSig (fx 8 16 0xFF 0xFF [(46, 3), (48, 2), (50, 2)])) yes = true ∧
    meets base (nunpkSig (fx 8 16 0xFF 0xFF [(46, 3), (48, 2), (50, 1)])) yes = true := by decide

/-- The block with its first thread changed. -/
def blockW (f : Block → Block) : State := world 0x1F f

/-- Whether an access of the first thread lands, and where. -/
def lands (s : State) (x : Sig) (ea : Iss → Thread → DWord) (acc : Acc) (p : Pa → Bool) (i : Iss) (t : Thread) : Bool :=
  match (s.settleRun x i).reach i (ea i t) acc with
  | (_, .inr q) => p q
  | _ => false

/-- The address in the pair that a specifier names. -/
def at0 (n off : Nat) (i : Iss) (t : Thread) : DWord := pairAt i.warp.w t n + BitVec.ofNat 64 off

/-- A page without a format, neither strong nor a window. -/
def plain (p : Pa) : Bool := p.tag == 0 && !p.win && !p.sc

/-- A thread whose pair v8:v9 holds an address. -/
def addrT (n : Nat) : Thread → Thread := vs [(8, n)]

/-- A block with one tile: handle 3. -/
def tileOf (st : TileState) (kind fmt rows cols : Nat) : Tile :=
  { st := st, kind := kind, level := true, fmt := fmt, rows := rows, cols := cols,
    lines := List.replicate (tileLines fmt rows cols kind) { data := 0, side := 0, fill := false, marked := false },
    fills := 0, drains := 0, landed := 0, drop := 0, aborted := false, truncated := false, emptyRow := false }

/-- A tile of one row of 32 MXFP8 elements: codes 0x11 to 0x88 first, and scale 0x5A of its block. -/
def blockTile (st : TileState) : Tile :=
  { tileOf st 0 0x10 1 32 with lines := [{ data := 0x8877665544332211, side := 0x5A, fill := false, marked := false }] }

def tileW (f : Thread → Thread) (t : Tile) : State := world 0x1F (fun b => first f { b with tiles := setAt b.tiles 3 t })

/-- R174: byte 2 of k1 takes the block's scale, and v4:v5 the eight codes. -/
theorem test_tld_block : (after (.tld (fx 4 3 8 0xC1 [(46, 3), (49, 2)])) (tileW id (blockTile .ready))).map (fun t =>
    t.results.map (fun r => r.writes)) = some [[{ dest := .v 4, val := 0x44332211 }, { dest := .v 5, val := 0x88776655 },
      { dest := .kb 1 2, val := 0x5A }]] := by decide
/-- R175: `tst` takes the block's scale from byte 2 of k1; the codes that follow stay as they were. -/
theorem test_tst_block :
    let s := tileW (fun t => { vs [(4, 0x04030201), (5, 0x08070605)] t with k := setAt t.k 1 0x44C32211 }) (blockTile .empty)
    let t := (nextOr s (exec (.tst (fx 3 4 8 0xC1 [(46, 3), (49, 2)])) s)).tile 0 3
    (List.range 9).map (t.code 0) = [1, 2, 3, 4, 5, 6, 7, 8, 0] ∧ t.scale 0 31 = 0xC3 ∧ t.st = .empty := by decide

theorem witness_BranchesGoToTheirTargets :
    (∀ x ∈ [sigOf [] (.bra true 0x3FFFFF), sigOf [] (.bc false 0 true 7), sigOf [] (.ctrlNop true)], Shows base x yes) ∧
    Shows (withT (vs [(3, 1)])) (sigOf [] (.jtab false 2 3)) (fun i t =>
      decide ((t.reg 3).toNat < 2) && decide (fetchHalves ((withT (vs [(3, 1)])).settleRun (sigOf [] (.jtab false 2 3)) i)
        i.ctx i.blk.site (i.run.addr + 8) 2 = .inr 0)) ∧
    Shows (withT (vs [(3, 2)])) (sigOf [] (.jtab false 2 3)) (fun _ t => decide (2 ≤ (t.reg 3).toNat)) ∧
    Shows (withT (vs [(3, 1)])) (sigOf [] (.ctab false 2 3)) (fun i t =>
      decide (t.ret.length < 8) && decide (fetchHalves ((withT (vs [(3, 1)])).settleRun (sigOf [] (.ctab false 2 3)) i)
        i.ctx i.blk.site (i.run.addr + 8) 2 = .inr 0)) :=
  ⟨shows_each (by decide), shows_of_meets (by decide), shows_of_meets (by decide), shows_of_meets (by decide)⟩

/-- Eight entries on chip, a stack area of one entry at 0x10000, and the index of a list in v3. -/
def stackW (leaf k : Nat) (f : Thread → Thread) : State :=
  (world leaf (fun b => { first (fun t => f (vs [(3, k)] { t with ret := List.replicate 8 0x100 })) b with stack := 8 })).modCtx 0
    (fun c => { c with stkbase := 0x10000 })

theorem witness_BranchesGoToTheirTargets_more :
    let x := sigOf [] (.ctab false 2 3)
    let word (s : State) (i : Iss) : Bool :=
      decide (fetchHalves (s.settleRun x i) i.ctx i.blk.site (i.run.addr + 8) 2 = .inr 0)
    let full (s : State) (i : Iss) (t : Thread) : Bool := decide ((t.reg 3).toNat < 2) && decide (8 ≤ t.ret.length) && word s i
    let spill (s : State) (p : Pa → Bool) (i : Iss) (_ : Thread) : Bool :=
      match (((s.settleRun x i).noteFetch i.ctx i.blk.site (i.run.addr + 8)).noteFetch i.ctx i.blk.site (i.run.addr + 10)).reach i
        (stackTop i.ctx i.blk 0 - 8) accStore with
      | (s1, .inr q) => p q && !s1.noRoute q
      | _ => false
    Shows (stackW 0x1F 1 (fun t => { t with spilled := 1 })) x (fun i t => full (stackW 0x1F 1 (fun t => { t with spilled := 1 })) i t &&
      decide (i.blk.stack < 8 * (t.spilled + 1))) ∧
    Shows (stackW 0x1F 1 id) x (fun i t => full (stackW 0x1F 1 id) i t && decide (8 * (t.spilled + 1) ≤ i.blk.stack) && t.reds == []) ∧
    Shows (stackW 0x1F 1 id) x (spill (stackW 0x1F 1 id) (fun q => !q.sc)) ∧
    Shows (stackW 0x3F 1 id) x (spill (stackW 0x3F 1 id) (fun q => q.sc)) ∧
    Shows (stackW 0x0F 1 id) x (fun i _ => match fetchHalves ((stackW 0x0F 1 id).settleRun x i) i.ctx i.blk.site (i.run.addr + 8) 2 with
      | .inl (f, _) => !f.isHold
      | .inr _ => false) :=
  ⟨shows_of_meets (by decide), shows_of_meets (by decide), shows_of_meets (by decide), shows_of_meets (by decide),
    shows_of_meets (by decide)⟩

theorem witness_CallsAndReturnsUseTheReturnStack :
    Shows base (sigOf [] (.call false 1)) (fun _ t => decide (t.ret.length < 8)) ∧
    Shows (withT (fun t => { t with ret := List.replicate 8 0x100 })) (sigOf [] (.call false 1))
      (fun i t => decide (8 ≤ t.ret.length) && decide (i.blk.stack < 8 * (t.spilled + 1))) ∧
    (let s := world 0x1F (fun b => { first (fun t => { t with ret := List.replicate 8 0x100 }) b with stack := 8 })
     Shows s (sigOf [] (.call false 1)) (fun i t => decide (8 ≤ t.ret.length) && decide (8 * (t.spilled + 1) ≤ i.blk.stack))) ∧
    (let s := (world 0x1F (fun b => { first (fun t => { t with ret := List.replicate 8 0x100 }) b with stack := 8 })).modCtx 0
        (fun c => { c with stkbase := 0x10000 })
     Shows s (sigOf [] (.call false 1)) (lands s (sigOf [] (.call false 1)) (fun i _ => stackTop i.ctx i.blk 0 - 8) accStore plain)) ∧
    Shows (withT (fun t => { t with ret := [0x100] })) (sigOf [] (.ctrlRet false)) (fun _ t => t.ret == [0x100]) ∧
    Shows base (sigOf [] (.ctrlRet false)) (fun _ t => t.ret == [] && t.spilled == 0) :=
  ⟨shows_of_meets (by decide), shows_of_meets (by decide), shows_of_meets (by decide), shows_of_meets (by decide),
    shows_of_meets (by decide), shows_of_meets (by decide)⟩

theorem witness_CallsAndReturnsUseTheReturnStack_more :
    let x := sigOf [] (.ctrlRet false)
    let s := (world 0x1F (fun b => { first (fun t => { t with spilled := 1 }) b with stack := 8 })).modCtx 0 (fun c => { c with stkbase := 0x10000 })
    let u : State := { s with mem := s.mem.setBytes (stackTop ((s.ctx? 0).getD (newContext 0 0 (FnPage.reset 0))) (placeBlock 0) 0 - 8).toNat [1] }
    let pops (s : State) (odd : Bool) (i : Iss) (t : Thread) : Bool := t.ret == [] && t.reds == [] &&
      match (s.settleRun x i).reach i (stackTop i.ctx i.blk 0 - 8) accLoad with
      | (s1, .inr p) =>
        let s2 := (s1.beforeRead i.blk.bid 0 p).touchRange p.pa 8
        (s2.lineFate p).isNone && decide (ownNum s2.mem [] p.pa 8 % 2 = 1) == odd
      | _ => false
    Shows s x (pops s false) ∧ Shows (stackW 0x3F 0 id) (sigOf [] (.call false 1))
      (lands (stackW 0x3F 0 id) (sigOf [] (.call false 1)) (fun i _ => stackTop i.ctx i.blk 0 - 8) accStore (fun p => p.sc)) ∧
    (let v := stackTop ((s.ctx? 0).getD (newContext 0 0 (FnPage.reset 0))) { placeBlock 0 with stack := 8 } 0 - 8
     Shows { u with mem := u.mem.setBytes v.toNat [1] } x (pops { u with mem := u.mem.setBytes v.toNat [1] } true)) :=
  ⟨shows_of_meets (by decide), shows_of_meets (by decide), shows_of_meets (by decide)⟩

theorem witness_ExitEndsTheThreadAndYieldExchangesTheWarp :
    Shows base (sigOf [] (.ctrlExit false)) (fun i t =>
      i.blk.status == .resident && t.results == [] && t.lates == [] && i.blk.conv.all (fun c => c.st == .idle)) ∧
    Shows (withT (fun t => t.addResult .ready [.v 3] [])) (sigOf [] (.ctrlExit false)) (fun _ t => t.results != []) ∧
    Shows (blockW (fun b => { b with conv := setAt b.conv 0 { Conv.idle with st := .joining, members := [0] } }))
      (sigOf [] (.ctrlExit false)) (fun i _ => i.blk.conv.any (fun c => c.st == .joining && c.members.contains 0)) ∧
    Shows base (sigOf [] (.ctrlYield false)) (fun i _ =>
      ((base.sched? i.blk.die i.blk.core (i.blk.partOf i.run.crew)).map (fun y => (y.active.filterMap id).length)) == some 1) :=
  ⟨shows_of_meets (by decide), shows_of_meets (by decide), shows_of_meets (by decide), shows_of_meets (by decide)⟩

theorem witness_ExitEndsTheThreadAndYieldExchangesTheWarp_more :
    (let s : State := { base with scheds := [(Sched.empty 0 0 0).put 0 { bid := 0, crew := 0, lane := 0, first := 0 }] }
     Shows s (sigOf [] (.ctrlYield false)) (fun i _ => (s.sched? i.blk.die i.blk.core (i.blk.partOf i.run.crew)).any (fun y =>
       y.active.findIdx? (fun o => o == some (i.warp.ref i.blk.bid)) == some 0))) ∧
    (let s : State := { base with scheds := [Sched.empty 0 0 0] }
     Shows s (sigOf [] (.ctrlYield false)) (fun i _ => (s.sched? i.blk.die i.blk.core (i.blk.partOf i.run.crew)).any (fun y =>
       !y.active.contains (some (i.warp.ref i.blk.bid))))) := ⟨shows_of_meets (by decide), shows_of_meets (by decide)⟩

theorem witness_SoftwareTrapsAreTaken :
    (∀ x ∈ [sigOf [] (.ctrlBrk false), sigOf [] (.trap false 0xFFFF)], Shows base x yes) ∧
    InRun (base.modCtx 0 (fun c => { c with handler := 0x8000 })) (fun i t =>
      !i.ctx.route.getLsbD (trapNum .swtrap) && i.ctx.handler != 0 && !t.priv && t.results == [] && t.lates == []) ∧
    InRun ((withT (fun t => t.addResult .ready [.v 3] [])).modCtx 0 (fun c => { c with handler := 0x8000 }))
      (fun i t => i.ctx.handler != 0 && t.results != []) :=
  ⟨shows_each (by decide), inRun_of (by decide), inRun_of (by decide)⟩

theorem witness_ChecksComeBeforeTheEffect :
    InRun base (fun _ _ => (fx 4 5 6 7 [(63, 1)]).fld 63 50 != 0) ∧
    InRun (withT (fun t => { t with pend := [.p 2] })) (fun _ t =>
      (ffmaSig { fx 4 5 6 7 with g := 2 }).fate == none && t.pend.contains (.p 2)) ∧
    InRun base (fun _ t => (ffmaSig { fx 4 5 6 7 with g := 2 }).fate == none && !t.pend.contains (.p 2) && readPred t 2 == false) ∧
    InRun (withT (fun t => { t with v := t.v.take 8 })) (fun _ t =>
      (ffmaSig (fx 127 5 6 7)).fate == none && readPred t 7 && decide (t.v.length ≤ 127) && decide (7 < t.v.length)) ∧
    InRun (withT (fun t => { t with pend := [.v 4] })) (fun _ t => (ffmaSig (fx 4 5 6 7)).fate == none && t.pend.contains (.v 4) &&
      !t.pend.contains (.v 5)) ∧
    (∀ ins ∈ [Instr.eret false, .ctlrd false 2 6, .ctlwr false 2 6, .pginvPage false 4, .pginvContext false, .idle false],
      InRun base (fun i t => !t.priv && parts (sigOf [] ins) base.tick i == [])) := by
  refine ⟨inRun_of (by decide), inRun_of (by decide), inRun_of (by decide), inRun_of (by decide), inRun_of (by decide), ?_⟩
  intro ins h
  simp only [List.mem_cons, List.not_mem_nil, or_false] at h
  rcases h with rfl | rfl | rfl | rfl | rfl | rfl <;> exact inRun_of (by decide)

theorem witness_BarriersCountAndRelease :
    Shows base (barSig false 1 15) (fun i t =>
      ((base.settleRun (barSig false 1 15) i).block? i.blk.bid).any (fun b => base.liveAt b t.crew 1 == 8)) ∧
    (8 < 8 * 2 ∧ 8 * 1 ≤ 8) ∧
    Shows (blockW (fun b => { b with crewBars := [List.replicate 16 { cnt := 1, arrived := [(0, 1)] }] })) (barSig false 1 15)
      (fun i t => (((base.settleRun (barSig false 1 15) i).barAt i.blk t.crew 1 15).cnt == 1)) ∧
    (let s := blockW (fun b => { b with crewBars := [List.replicate 16 { cnt := 1, arrived := (List.range 8).map (fun k => (0, k)) }] })
     (s.block? 0).any (fun b => let x := s.barAt b 0 1 0; decide (8 * x.cnt ≤ x.arrived.length) && decide x.arrived.Nodup)) = true :=
  ⟨shows_of_meets (by decide), by decide, shows_of_meets (by decide), by decide⟩

/-- A thread with a `red` to block 0x9000 of window 0 that is not yet performed. -/
def redT (t : Thread) : Thread := { t with reds := [(0, 0x9000, 0)] }

theorem witness_redsOutstanding : ∀ x ∈
    [barSig false 1 1, sigOf [] (.wsyncWarp false), sigOf [] (.wsyncMask false 4), fenceSig (fx 0xFF 0xFF 0xFF 0xFF [(46, 1)]),
      qadvSig (fx 0xFF 0xFF 4 0xFF [(46, 1)]), cpyinSig (fx 3 8 16 0xFF), sendSig (fx 10 4 6 7), rpostSig (fx 0xFF 8 0xFF 0xFF),
      wpostSig (fx 0xFF 8 4 0xFF)], Shows (withT redT) x (fun _ t => t.reds != []) := by
  intro x h
  simp only [List.mem_cons, List.not_mem_nil, or_false] at h
  rcases h with rfl | rfl | rfl | rfl | rfl | rfl | rfl | rfl | rfl <;> exact shows_of_meets (by decide)

theorem witness_WarpSetsAreSynchronisedAndResized :
    Shows base (sigOf [] (.wsyncWarp false)) yes ∧ Shows base (sigOf [] (.wsyncMask false 4)) yes ∧
    (let s := blockW (fun b => { b with threads := b.threads.map (fun t => { t with park := .wsync 0xFF }) })
     (s.block? 0).any (fun (b : Block) => (b.warps[0]?).any (fun (w : Warp) => b.threads.all (fun (t : Thread) => w.has t))) = true) ∧
    Shows base (sigOf [] (.wresize false 0 3)) (fun i t => (i.blk.warpOf? t).any (fun w => w.size == 8)) ∧
    Shows base (sigOf [] (.wresize false 3 3)) (fun i t => (i.blk.warpOf? t).any (fun w => decide (w.size < 64))) ∧
    Shows (blockW (fun b => { b with warps := b.warps.map (fun w => { w with size := 64 }) })) (sigOf [] (.wresize false 0 3))
      (fun i t => (i.blk.warpOf? t).any (fun w => decide (8 < w.size))) :=
  ⟨shows_of_meets (by decide), shows_of_meets (by decide), by decide, shows_of_meets (by decide), shows_of_meets (by decide),
    shows_of_meets (by decide)⟩

/-- A crew of 16 threads in two warps of 8 at the fuse to 16: all of its threads have arrived, or all but the first warp's. -/
def fuseW (all : Bool) : State :=
  let b := newBlock placeLaunch 0 0 0 0 { pos := 0, token := 0, crews := [{ part := 0, bases := [0, 0, 0, 0] }] } 1 0 1 64 0 (launchInit placeLaunch)
  world 0x1F (fun _ => { b with
    warps := b.warps.foldr (fun w l => { w with size := 8 } :: { w with first := 8, size := 8 } :: l) [],
    threads := b.threads.map (fun t => if all || 8 ≤ t.slot then { t with park := .fuse 16 3 } else t) })

theorem witness_WarpSetsAreSynchronisedAndResized_more :
    let mine (t u : Thread) : Bool := decide (u.crew = t.crew ∧ u.lane = t.lane ∧ t.slot / 16 * 16 ≤ u.slot ∧ u.slot < t.slot / 16 * 16 + 16)
    let whole (s : State) : Bool := (s.block? 0).any (fun (b : Block) => (b.threads.find? (fun t => t.slot == 8 && t.lane == 0)).any (fun t =>
      t.park == .fuse 16 3 && b.threads.all (fun u => !(mine t u) || u.park == .fuse 16 3) &&
        b.warps.any (fun w => w.crew == t.crew && w.lane == t.lane && w.first == 8)))
    whole (fuseW true) = true ∧ whole (fuseW false) = false := by decide

/-- A world with the launch of the placed block, its record changed. -/
def launchS (f : LaunchRec → LaunchRec) (s : State) : State := { s with launches := [{ placeLaunch with rc := f placeRec }] }

theorem witness_SpawnsAndRegisterFilesChange :
    (let s := launchS (fun r => { r with pool := 64 }) (withT (vs [(8, 0x7000)]))
     let x := sigOf [] (.spawn false 8)
     let y := sigOf [] (.spawnExit false 8)
     let e (_ : Iss) (t : Thread) : Bool := (t.reg64 8).toNat % 2 == 0 && decide ((t.reg64 8).toNat < 2 ^ 53) &&
       (s.launch? 0).any (fun l => l.rc.pool != 0 && decide (l.poolUsed 0 < l.rc.pool / 64)) && t.results == [] && t.lates == []
     Shows s x e ∧ Shows s y e) ∧
    Shows (withT (vs [(8, 0x7001)])) (sigOf [] (.spawn false 8)) (fun _ t => (t.reg64 8).toNat % 2 == 1) ∧
    Shows (launchS id (withT (vs [(8, 0x7000)]))) (sigOf [] (.spawn false 8)) (fun _ _ =>
      ((launchS id base).launch? 0).any (fun l => l.rc.pool == 0)) ∧
    (let s := launchS (fun r => { r with pool := 63 }) (withT (vs [(8, 0x7000)]))
     Shows s (sigOf [] (.spawn false 8)) (fun _ _ => (s.launch? 0).any (fun l =>
       l.rc.pool != 0 && decide (l.rc.pool / 64 ≤ l.poolUsed 0)))) ∧
    Shows base (sigOf [] (.reggrow false 128 7)) (fun _ t => decide (128 ≤ t.v.length)) ∧
    (let s := withT (fun t => { t with v := t.v.take 64 })
     Shows s (sigOf [] (.reggrow false 128 7)) (fun i t => decide (t.v.length < 128) &&
       decide (128 - t.v.length ≤ freeWords (s.holders i.blk.die i.blk.core i.blk.prio none) (i.blk.partOf t.crew) t.lane))) ∧
    Shows base (sigOf [] (.regshrink false 128)) (fun _ t => decide (t.v.length ≤ 128)) ∧
    Shows (withT (fun t => { t with pend := [.v 64] })) (sigOf [] (.regshrink false 64)) (fun _ t =>
      decide (64 < t.v.length) && t.pend.contains (.v 64)) ∧
    Shows base (sigOf [] (.regshrink false 64)) (fun i t => decide (64 < t.v.length) && t.pend == [] && lentRegs i.blk 0 == []) :=
  ⟨⟨shows_of_meets (by decide), shows_of_meets (by decide)⟩, shows_of_meets (by decide), shows_of_meets (by decide),
    shows_of_meets (by decide), shows_of_meets (by decide), shows_of_meets (by decide), shows_of_meets (by decide),
    shows_of_meets (by decide), shows_of_meets (by decide)⟩

theorem witness_SpawnsAndRegisterFilesChange_more :
    Shows (withT (fun t => redT { t with priv := true, epc := 0x7000 })) (sigOf [] (.eret false)) (fun _ t => t.reds != [] && t.priv) ∧
    Shows (tileW redT (tileOf .ready 2 0 2 2)) (trelSig (fx 3 0xFF 0xFF 0xFF)) (fun _ t => t.reds != []) :=
  ⟨shows_of_meets (by decide), shows_of_meets (by decide)⟩

theorem witness_SystemInstructionsReadAndWrite :
    (∀ x ∈ [sigOf [] (.eret false), sigOf [] (.ctlrd false 32 6), sigOf [] (.ctlrd false 0 63), sigOf [] (.ctlwr false 0 63),
      sigOf [] (.ctlwr false 32 6), sigOf [] (.pginvPage false 4), sigOf [] (.pginvContext false), sigOf [] (.idle true)],
      Shows priv x yes) ∧
    Shows priv (sigOf [] (.ctlwr false 2 6)) (fun i t => ctlOk i.ctx 2 (t.reg64 6).toNat) ∧
    Shows (withT (fun t => { vs [(6, 1)] t with priv := true })) (sigOf [] (.ctlwr false 16 6)) (fun i t => !ctlOk i.ctx 16 (t.reg64 6).toNat) ∧
    (∀ n ∈ [16, 18, 19, 20, 21, 24, 26, 27, 28, 32], Shows priv (sigOf [] (.ctlwr false (BitVec.ofNat 10 n) 6))
      (fun i t => decide (n = 21 ∨ n = 19 ∨ n = 24 ∨ n = 26 ∨ n = 27 ∨ n = 28 ∨ ctlOk i.ctx n (t.reg64 6).toNat))) ∧
    Shows (withT (fun t => { t.addResult .ready [.v 3] [] with priv := true })) (sigOf [] (.pginvContext false))
      (fun _ t => t.results != []) :=
  ⟨shows_each (by decide), shows_of_meets (by decide), shows_of_meets (by decide), by
    intro n h
    simp only [List.mem_cons, List.not_mem_nil, or_false] at h
    rcases h with rfl | rfl | rfl | rfl | rfl | rfl | rfl | rfl | rfl | rfl <;> exact shows_of_meets (by decide),
    shows_of_meets (by decide)⟩

theorem witness_AccessesChangeOnlyTheirTableEntry :
    base.mem.wf = true ∧ base.churn = [] ∧
    ((base.ctx? 0).any (fun c => (match walk base c 0 0x9000 with | .inr l => l.at_ == 0x4000 | _ => false))) = true ∧
    ((State.reset.ctxs ++ [newContext 0 0 (FnPage.reset 0)]).any (fun c => (match walk State.reset c 0 0x9000 with
      | .inl _ => true | _ => false))) = true := by decide

theorem witness_LoadsDeliverWhatTheThreadSees :
    (let x := ldSig (fx 4 8 0xFF 0xFF [(53, 4), (56, 1)])
     Shows (withT (addrT 0x9000)) x (lands (withT (addrT 0x9000)) x (at0 8 16) accLoad plain)) ∧
    (let x := ldSig (fx 4 8 0xFF 0xFF [(52, 1)])
     Shows (withT (addrT 0x9001)) x (lands (withT (addrT 0x9001)) x (at0 8 0) accLoad plain)) ∧
    (let x := (Gen.ofB 0x48 (fb 1023 8 4)).theSig
     Shows (withT (addrT 0x9004)) x (lands (withT (addrT 0x9004)) x (fun i t => at0 8 0 i t - 4) accLoad plain)) ∧
    (let x := (Gen.ofB 0x49 (fb 1 8 4)).theSig
     let s := world 0x3F (first (addrT 0x9000))
     Shows s x (lands s x (at0 8 16) accLoad (fun p => p.sc && !s.mem.marked (lineOf p.pa)))) ∧
    (let x := (Gen.ofB 0x48 (fb 0 8 4)).theSig
     let s := { withT (addrT 0x9000) with mem := (withT (addrT 0x9000)).mem.mark (lineOf 0x9000) }
     Shows s x (lands s x (at0 8 0) accLoad (fun p => !p.sc && s.mem.marked (lineOf p.pa)))) :=
  ⟨shows_of_meets (by decide), shows_of_meets (by decide), shows_of_meets (by decide), shows_of_meets (by decide),
    shows_of_meets (by decide)⟩

/-- The leaf of the pages of window 0, and of the memory of package 1. -/
def winLeaf : Nat := 2 ^ 56 + 0xCF
def farLeaf : Nat := 2 ^ 43 + 0x1F

/-- A window table at 0x10000: window 0 in a format, with endpoint 0 as its member, of offsets up to 2^16. -/
def tableW (fmt : Nat) (s : State) : State :=
  let s := s.modPlat (fun p => { p with winbase := 0x10000 })
  { s with mem := (s.mem.setBytes 0x10000 (toBytes 8 0x11000 ++ toBytes 4 1 ++ [BitVec.ofNat 8 fmt, 1, 0, 0] ++ toBytes 8 0 ++
      toBytes 8 65536 ++ List.replicate 32 0)).setBytes 0x11000 (List.replicate 8 0) }

/-- A world whose pages are package 1's, which no port reaches. -/
def cutW (f : Thread → Thread) : State := (world farLeaf (first f)).modPlat (fun p =>
  { p with fuses := { p.fuses with domain := [1] }, ports := [] })

theorem witness_LoadsDeliverWhatTheThreadSees_more :
    (let s := tableW 0 (withT (fun t => addrT 0x9000 (redT t)))
     let x := ldSig (fx 4 8 0xFF 0xFF)
     Shows s x (fun i t => match (s.settleRun x i).reach i (at0 8 0 i t) accLoad with
       | (s1, .inr p) => t.reds != [] && s1.behindRed t p
       | _ => false)) ∧
    (let s := cutW (addrT 0x9000)
     let x := ldSig (fx 4 8 0xFF 0xFF)
     Shows s x (lands s x (at0 8 0) accLoad (fun p => s.noRoute p && !s.mem.marked (lineOf p.pa)))) ∧
    (∀ mj ∈ [0x48, 0x49], (let x := (Gen.ofWide (fx 4 8 0xFF 0xFF [(46, mj)])).theSig
     Shows (withT (addrT 0x9000)) x (lands (withT (addrT 0x9000)) x (at0 8 0) accLoad plain))) := by
  refine ⟨shows_of_meets (by decide), shows_of_meets (by decide), ?_⟩
  intro mj h
  simp only [List.mem_cons, List.not_mem_nil, or_false] at h
  rcases h with rfl | rfl <;> exact shows_of_meets (by decide)

theorem witness_TaggedPagesHoldShares :
    (let s := world 0x11F (first (addrT 0x9008))
     let x := ldSig (fx 16 8 0xFF 0xC0 [(53, 7)])
     Shows s x (lands s x (at0 8 0) accLoad (fun p => p.tag != 0 && !p.sc &&
       shareAligned (tagFmt p.tag) (0x9008) && !s.mem.marked (lineOf p.pa)))) ∧
    (let s := world 0x11F (first (addrT 0x9001))
     let x := ldSig (fx 16 8 0xFF 0xFF [(53, 5)])
     Shows s x (lands s x (at0 8 0) accLoad (fun p => p.tag != 0 && !shareAligned (tagFmt p.tag) 0x9001))) ∧
    (let x := ldSig (fx 16 8 0xFF 0xFF [(53, 6)])
     Shows (withT (addrT 0x9000)) x (lands (withT (addrT 0x9000)) x (at0 8 0) accLoad (fun p => p.tag == 0))) ∧
    (let s := world 0x11F (first (addrT 0x9000))
     let x := stSig (fx 16 8 0xFF 0xC0 [(53, 7)])
     Shows s x (fun i t => lands s x (at0 8 0) accStore (fun p => p.tag != 0 && shareAligned (tagFmt p.tag) 0x9000 &&
       decide (groupFate i.blk t 16 (blockRegs (tagFmt p.tag)) false = .go)) i t)) :=
  ⟨shows_of_meets (by decide), shows_of_meets (by decide), shows_of_meets (by decide), shows_of_meets (by decide)⟩

theorem witness_TaggedPagesHoldShares_more :
    let s := world 0x13F (first (addrT 0x9000))
    let x := stSig (fx 16 8 0xFF 0xC0 [(53, 7)])
    Shows s x (lands s x (at0 8 0) accStore (fun p => p.tag != 0 && p.sc && shareAligned (tagFmt p.tag) 0x9000 && !s.noRoute p)) :=
  shows_of_meets (by decide)

theorem witness_StoresAreBufferedAndPerformed :
    (let x := stSig (fx 5 8 0xFF 0xFF [(56, 255)])
     Shows (withT (addrT 0x9001)) x (lands (withT (addrT 0x9001)) x (fun i t => at0 8 0 i t - 1) accStore plain)) ∧
    (let x := (Gen.ofB 0x4A (fb 512 8 5)).theSig
     Shows (withT (addrT 0x9000)) x (lands (withT (addrT 0x9000)) x (fun i t => at0 8 0 i t - 2048) accStore plain)) ∧
    (let x := (Gen.ofB 0x4B (fb 0 8 4)).theSig
     let s := world 0x3F (first (addrT 0x9000))
     Shows s x (lands s x (at0 8 0) accStore (fun p => p.sc))) ∧
    bitsAt 0x9000 53 1 = 0 ∧ bitsAt (8 / 8 * 128) 53 1 = 0 :=
  ⟨shows_of_meets (by decide), shows_of_meets (by decide), shows_of_meets (by decide), by decide, by decide⟩

theorem witness_StoresAreBufferedAndPerformed_more :
    (let x := stSig (fx 5 8 0xFF 0xFF [(48, 1), (50, 1)])
     Shows (withT (addrT 0x9000)) x (fun i t => lands (withT (addrT 0x9000)) x (at0 8 0) accStore plain i t &&
       (fx 5 8 0xFF 0xFF [(48, 1), (50, 1)]).fld 51 50 == 1 && t.reds == []) ∧
     Shows (withT (fun t => addrT 0x9000 (redT t))) x (fun i t =>
       lands (withT (fun t => addrT 0x9000 (redT t))) x (at0 8 0) accStore plain i t && t.reds != [])) ∧
    (∀ mj ∈ [0x4A, 0x4B], (let x := (Gen.ofWide (fx 4 8 0xFF 0xFF [(46, mj)])).theSig
     Shows (withT (addrT 0x9000)) x (lands (withT (addrT 0x9000)) x (at0 8 0) accStore plain))) ∧
    (let s := withT (fun t => { t with park := .sc none })
     (s.block? 0).any (fun b => (b.threads[0]?).any (fun t => t.park == .sc none))) = true := by
  refine ⟨⟨shows_of_meets (by decide), shows_of_meets (by decide)⟩, ?_, by decide⟩
  intro mj h
  simp only [List.mem_cons, List.not_mem_nil, or_false] at h
  rcases h with rfl | rfl <;> exact shows_of_meets (by decide)

theorem witness_PredicateAccessesNameOneBit :
    (let x := pstSig (fx 7 8 0xFF 0xFF)
     Shows (withT (addrT 0x9000)) x (lands (withT (addrT 0x9000)) x (at0 8 0) accStore plain)) ∧
    (let x := pldSig (fx 0 8 10 0xFF)
     let s := withT (vs [(8, 0x9000), (10, 65)])
     Shows s x (lands s x (at0 8 8) accLoad plain)) := ⟨shows_of_meets (by decide), shows_of_meets (by decide)⟩

theorem witness_PredicateAccessesNameOneBit_more :
    (∀ x ∈ [pstSig (fx 7 8 0xFF 0xFF), pldSig (fx 0 8 0xFF 0xFF)], Shows (withT (vs [(9, 0x200000)])) x (fun i t =>
      decide (2 ^ 53 ≤ (pairAt i.warp.w t 8 + BitVec.ofInt 64 (sext 8 0)).toNat))) ∧
    (let x := pstSig (fx 7 8 0xFF 0xFF [(49, 1), (50, 1)])
     let s := world 0x3F (first (addrT 0x9000))
     Shows s x (lands s x (at0 8 0) accPst (fun p => p.sc && !s.noRoute p))) ∧
    (let x := pldSig (fx 7 8 0xFF 0xFF)
     let s := world 0x3F (first (addrT 0x9000))
     Shows s x (lands s x (at0 8 0) accLoad (fun p => p.sc && !s.mem.marked (lineOf p.pa) && !s.noRoute p))) := by
  refine ⟨?_, shows_of_meets (by decide), shows_of_meets (by decide)⟩
  intro x h
  simp only [List.mem_cons, List.not_mem_nil, or_false] at h
  rcases h with rfl | rfl <;> exact shows_of_meets (by decide)

/-- The same for an atomic, which says whether it is a reduction. -/
def landsRed (s : State) (x : Sig) (ea : Iss → Thread → DWord) (acc : Acc) (i : Iss) (t : Thread) : Bool :=
  match (s.settleRun x i).reach i (ea i t) acc true with
  | (_, .inr q) => plain q && !s.mem.marked (lineOf q.pa)
  | _ => false

theorem witness_AtomicsReadModifyAndWrite :
    (let x := atomSig (fx 4 8 6 0xFF [(53, 9)])
     Shows (withT (addrT 0x9004)) x (lands (withT (addrT 0x9004)) x (at0 8 0) accAtom plain)) ∧
    (let x := atomcasSig (fx 4 8 6 12 [(48, 1), (51, 3)])
     Shows (withT (addrT 0x9008)) x (lands (withT (addrT 0x9008)) x (at0 8 0) accAtom plain)) ∧
    (let x := redSig (fx 0xFF 8 6 0xFF [(46, 1), (51, 2)])
     Shows (withT (addrT 0x9000)) x (landsRed (withT (addrT 0x9000)) x (at0 8 0) accRed)) ∧
    (let s := world 0x9F (first (addrT 0x9000))
     let x := redSig (fx 0xFF 8 6 0xFF [(46, 2)])
     Shows s x (landsRed s x (at0 8 0) accMerge)) :=
  ⟨shows_of_meets (by decide), shows_of_meets (by decide), shows_of_meets (by decide), shows_of_meets (by decide)⟩

theorem witness_AtomicsReadModifyAndWrite_more :
    let x := redSig (fx 0xFF 8 6 0xFF [(53, 9)])
    let far (fmt : Nat) (s : State) (p : Pa → Bool) (i : Iss) (t : Thread) : Bool :=
      match (s.settleRun x i).reach i (at0 8 0 i t) accRed true with
      | (s1, .inr q) => p q && q.win && q.tag == 0 && (windowAt? s1 q.pa).any (fun w => w.fmt == fmt)
      | _ => false
    (∀ fmt ∈ [0, 1], (let s := tableW fmt (world winLeaf (first (addrT 0x9004)))
      Shows s x (far fmt s (fun q => q.pa % 128 == 4)))) ∧
    (let s := tableW 0 (world winLeaf (first (fun t => addrT 0x9004 (redT t))))
     Shows s (redSig (fx 0xFF 8 6 0xFF [(53, 9), (51, 2)])) (fun _ t => t.reds != [])) ∧
    (let s := world 0x3F (first (addrT 0x9004))
     let y := atomSig (fx 4 8 6 0xFF [(53, 9)])
     Shows s y (lands s y (at0 8 0) accAtom (fun p => p.sc && !s.noRoute p))) := by
  refine ⟨?_, shows_of_meets (by decide), shows_of_meets (by decide)⟩
  intro fmt h
  simp only [List.mem_cons, List.not_mem_nil, or_false] at h
  rcases h with rfl | rfl <;> exact shows_of_meets (by decide)

theorem witness_WaitsFencesAndHints :
    (let x := waitaSig (fx 7 8 10 0xFF)
     Shows (withT (addrT 0x9000)) x (lands (withT (addrT 0x9000)) x (at0 8 0) accWaita plain)) ∧
    (let x := waitaSig (fx 7 8 10 12 [(52, 1), (53, 1)])
     Shows (withT (addrT 0x9000)) x (fun i t => lands (withT (addrT 0x9000)) x (at0 8 0) accWaita plain i t &&
       pairAt i.warp.w t 12 == 0)) ∧
    [waitaCond 0 false 0 0, waitaCond 1 true 0 0] = [true, false] ∧
    Shows base (fenceSig (fx 0xFF 0xFF 0xFF 0xFF)) yes ∧ Shows base (fenceSig (fx 0xFF 0xFF 0xFF 0xFF [(46, 3), (48, 3)])) yes ∧
    (∀ x ∈ [prefSig (fx 0xFF 8 0xFF 0xFF), cmaintSig (fx 0xFF 8 0xFF 0xFF)], Shows base x yes) ∧
    (let x := prefSig (fx 0xFF 8 0xFF 0xFF)
     Shows (withT (addrT 0x9000)) x (lands (withT (addrT 0x9000)) x (at0 8 0) accLoad plain)) ∧
    (let s := withT (vs [(9, 0x200000)])
     let x := cmaintSig (fx 0xFF 8 0xFF 0xFF)
     Shows s x (fun i t => match (s.settleRun x i).reach i (at0 8 0 i t) accLoad with | (_, .inl _) => true | _ => false)) ∧
    (let x := cmaintSig (fx 0xFF 8 0xFF 0xFF)
     Shows (withT (addrT 0x9080)) x (lands (withT (addrT 0x9080)) x (at0 8 0) accZero plain)) ∧
    Shows (withT (addrT 0x9001)) (cmaintSig (fx 0xFF 8 0xFF 0xFF)) (fun i t => (at0 8 0 i t).toNat % 128 != 0) :=
  ⟨shows_of_meets (by decide), shows_of_meets (by decide), by decide, shows_of_meets (by decide), shows_of_meets (by decide),
    shows_each (by decide), shows_of_meets (by decide), shows_of_meets (by decide), shows_of_meets (by decide),
    shows_of_meets (by decide)⟩

theorem witness_CountersReadAdvanceAndComplete :
    Shows base (qwaitSig (fx 0xFF 0xFF 4 0xFF [(51, 15)])) (fun i t => decide ((pairAt i.warp.w t 4).toNat ≤ 0)) ∧
    Shows (withT (vs [(4, 1)])) (qwaitSig (fx 0xFF 0xFF 4 0xFF [(51, 4095), (63, 1)])) (fun i t => decide (0 < (pairAt i.warp.w t 4).toNat)) ∧
    Shows base (qreadSig (fx 4 0xFF 0xFF 0xFF [(46, 1)])) yes ∧ Shows base (qadvSig (fx 0xFF 0xFF 4 0xFF [(46, 1), (48, 3)])) yes ∧
    (Counter.zero.done = [] ∧ Counter.zero.c = Counter.zero.i ∧ (1 : DWord) ≠ 0) :=
  ⟨shows_of_meets (by decide), shows_of_meets (by decide), shows_of_meets (by decide), shows_of_meets (by decide), by decide⟩

theorem witness_WideFormsHaveTheirInnerEffect :
    (∀ x ∈ [(0x20, 5), (0x21, 3), (0x22, 3), (0x23, 5), (0x24, 4), (0x2E, 15), (0x2F, 1), (0x38, 3), (0x39, 3)].map (fun (mj, m) =>
      (Gen.ofWide (fx 0x80 0x81 0xFF 0xFF [(46, mj), (53, m)])).theSig), Shows base x yes) ∧
    (∀ x ∈ [(0x25, 9), (0x3C, 3), (0x3D, 1), (0x27, 15), (0x28, 15), (0x29, 15), (0x2A, 15)].map (fun (mj, m) =>
      (Gen.ofWide (fx 127 0xBF 0xFF 0xFF [(46, mj), (53, m)])).theSig), Shows base x yes) ∧
    (∀ x ∈ [(0x26, 9), (0x3A, 7)].map (fun (mj, m) => (Gen.ofWide (fx 7 1 2 0xFF [(46, mj), (53, m)])).theSig), Shows base x yes) ∧
    Shows base (Gen.ofWide (fx 0xFF 0xFF 0xFF 0xFF [(46, 4)])).theSig yes ∧
    InRun base (fun _ _ => !isFormA 0x0E && !isFormB 0x0E) :=
  ⟨shows_each (by decide), shows_each (by decide), shows_each (by decide), shows_of_meets (by decide), inRun_of (by decide)⟩

theorem witness_WideFormsHaveTheirInnerEffect_more :
    (∀ p ∈ [(0x31, 3), (0x3E, 3), (0x30, 0)], (let x := (Gen.ofWide (fx 4 6 8 0xFF [(46, p.1), (53, p.2)])).theSig
      Shows base x yes)) ∧
    (∀ p ∈ [(0x3B, 7), (0x2B, 37), (0x2B, 36)], (let x := (Gen.ofWide (fx 4 6 0xFF 0xFF [(46, p.1), (53, p.2)])).theSig
      Shows base x yes)) ∧
    (∀ p ∈ [(0x12, 0), (0x12, 17), (0x50, 7)], (let x := (Gen.ofWide (fx 4 0xFF 0xFF 0xFF [(46, p.1), (53, p.2)])).theSig
      Shows base x yes)) ∧
    (∀ m ∈ [1, 2, 3], Shows (withT (fun t => { t with ret := [0x100] })) (sigOf [] (.wide (fx 0xFF 0xFF 0xFF 0xFF [(46, 4), (53, m)])))
      (fun _ t => t.ret == [0x100] && t.results == [] && t.lates == [])) ∧
    (let w := Instr.wide (fx 0xFF 3 0xFF 0xFF [(46, 6), (53, 2)])
     Shows (withT (vs [(3, 1)])) (sigOf [] w) (fun i _ => decide (fetchHalves ((withT (vs [(3, 1)])).settleRun (sigOf [] w) i)
       i.ctx i.blk.site (i.run.addr + 12) 2 = .inr 0)) ∧
     Shows (withT (vs [(3, 2)])) (sigOf [] w) (fun _ t => decide (2 ≤ (t.reg 3).toNat))) := by
  refine ⟨?_, ?_, ?_, ?_, shows_of_meets (by decide), shows_of_meets (by decide)⟩ <;>
  · intro p h
    simp only [List.mem_cons, List.not_mem_nil, or_false] at h
    rcases h with rfl | rfl | rfl <;> exact shows_of_meets (by decide)

theorem witness_TilesAreAllocatedAndFreed :
    (let s := withT (vs [(8, 2 * 65536 + 2)])
     let x := tallocSig (fx 3 8 0xFF 0xFF [(53, 1)])
     Shows s x (fun i _ => (i.blk.tile 3).st == .free && fmtAssigned 0 && decide (i.blk.grans < 1))) ∧
    (let s := world 0x1F (fun b => { first (vs [(8, 2 * 65536 + 2)]) b with grans := 1 })
     Shows s (tallocSig (fx 3 8 0xFF 0xFF [(51, 2)])) (fun i _ => (i.blk.tile 3).st == .free && decide (1 ≤ i.blk.grans))) ∧
    Shows base (tallocSig (fx 3 8 0xFF 0xFF [(46, 0x1F)])) (fun i _ => (i.blk.tile 3).st == .free && !fmtAssigned 0x1F) ∧
    Shows base (tallocSig (fx 3 8 0xFF 0xFF [(46, 1), (51, 1)])) (fun i _ => (i.blk.tile 3).st == .free && fmtAssigned 1) ∧
    (∀ st ∈ [TileState.empty, .filling, .ready, .draining, .engaged], ∀ x ∈ [tallocSig (fx 3 8 0xFF 0xFF), tfreeSig (fx 3 0xFF 0xFF 0xFF),
        tsetSig (fx 3 0xFF 0xFF 0xFF), tfillSig (fx 3 8 0xFF 0xFF), tfillSig (fx 3 8 0xFF 0xC0)],
      Shows (tileW id (tileOf st 0 0 2 2)) x yes) ∧
    (let u := tileOf .ready 2 0 2 2; fmtAssigned u.fmt = true ∧ u.lines.length = tileLines u.fmt u.rows u.cols u.kind ∧ u.kind = 2) ∧
    (let u := tileOf .empty 0 0x10 1 32; fmtAssigned u.fmt = true ∧ fmtBlock u.fmt = true ∧
      u.lines.length = tileLines u.fmt u.rows u.cols u.kind) := by
  refine ⟨shows_of_meets (by decide), shows_of_meets (by decide), shows_of_meets (by decide), shows_of_meets (by decide), ?_,
    by decide, by decide⟩
  intro st h
  simp only [List.mem_cons, List.not_mem_nil, or_false] at h
  rcases h with rfl | rfl | rfl | rfl | rfl <;> exact shows_each (by decide)

theorem witness_TilesAreReportedAndAwaited : ∀ st ∈ [TileState.free, .empty, .filling, .ready, .draining, .engaged],
    ∀ x ∈ [tstatSig (fx 4 3 0xFF 0xFF [(46, 1)]), twaitSig (fx 0xFF 3 0xFF 0xFF), twaitSig (fx 0xFF 3 0xFF 0xFF [(46, 1)]),
      twaitSig (fx 0xFF 3 0xFF 0xFF [(46, 2)])], Shows (tileW id (tileOf st 0 0 2 2)) x yes := by
  intro st h
  simp only [List.mem_cons, List.not_mem_nil, or_false] at h
  rcases h with rfl | rfl | rfl | rfl | rfl | rfl <;> exact shows_each (by decide)

theorem witness_TileElementsAreReadAndWritten :
    (let s := tileW (vs [(8, 65537)]) (tileOf .ready 0 0 2 2)
     let e (_ : Iss) (_ : Thread) : Bool := tileAccessFate (tileOf .ready 0 0 2 2) false 1 1 1 4 0xFF == none
     Shows s (tldSig (fx 4 3 8 0xFF)) e ∧ Shows s (tstSig (fx 3 4 8 0xFF)) e) ∧
    (let s := tileW (vs [(8, 1)]) (tileOf .draining 2 0 2 2)
     Shows s (tldSig (fx 4 3 8 0xFF [(46, 1), (51, 1)])) (fun i t => tileAccessFate (i.blk.tile 3) true 2 1 0 4 0xFF == none &&
       decide (groupFate i.blk t 4 2 true = .go))) ∧
    (let s := tileW id (tileOf .ready 0 0x10 1 32)
     Shows s (tldSig (fx 4 3 8 0xC0 [(46, 3)])) (fun i _ => tileAccessFate (i.blk.tile 3) false 8 0 0 4 0xC0 == none)) ∧
    (let s := tileW (vs [(8, 2)]) (tileOf .empty 0 0 2 2)
     Shows s (tstSig (fx 3 4 8 0xFF)) (fun i _ => tileAccessFate (i.blk.tile 3) false 1 2 0 4 0xFF == some ⟨.tilebound, 2⟩)) ∧
    Shows (tileW id (tileOf .filling 0 0 2 2)) (tldSig (fx 4 3 8 0xFF [(52, 1)])) yes ∧
    (let s := tileW id (tileOf .ready 0 0x0B 1 1)
     Shows s (tatomSig (fx 4 3 8 9)) yes ∧ Shows s (tredSig (fx 0xFF 3 8 9 [(53, 8)])) yes) ∧
    (let u := tileOf .ready 0 0 2 2; u.lineIx 1 1 < u.lines.length) :=
  ⟨⟨shows_of_meets (by decide), shows_of_meets (by decide)⟩, shows_of_meets (by decide), shows_of_meets (by decide),
    shows_of_meets (by decide), shows_of_meets (by decide), ⟨shows_of_meets (by decide), shows_of_meets (by decide)⟩, by decide⟩

/-- A layout record of rank 2 in format 0: 32 by 4 elements of which one row is the window. -/
def layRec (fmt rank : Nat) : List Byte :=
  let dim (e d w : Nat) : List Byte := toBytes 4 e ++ toBytes 7 d ++ toBytes 2 w ++ toBytes 3 0
  toBytes 8 0xA000 ++ [BitVec.ofNat 8 fmt, BitVec.ofNat 8 rank, 1, 1, 0, 0, 0, 0] ++ dim 32 0 32 ++ dim 4 128 1 ++ List.replicate 80 0

/-- The record in memory at 0x9000, whose address the pair v8:v9 holds. -/
def copyW (t : Tile) : State :=
  let s := tileW (addrT 0x9000) t
  { s with mem := (s.mem.setBytes 0x9000 (layRec 0 2)).setBytes 0x9080 (layRec 0 2) }

def tile32 (st : TileState) : Tile := tileOf st 0 0 2 32

theorem witness_CopyRecordsAndChecksComeInOrder :
    (fmtAssigned (field (layRec 0x1F 2) 8 1 % 32) = false ∧ field (layRec 0 0) 9 1 = 0 ∧ 7 < field (layRec 0 8) 9 1 ∧
      (match parseLayout (layRec 0 2) with | .inr l => l.stride == [0, 128] && !fmtBlock l.fmt | _ => false) = true) ∧
    (∀ st ∈ [TileState.free, .engaged, .draining, .empty, .ready, .filling],
      Shows (copyW (tile32 st)) (cpyinSig (fx 3 8 16 0xFF)) (fun i t =>
        ((copyW (tile32 st)).tile i.blk.bid 3).st == st &&
          (match ((copyW (tile32 st)).readLayout i ((t.rd i.warp.w).pair 8)).2 with | .inr l => l.win == [32, 1] | _ => false))) ∧
    ([256, 0, 2, 1].map (fun m => maskFate (placeBlock 0) m) =
      [some ⟨.mcmask, 3⟩, some ⟨.mcmask, 2⟩, some ⟨.mcmask, 1⟩, none]) := by
  refine ⟨by decide, ?_, by decide⟩
  intro st h
  simp only [List.mem_cons, List.not_mem_nil, or_false] at h
  rcases h with rfl | rfl | rfl | rfl | rfl | rfl <;> exact shows_of_meets (by decide)

/-- What a copy instruction plans: 0 a trap, 1 a wait, 2 a copy. -/
def planKind (p : CopyPlan) : Nat :=
  match p with
  | .trap _ _ => 0
  | .wait _ => 1
  | .go _ _ _ _ => 2

/-- The kind of plan of the first thread's copy, after its warp's stores. -/
def plans (s : State) (x : Sig) (plan : State → Iss → Rd → State × CopyPlan) (k : Nat) (i : Iss) (t : Thread) : Bool :=
  planKind (plan ((s.settleRun x i).drainOf i.blk.bid 0) i (t.rd i.warp.w)).2 == k

/-- Two records in memory, of the plain and the turned window of a tile. -/
def stashW : State :=
  let dims (m n : Nat) : List Byte := (layRec 0 2).take 16 ++ toBytes 4 m ++ toBytes 7 0 ++ toBytes 2 m ++ toBytes 3 0 ++
    toBytes 4 n ++ toBytes 7 128 ++ toBytes 2 n ++ toBytes 3 0 ++ List.replicate 80 0
  let s := tileW (addrT 0x9000) (tileOf .ready 0 0 2 4)
  { s with mem := (s.mem.setBytes 0x9000 (dims 4 2)).setBytes 0x9080 (dims 2 4) }

/-- Two tiles, for a copy from tile 3 to tile 4 of one row. -/
def tilesW : State := world 0x1F (fun b =>
  first (vs [(18, 32 * 65536 + 1)]) { b with tiles := setAt (setAt b.tiles 3 (tile32 .ready)) 4 (tile32 .empty) })

def cpy : FormX := fx 3 8 16 0xFF

theorem witness_CopiesAreStarted :
    Shows (copyW (tile32 .free)) (cpyinSig cpy) (plans (copyW (tile32 .free)) (cpyinSig cpy) (planCpyin cpy) 0) ∧
    Shows (copyW (tile32 .draining)) (cpyinSig cpy) (plans (copyW (tile32 .draining)) (cpyinSig cpy) (planCpyin cpy) 1) ∧
    Shows (copyW (tile32 .empty)) (cpyinSig cpy) (plans (copyW (tile32 .empty)) (cpyinSig cpy) (planCpyin cpy) 2) ∧
    Shows (copyW { tile32 .filling with fills := 255 }) (cpyinSig cpy)
      (plans (copyW { tile32 .filling with fills := 255 }) (cpyinSig cpy) (planCpyin cpy) 2) ∧
    Shows (copyW (tile32 .ready)) (cpyoutSig cpy) (plans (copyW (tile32 .ready)) (cpyoutSig cpy) (planCpyout cpy) 2) ∧
    Shows (copyW (tile32 .ready)) (cpyggSig (fx 8 8 16 16)) (plans (copyW (tile32 .ready)) (cpyggSig (fx 8 8 16 16)) (planCpygg (fx 8 8 16 16)) 2) ∧
    Shows tilesW (cpyttSig (fx 4 3 16 0xFF)) (plans tilesW (cpyttSig (fx 4 3 16 0xFF)) (planCpytt (fx 4 3 16 0xFF)) 2) ∧
    Shows (copyW (tile32 .free)) (stashSig cpy) (plans (copyW (tile32 .free)) (stashSig cpy) (planStash cpy) 0) ∧
    Shows stashW (stashSig cpy) (plans stashW (stashSig cpy) (planStash cpy) 2) :=
  ⟨shows_of_meets (by decide), shows_of_meets (by decide), shows_of_meets (by decide), shows_of_meets (by decide),
    shows_of_meets (by decide), shows_of_meets (by decide), shows_of_meets (by decide), shows_of_meets (by decide),
    shows_of_meets (by decide)⟩

theorem witness_CopiesAreStarted_more :
    (let s := copyW (tile32 .empty)
     Shows { s with blocks := s.blocks.map (first redT) } (cpyinSig cpy) (fun _ t => t.reds != [])) ∧
    (∀ odd ∈ [false, true], (let s : State := world 0x1F (fun b =>
        first (vs [(17, if odd then 0x00010000 else 0), (18, 32 * 65536 + 1)])
          { b with tiles := setAt (setAt b.tiles 3 (blockTile .ready)) 4 (tileOf .empty 0 0x10 1 64) })
      Shows s (cpyttSig (fx 4 3 16 0xFF)) (plans s (cpyttSig (fx 4 3 16 0xFF)) (planCpytt (fx 4 3 16 0xFF)) (if odd then 0 else 2)))) := by
  refine ⟨shows_of_meets (by decide), ?_⟩
  intro odd h
  simp only [List.mem_cons, List.not_mem_nil, or_false] at h
  rcases h with rfl | rfl <;> exact shows_of_meets (by decide)

/-- The state after a copy of one row of the record's window into tile 3 has started. -/
def copying : State := nextOr base (exec (.cpyin (fx 3 8 16 0xFF)) (copyW (tile32 .empty)))

/-- A test of a copy's first destination, and of a state's first copy. -/
def firstDst (p : Dst → Bool) (c : Copy) : Bool := (c.dsts[0]?).any p
def firstCopy (s : State) (p : Copy → Bool) : Bool := (s.copies[0]?).any p

/-- Whether a destination's place is tile 3, and the line of a unit lies in it. -/
def inTile (s : State) (u : Nat × Nat) (d : Dst) : Bool :=
  match d.place with
  | .tile bid h _ _ => h == 3 && decide (u.2 < (s.tile bid h).rows * (s.tile bid h).pitch)
  | _ => false

/-- Whether the lines of a place cannot be mapped in a context without a page table. -/
def unmapped (s : State) (c : Copy) : Bool :=
  match (s.mapLines (newContext 0 0 (FnPage.reset 0)) c.site accCopyIn [0xA000 / 128]).2 with
  | .inl _ => true
  | .inr _ => false

theorem witness_CopiesLandAndComplete :
    firstCopy copying (fun c => c.xf == .raw && !c.stalled && !c.abandoned && c.owner == .thread) = true ∧
    firstCopy copying (firstDst (fun d => d.st == .accepted && d.todo == [(0, 0)] && inTile copying (0, 0) d)) = true ∧
    firstCopy (nextOr copying (exec (.lineLanded 1 0 0) { copying with copies := copying.copies.map (fun c => { c with cid := 1 }) }))
      (fun c => !c.stalled && c.dsts.all (fun d => d.st == .accepted && d.todo == [])) = true ∧
    firstCopy copying (unmapped base) = true ∧
    ((copying.block? 0).map (fun b => b.status)) = some .resident := by decide

/-- A block whose convergence register 0 is `c`; its slots hold BF16. -/
def convW (c : Conv) (t : Tile) : State := world 0x1F (fun b =>
  { b with conv := setAt b.conv 0 c, slots := List.replicate 8 1, tiles := setAt b.tiles 3 t })

def mmaX : FormX := fx 3 32 64 0xFF

def convOf (st : ConvState) (members joined : List Nat) (word : Option FormX) : Conv :=
  { Conv.idle with st := st, crews := 1, members := members, joined := joined, word := word }

/-- A block of one crew of 64 threads in the place of another. -/
def crew64 (_ : Block) : Block :=
  newBlock placeLaunch 0 0 0 0 { pos := 0, token := 0, crews := [{ part := 0, bases := [0, 0, 0, 0] }] } 1 0 1 64 0 (launchInit placeLaunch)

/-- Its first 64 threads declared as members, the accumulator engaged. -/
def joinW : State := world 0x1F (fun b => { crew64 b with
  conv := [convOf .declared (List.range 64) [] none], slots := List.replicate 8 1, tiles := List.replicate 4 (tileOf .engaged 1 0 64 64) })

theorem witness_JoinsFormOperations :
    Shows base (jdeclSig (fx 0xFF 0xFF 0xFF 0xFF [(56, 15), (60, 15)])) (fun i _ => (i.blk.conv.getD 15 Conv.idle).st == .idle) ∧
    Shows (world 0x1F crew64)
      (jdeclSig (fx 0xFF 0xFF 0xFF 0xFF [(56, 1)])) (fun i _ => decide (64 ≤ i.blk.threads.length)) ∧
    (∀ st ∈ [ConvState.idle, .declared, .joining, .complete], Shows (convW (convOf st [0] [] none) Tile.free)
      (jfreeSig (fx 0xFF 0xFF 0xFF 0xFF)) yes) ∧
    Shows (convW (convOf .declared [0] [] none) Tile.free) (jdeclSig (fx 0xFF 0xFF 0xFF 0xFF [(56, 1)])) yes ∧
    Shows base (mmaSig mmaX) yes ∧
    Shows (convW (convOf .declared [1] [] none) Tile.free) (mmaSig mmaX) yes ∧
    Shows (convW (convOf .joining [0, 1, 2] [1] (some mmaX)) Tile.free) (mmaSig mmaX) (fun i t =>
      joinRegFate i.blk mmaX t 0 == none) ∧
    Shows (convW (convOf .joining [0, 1] [0] (some mmaX)) Tile.free) (mmaSig (fx 4 32 64 0xFF)) yes ∧
    Shows joinW (mmaSig mmaX) (fun i t =>
      joinRegFate i.blk mmaX t 0 == none && firstJoinFate i.blk mmaX == none) ∧
    (let s := (convW (convOf .complete [0] [0] (some mmaX)) Tile.free).modMat 0 0 (fun u => { u with waiting := [.conv 0 0] })
     (s.mat 0 0).queue.length < 8 ∧ (s.mat 0 0).waiting = [.conv 0 0]) := by
  refine ⟨shows_of_meets (by decide), shows_of_meets (by decide), ?_, shows_of_meets (by decide), shows_of_meets (by decide),
    shows_of_meets (by decide), shows_of_meets (by decide), shows_of_meets (by decide), shows_of_meets (by decide), by decide⟩
  intro st h
  simp only [List.mem_cons, List.not_mem_nil, or_false] at h
  rcases h with rfl | rfl | rfl | rfl <;> exact shows_of_meets (by decide)

/-- Ridge, score, probability and plain tiles 3, 4, 5 and 6, engaged. -/
def ridgeW : State := world 0x1F (fun b => { b with
  tiles := setAt (setAt (setAt (setAt b.tiles 3 (tileOf .engaged 2 0 2 2)) 4 (tileOf .engaged 1 0 2 2)) 5 (tileOf .engaged 0 1 2 2)) 6
    (tileOf .engaged 2 0 2 2)
  slots := List.replicate 8 1 })

theorem witness_RidgeOperationsAreQueuedAndPerformed :
    (∀ st ∈ [TileState.free, .empty, .filling, .ready, .draining, .engaged],
      Shows (tileW id (tileOf st 2 0 2 2)) (trelSig (fx 3 0xFF 0xFF 0xFF)) yes) ∧
    (let s := (tileW id (tileOf .engaged 2 0 2 2)).modMat 0 0 (fun u => { u with queue := [.init 0 3] })
     s.tileNamed 0 3 = true ∧ (s.mat 0 0).queue = [.init 0 3]) ∧
    (∀ x ∈ [smxinitSig (fx 3 0xFF 0xFF 0xFF), smxmrgSig (fx 3 6 0xFF 0xFF), smxfinSig (fx 5 3 0xFF 0xFF [(61, 7)]),
      smxupdSig (fx 3 4 5 8 [(59, 7), (62, 1)])], Shows ridgeW x yes) ∧
    ((ridgeW.block? 0).map (fun b => ((b.tile 3).st, (b.tile 3).kind, (b.tile 4).kind, (b.tile 5).kind, (b.tile 5).fmt,
      (b.tile 3).lines.all (fun l => !l.marked)))) = some (.engaged, 2, 1, 0, 1, true) ∧
    fmtFate (some 1) [] true = none ∧
    ((ridgeW.block? 0).map (fun b => (b.tile 3).lines.length)) = some (tileLines 0 2 2 2) ∧
    (f32 0x7FC00000).isNan = true := by
  refine ⟨?_, by decide, shows_each (by decide), by decide, by decide, by decide, by decide⟩
  intro st h
  simp only [List.mem_cons, List.not_mem_nil, or_false] at h
  rcases h with rfl | rfl | rfl | rfl | rfl | rfl <;> exact shows_of_meets (by decide)

theorem witness_SendsPutMessagesInFlight :
    Shows base (sendSig (fx 10 4 6 7 [(51, 15)])) (fun i t => base.plat.present ((readSpec i.warp.w t 10).toNat / 8) &&
      (readSpec i.warp.w t 6).toNat % 128 == 0) ∧
    Shows (withT (vs [(10, 32768)])) (sendSig (fx 10 4 6 7)) (fun i t => decide (32768 ≤ (readSpec i.warp.w t 10).toNat)) ∧
    Shows (withT (vs [(6, 1)])) (sendSig (fx 10 4 6 7)) (fun i t => (readSpec i.warp.w t 6).toNat % 128 != 0) ∧
    Shows (withT (vs [(4, 64)])) (sendSig (fx 10 4 6 7)) (fun i t => (pairAt i.warp.w t 4).toNat % 128 != 0) ∧
    (∀ st ∈ [TileState.free, .empty, .filling, .ready, .draining, .engaged],
      Shows (tileW id (tileOf st 0 0 2 2)) (sendSig (fx 10 3 0xFF 7 [(50, 1), (63, 1)])) yes) ∧
    Shows (tileW id (tileOf .ready 2 0 2 2)) (sendSig (fx 10 3 0xFF 7 [(50, 1)])) (fun i _ => (i.blk.tile 3).kind == 2) := by
  refine ⟨shows_of_meets (by decide), shows_of_meets (by decide), shows_of_meets (by decide), shows_of_meets (by decide), ?_,
    shows_of_meets (by decide)⟩
  intro st h
  simp only [List.mem_cons, List.not_mem_nil, or_false] at h
  rcases h with rfl | rfl | rfl | rfl | rfl | rfl <;> exact shows_of_meets (by decide)

/-- A record at 0x9000 whose address the pair v8:v9 holds, and a tile. -/
def recordW (r : List Byte) (t : Tile) : State :=
  let s := tileW (addrT 0x9000) t
  { s with mem := s.mem.setBytes 0x9000 r }

/-- A receive of any source into tile 3, with a maximum length. -/
def recvRec (max : Nat) : List Byte := toBytes 4 0xFFFFFFFF ++ toBytes 8 0 ++ [0, 3, 0, 0] ++ toBytes 8 max ++ List.replicate 40 0

/-- A memory copy entry of 128 bytes to endpoint 0, or of another kind. -/
def entryRec (kind : Nat) : List Byte :=
  [BitVec.ofNat 8 kind, 0, 5, 0] ++ toBytes 4 0 ++ toBytes 8 0x9000 ++ toBytes 8 0xA000 ++ toBytes 8 128 ++ toBytes 4 0xFFFF ++
    List.replicate 28 0

theorem witness_ReceivesAndEntriesArePosted :
    (∀ st ∈ [TileState.free, .empty, .ready, .filling],
      Shows (recordW (recvRec 128) (tileOf st 0 0 2 2)) (rpostSig (fx 0xFF 8 0xFF 0xFF)) (fun i _ =>
        recvFate (recordW (recvRec 128) (tileOf st 0 0 2 2)) i.blk.bid (recvRec 128) 0x9000 false == none &&
        decide (((recordW (recvRec 128) (tileOf st 0 0 2 2)).readRecord i 0x9000 64 1).2 = .inr (recvRec 128)))) ∧
    Shows (recordW (recvRec 1) (tileOf .ready 0 0 2 2)) (rpostSig (fx 0xFF 8 0xFF 0xFF)) (fun i _ =>
        recvFate base i.blk.bid (recvRec 1) 0x9000 false == some 2) ∧
    Shows (recordW (entryRec 0) Tile.free) (wpostSig (fx 0xFF 8 4 0xFF)) (fun i _ =>
        (parseEntry base (entryRec 0)).isSome && decide (((recordW (entryRec 0) Tile.free).readRecord i 0x9000 64 1).2 = .inr (entryRec 0))) ∧
    parseEntry base (entryRec 3) = none := by
  refine ⟨?_, shows_of_meets (by decide), shows_of_meets (by decide), by decide⟩
  intro st h
  simp only [List.mem_cons, List.not_mem_nil, or_false] at h
  rcases h with rfl | rfl | rfl | rfl <;> exact shows_of_meets (by decide)

/-- A receive into the tensor whose layout record stands at 0x9080. -/
def tensorW (fmt : Nat) (f : Thread → Thread) : State :=
  let s := recordW (toBytes 4 0xFFFFFFFF ++ toBytes 8 0 ++ [1, 0, 0, 0] ++ toBytes 8 128 ++ toBytes 8 0x9080 ++ List.replicate 32 0) Tile.free
  { s with mem := s.mem.setBytes 0x9080 (layRec fmt 2) }.modBlock 0 (first f)

theorem witness_ReceivesAndEntriesArePosted_more :
    (∀ st ∈ [TileState.engaged, .draining], Shows (recordW (recvRec 128) (tileOf st 0 0 2 2)) (rpostSig (fx 0xFF 8 0xFF 0xFF)) (fun i _ =>
      recvFate (recordW (recvRec 128) (tileOf st 0 0 2 2)) i.blk.bid (recvRec 128) 0x9000 false == none)) ∧
    (∀ ok ∈ [true, false], (let s := tensorW (if ok then 0 else 0x10) (vs [(16, if ok then 0 else 1)])
      Shows s (rpostSig (fx 0xFF 8 16 0xFF)) (fun i t => match s.readRecord i 0x9000 64 1 with
        | (s1, .inr r) => recvFate s1 i.blk.bid r 0x9000 true == none && field r 12 1 == 1 &&
          (match s1.readLayout i (BitVec.ofNat 64 (field r 24 8)) with
            | (_, .inr l) => dim0Ok l (readSpec i.warp.w t 16).toNat 0 (fmtBlock l.fmt) false == ok
            | (_, .inl _) => false)
        | (_, .inl _) => false))) := by
  refine ⟨?_, ?_⟩ <;>
  · intro y h
    simp only [List.mem_cons, List.not_mem_nil, or_false] at h
    rcases h with rfl | rfl <;> exact shows_of_meets (by decide)

/-- A message of 128 bytes from die 0 to die 1, and a receive that matches it. -/
def msg0 (st : MsgState) : Msg :=
  { mid := 7, job := 0, ctx := 0, src := 0, dst := 1, tag := 5, len := 128, data := [], unread := 0, va := 0,
    tile := none, bid := some 0, lid := none, ctr := none, num := 1, entry := none, order := 0, st := st, tries := 0, retryAt := 0,
    sent := false, stalled := false, cut := false }
def recv0 (st : RecvState) : Recv :=
  { rid := 9, ctx := 0, die := 1, bid := 0, src := 0xFFFFFFFF, tag := 5, mask := 0xFFFFFFFF, tile := some 3, lay := none, origin := [],
    max := 128, status := 0, ctr := { net := false, num := 0 }, num := 1, st := st, mid := none, from_ := 0, mtag := 0, mlen := 0,
    landed := 0, flags := 0 }
def fabW (s : State) (ms : List Msg) (rs : List Recv) : State :=
  s.modFab (fun f => { f with msgs := ms, recvs := rs })

theorem witness_FabricQueriesAreAnswered :
    Shows base (rcancelSig (fx 7 0xFF 4 0xFF)) yes ∧ Shows base (rprobeSig (fx 4 8 0xFF 0xFF)) (fun _ _ => base.unexpected 0 == []) ∧
    (let s := fabW (withT (vs [(8, 0xFFFFFFFF), (9, 5), (10, 0xFFFFFFFF)])) [{ msg0 .unexpected with dst := 0 }] []
     Shows s (rprobeSig (fx 4 8 0xFF 0xFF)) (fun i _ => (s.unexpected 0).any (fun m => m.job == i.ctx.jobid && matchesMsg 0xFFFFFFFF 5 0xFFFFFFFF m))) ∧
    Shows base (fstatSig (fx 4 0xFF 0xFF 0xFF [(46, 11)])) yes ∧
    (let s := withT (fun t => { t with park := .cancel { net := false, num := 0 } 1 7 })
     ((s.block? 0).bind (fun b => b.threads[0]?)).any (fun t => t.park == .cancel { net := false, num := 0 } 1 7)) = true :=
  ⟨shows_of_meets (by decide), shows_of_meets (by decide), shows_of_meets (by decide), shows_of_meets (by decide), by decide⟩

/-- A window table at 0x10000 whose window 0 has two members of different leaves. -/
def winW : State :=
  let s := (base.modPlat (fun p => { p with winbase := 0x10000 }))
  { s with mem := (s.mem.setBytes 0x10000 (toBytes 8 0x11000 ++ toBytes 4 2 ++ [0, 1, 0, 0] ++ toBytes 8 0 ++ toBytes 8 8192 ++
      List.replicate 32 0)).setBytes 0x11000 (toBytes 4 0 ++ toBytes 4 0 ++ toBytes 4 1 ++ toBytes 4 1) }

def contrib0 (ep hop : Nat) : Contrib :=
  { gid := 0, win := 0, off := 0, round := 0, ep := ep, hop := hop, codes := List.replicate 32 0, scale := 0, ctx := 0, bid := none,
    lid := none, ctr := none, num := 0, entry := none }

def red0 (once : Option DWord) : Reduction :=
  { rid := 4, ctx := 0, die := 0, job := 0, from_ := none, pa := 0x9000, fp32 := true, codes := List.replicate 32 0, scale := 0, once := once,
    group := none, bid := none, lid := none, ctr := none, num := 0, entry := none, held := false }

def redW (once : Option DWord) : State := base.modFab (fun f => { f with reds := [red0 once] })

theorem witness_ReducingWritesApplyOnce :
    (let s := world 0x9F (fun b => first (vs [(4, 0x9000), (8, 1)]) { b with slots := List.replicate 8 0x10 })
     Shows s (rredSig (fx 16 4 0xFF 8 [(46, 3), (50, 1), (51, 17), (63, 1)])) (fun i t => redSlotFate 0x10 == none &&
       (match (s.redTarget i.ctx i.blk.site (pairAt i.warp.w t 4)).2 with | .inr (p, w) => w && !p.win | .inl _ => false))) ∧
    (let s := world 0x9F (first (vs [(4, 0x9020)]))
     Shows s (rredSig (fx 16 4 0xFF 0xFF)) (fun _ t => (t.reg64 4).toNat % 128 != 0)) ∧
    ((window? winW 0).map (fun w => (w.members, (w.members.map (fun m => m.2)).eraseDups.length))) = some ([(0, 0), (1, 1)], 2) ∧
    (let s := winW.modFab (fun f => { f with contribs := [contrib0 0 0, contrib0 0 1, contrib0 1 1] })
     (s.fab.at_ 0 0 0 0).length = 1 ∧ (s.fab.at_ 0 0 0 1).length = 2) ∧
    ((redW none).red? 4 = some (red0 none) ∧ (redW (some 5)).red? 4 = some (red0 (some 5))) ∧
    ((redW none).reported (.reduction 4) = false ∧ (redW none).mem.marked (lineOf 0x9000) = false) ∧
    (bitsAt 0x9000 40 12 = (redW none).plat.fuses.pkg ∧ ((redW (some 5)).ctxOfJob 0).isSome = true) ∧
    base.mem.wf = true ∧ base.churn = [] :=
  ⟨shows_of_meets (by decide), shows_of_meets (by decide), by decide, by decide, by decide, by decide, by decide, by decide, by decide⟩

/-- A reducing write of a pair of threads of one quad, and its hypotheses on the target. -/
def pairShows (s : State) (x : FormX) (p : DWord → Option DWord → Pa → Bool → Bool) : Bool :=
  match s.iss? with
  | none => false
  | some i => match parts (rredSig x) s.tick i with
    | [t, u] =>
      let slot := i.blk.slots.getD (x.fld 48 46) 0
      decide (u.slot / 4 = t.slot / 4) && decide ((([t, u] : List Thread).map i.blk.tindex).Nodup) &&
        (match ((s.settleRun (rredSig x) i).redTarget i.ctx i.blk.site (pairAt i.warp.w t x.a.toNat)).2 with
          | .inr (q, wide) => p slot (if x.fld 50 50 = 1 then some (pairAt i.warp.w t x.c.toNat) else none) q wide
          | .inl _ => false)
    | _ => false

/-- The first two threads of a world, issuing alone together, each with the target and the once tag in registers. -/
def quadW (leaf tag slot : Nat) : State :=
  { world leaf (fun b => { b with
    threads := (b.threads.map (fun t => { t with exited := decide (2 ≤ t.slot) || t.lane != 0 })).map (vs [(4, 0x9000), (6, tag)])
    slots := List.replicate 8 (BitVec.ofNat 64 slot) }) with
    cur := some { bid := 0, crew := 0, lane := 0, first := 0, pos := [0, 1], addr := 0x6000 } }

theorem witness_ReducingWritesApplyOnce_more :
    pairShows (quadW 0x9F 5 0x10) (fx 16 4 0xFF 6 [(50, 1)]) (fun z o q _ => redSlotFate z == none && o == some 5 && !q.win) = true ∧
    pairShows (quadW 0x9F 0 0x10) (fx 16 4 0xFF 6 [(50, 1)]) (fun z o _ _ => redSlotFate z == none && o == some 0) = true ∧
    pairShows (tableW 0 (quadW winLeaf 5 0x10)) (fx 16 4 0xFF 6 [(50, 1)]) (fun z o q _ => redSlotFate z == none && o == some 5 && q.win) = true ∧
    pairShows (quadW 0x9F 5 0) (fx 16 4 0xFF 0xFF) (fun z _ _ _ => (redSlotFate z).isSome) = true ∧
    (let s := { winW with mem := winW.mem.mark (0x10000 / 128) }
     windowMarked s 0 = true ∧ windowMarked winW 0 = false) ∧
    (let s := { redW none with mem := (redW none).mem.mark (lineOf 0x9000) }
     s.mem.marked (lineOf 0x9000) = true ∧ s.redWaits (red0 none) = (redW none).redWaits (red0 none)) ∧
    ((redW none).modPlat (fun p => { p with fuses := { p.fuses with pkg := 1 }, ports := [] })).cutOff (bitsAt 0x9000 40 12) = true := by
  decide

theorem witness_MessagesMatchOrWait :
    (let s := fabW (base.modPlat (fun p => { p with rdymap := 2 ^ 36 })) [msg0 .flight] [recv0 .posted]
     s.msg? 7 = some (msg0 .flight) ∧ s.streamBusy (msg0 .flight) = false ∧ (s.ctxOfJob 0).isSome = true ∧
       s.plat.rdymap.toNat.testBit (35 + 1) = true ∧ matchesMsg 0xFFFFFFFF 5 0xFFFFFFFF (msg0 .flight) = true) ∧
    (let s := fabW base [{ msg0 .flight with job := 3 }] []
     s.ctxOfJob 3 = none ∧ s.plat.rdymap.toNat.testBit (35 + 1) = false) ∧
    (let s := fabW base [msg0 .refused] []
     s.msg? 7 = some (msg0 .refused) ∧ (msg0 .refused).retryAt ≤ s.plat.time ∧ s.streamBusy (msg0 .refused) = false) ∧
    (let m := { msg0 (.matched 9) with len := 16512, unread := 129, va := 0xA000 }
     let s := fabW base [m] [recv0 .landing]
     s.msg? 7 = some m ∧ 16384 < m.len ∧ m.unread ≠ 0 ∧ m.src / 8 = s.plat.fuses.pkg) ∧
    (fabW base [msg0 .taken] []).sendDone (msg0 .taken) = true ∧
    ((fabW base [msg0 .taken] [recv0 .posted]).recv? 9).isSome = true := by decide

/-- A landing of the receive, done. -/
def landing0 : Copy :=
  { cid := 11, clus := 0, handle := none, die := 1, bay := 0, core := 48, bid := some 0, lid := none, ctx := 0, owner := .landing 9,
    key := 0, slot := 0, xf := .lines, src := .lines [] 0 1 [], box := [1], dsts := [], ctr := none, num := 0, stalled := false,
    abandoned := false, short := false }

/-- A work entry whose trigger counter 5 of die 0 has a threshold. -/
def ent0 (st : EntryState) (kind threshold : Nat) : WorkEnt :=
  { eid := 12, die := 0, ctx := 0, bid := none, ti := none, node := none, kind := kind, slot := 0x10, key := 0, trigger := 5,
    threshold := BitVec.ofNat 64 threshold, remote := 1, src := 0x9000, dst := 0xA000, len := 128, rctr := 0xFFFF, amount := 1,
    ctr := { net := true, num := 6 }, num := 1, st := st, abandoned := false }

theorem witness_ReceivesAndEntriesComplete :
    (let s := { fabW base [] [recv0 .landing] with copies := [landing0] }
     s.recv? 9 = some (recv0 .landing) ∧ s.copies.find? (fun o => o.owner == .landing 9) = some landing0 ∧
       landing0.isDone = true ∧ ({ landing0 with stalled := true } : Copy).isDone = false) ∧
    (∀ k ∈ [0, 1], (let s := base.modFab (fun f => { f with entries := [ent0 .armed k 0] })
      s.ent? 12 = some (ent0 .armed k 0) ∧ (s.ctx? 0).isSome = true ∧ ((s.ctx? 0).map (fun c => (c.netCtr 0 5).c)) = some 0)) ∧
    (base.entryDone (ent0 .running 0 0) = true ∧ base.entryDone (ent0 .armed 0 1) = false) ∧
    (let a : Advance := { aid := 3, job := 0, ctx := 0, die := 0, node := none, ep := 1, ctr := 5, amount := 1 }
     let s := base.modFab (fun f => { f with advances := [a, { a with aid := 4, job := 9 }] })
     s.fab.advances.find? (fun y => y.aid == 3) = some a ∧ (s.ctxOfJob 0).isSome = true ∧ s.ctxOfJob 9 = none) := by decide

/-- A counter advance to endpoint 8, of package 1. -/
def far0 (away : Bool) : Advance :=
  { aid := 3, job := 0, ctx := 0, die := 0, node := none, ep := 8, ctr := 5, amount := 1, away := away }

/-- Package 0 of two, with its ports or none. -/
def twoPkg (ports : List Port) (s : State) : State :=
  s.modPlat (fun p => { p with fuses := { p.fuses with domain := [0, 1] }, ports := ports })

theorem witness_ReceivesAndEntriesComplete_more :
    (far0 false).ep / 8 ≠ base.plat.fuses.pkg ∧
    (twoPkg [] base).cutOff 1 = true ∧ (twoPkg [Port.reset] base).cutOff 1 = false ∧ (twoPkg [] base).reported (.advance 3) = false ∧
    (∀ k ∈ [2], (ent0 .armed k 0).kind = 2) ∧ base.sendsAt 0 < 1024 := by decide

theorem witness_SendsPutMessagesInFlight_more :
    (let s := fabW base (List.replicate 1024 { msg0 .flight with src := 0 }) []
     1024 ≤ (s.fab.msgs.filter (fun m => m.src == s.endpoint 0 && !m.sent)).length) ∧
    (let e : WorkEnt := { ent0 .armed 0 0 with bid := some 0, ti := some 0 }
     let s := base.modFab (fun f => { f with entries := [e] })
     s.readyEntries 0 0 = [e] ∧ base.readyEntries 0 0 = []) := by decide

theorem witness_LinksCheckAndDeliver :
    (State.reset.plat.ports[127]? = some Port.reset ∧ State.reset.fab.outbox = []) ∧
    (let f := mkFlit 2 0 0 0 []
     f.length = 256 ∧ field f 252 4 = flitCheck 0 (f.take 252) ∧ field f 0 4 / 2 ^ 28 % 2 ^ 4 = 2) ∧
    (let x : Stream := { src := 8, dst := 0, job := 0, next := 1, early := [] }
     let k : Packet := { kind := .acknowledge, flags := 0, src := 8, dst := 0, job := 0, order := 1, field := 0, lines := [] }
     [x].find? (fun y => y.src == k.src && y.dst == k.dst && y.job == k.job) = some x ∧ k.order = x.next) ∧
    (let p := { Port.reset with fails := [16, 0] }
     p.lanes.getD 0 false = true ∧ 16 ≤ p.fails.getD 0 0 ∧ p.fails.getD 1 0 < 16 ∧ (setAt p.lanes 0 false).any id = true) := by decide

theorem witness_LinksCheckAndDeliver_more :
    (let d : DirEntry := { line := 0x9000 / 128, owner := some 8, sharers := [9], groups := [1], asked := [9] }
     let s := { twoPkg [Port.reset] base with dir := [d] }
     s.dir.find? (fun y => y.line == 0x9000 / 128) = some d ∧ s.plat.present (8 / 8) = true ∧ 8 ∉ d.asked ∧ d.owner = some 8 ∧ 9 ∈ d.asked ∧
       s.lineHolders (0x9000 / 128) false (some 9) = [8]) := by decide

/-- A world whose first thread is parked. -/
def parkW (p : Park) : State := withT (fun t => { t with park := p })

/-- The first thread of the block. -/
def t0 (s : State) (p : Thread → Bool) : Bool := ((s.block? 0).bind (fun b => b.threads[0]?)).any p

def waitA0 : WaitA := { va := 0x9000, pa := 0x9000, cond := 0, x := 0, b64 := false, pd := 3, deadline := some 0 }

def late0 : Trap := { code := .dataerr, sub := 0, addr := 0x9000, info := 4, late := true, tpc := 0x6000, epc := 0x6000 }

/-- A parked active warp and a ready pending one, of two lanes of one partition. -/
def schedW : State :=
  let s := blockW (fun b => { b with
    threads := b.threads.map (fun t => { t with park := .bar 1 0 })
    warps := b.warps ++ [{ crew := 1, lane := 1, first := 0, size := 8, w := [], stores := [], issued := 4096, parkTick := 0 }]
    })
  { s with
    blocks := s.blocks.map (fun b => { b with threads := b.threads ++ [{ b.threads.getD 0 default0 with crew := 1, lane := 1, park := .ready }] })
    scheds := [{ die := 0, core := 0, part := 0, active := [some { bid := 0, crew := 0, lane := 0, first := 0 }],
                 pending := [{ bid := 0, crew := 1, lane := 1, first := 0 }], last := [none, none, none, none] }] }
where
  default0 : Thread := (placeBlock 0).threads.headD
    { crew := 0, tid := 0, lane := 0, slot := 0, pc := 0, priv := false, exited := true, v := [], k := [], p := 0, badRegs := [],
      pend := [], results := [], lates := [], age := 0, ret := [], spilled := 0, shares := [], park := .ready, mark := false,
      tcause := 0, tpc := 0, epc := 0, taddr := 0, tinfo := 0 }

theorem witness_WaitingThreadsAndWarpsGoOn :
    t0 (withT (fun t => t.addResult (.load false) [.v 3] [])) (fun t => (t.results.find? (fun y => y.rid == 0)).any (fun r =>
      r.kind == .load false && r.late == none) && !t.exited) = true ∧
    t0 (withT (fun t => t.addResult (.load false) [.v 3] [] (some late0))) (fun t => (t.results.find? (fun y => y.rid == 0)).any (fun r =>
      r.late == some late0)) = true ∧
    t0 (parkW (.handler late0)) (fun t => t.park == .handler late0 && t.results == [] && t.lates == []) = true ∧
    t0 (withT (fun t => { t with park := .marker, lates := [(0, late0)] })) (fun t => t.lates == [(0, late0)] && t.results == []) = true ∧
    (t0 (parkW (.waita waitA0)) (fun t => t.park == .waita waitA0) = true ∧ waitaHolds (parkW (.waita waitA0)) 0 0 waitA0 = true ∧
      waitaHolds (parkW (.waita waitA0)) 0 0 { waitA0 with cond := 1 } = false ∧ 0 ≤ (parkW (.waita waitA0)).plat.time) ∧
    (t0 (parkW (.idle 0)) (fun t => t.park == .idle 0) = true ∧ (parkW (.idle 0)).plat.clocks.getD 0 0 < 1) ∧
    ((schedW.sched? 0 0 0).map (fun y => (parkedFirst schedW y, (y.pending.find? schedW.refReady).isSome,
      ((y.active[0]?).getD none).bind (fun r => (schedW.warp? r).map (fun x => x.2.issued))))) = some (some 0, true, some 0) ∧
    (let e : StoreEnt := { ti := 0, cells := [{ addr := 0x9000, mask := 0xFF, val := 1 }], sides := [], lines := [], pay := [], nblk := 0 }
     let s := base.buffer 0 0 e
     ((s.block? 0).bind (fun b => b.warps[0]?)).map (fun w => w.stores) = some [e]) := by decide

theorem witness_WaitingThreadsAndWarpsGoOn_more :
    t0 (withT (fun t => { t.addResult (.load false) [.v 3] [] with park := .sc (some 0) })) (fun t =>
      t.park == .sc (some 0) && (t.results.find? (fun y => y.rid == 0)).any (fun r => r.late == none)) = true ∧
    (let s := { parkW (.waita waitA0) with mem := (parkW (.waita waitA0)).mem.mark (lineOf 0x9000) }
     s.mem.marked (lineOf waitA0.pa) = true) ∧
    (schedW.sched? 0 0 0).map (fun y => y.active[0]?) = some (some (some { bid := 0, crew := 0, lane := 0, first := 0 })) := by decide

/-- A node record of a kind and number of predecessors. -/
def nodeRec (kind preds : Nat) : List Byte := [BitVec.ofNat 8 kind, 0] ++ toBytes 2 preds ++ List.replicate 124 0

def node0 (raw : List Byte) (st : NodeState) : Node :=
  { idx := 0, raw := raw, remaining := field raw 2 2, early := 0, chain := [], st := st, readySeq := 0, ready := 0, start := 0, finish := none, status := 0,
    worst := 0, second := false, held := false, workDone := false, lid := none }

def graph0 (n : Option Node) : Graph :=
  { nodesVa := 0xA000, count := 1, doneVa := 0, resident := n.isSome, ready := 0, start := none, finish := none, nodes := n.toList, status := 0,
    ended := false, held := false }

/-- An enabled queue descriptor: a ring of 16 entries at 0x9000. -/
def desc0 : List Byte := toBytes 8 0x9000 ++ toBytes 4 16 ++ [0, 1, 1] ++ List.replicate 17 0

def queue0 (g : Option Graph) : Queue :=
  { die := 0, q := 5, desc := desc0, enabled := true, disabling := none, head := 0, tail := 1, graph := g }

/-- A world with one queue, the front end of die 0 ready, and a graph descriptor of one node at the ring's head. -/
def queueW (g : Option Graph) : State :=
  let s := base.modPlat (fun p => { p with rdymap := 2 ^ 27 })
  { s with
    queues := [queue0 g]
    mem := s.mem.setBytes 0x9000 (toBytes 8 0xA000 ++ toBytes 4 1 ++ List.replicate 20 0) }

/-- Whether the first context reads bytes at an address. -/
def reads (s : State) (ps : List (DWord × Nat)) : Bool :=
  (s.ctx? 0).any (fun c => match (s.readPieces c 0 ps).2 with
    | .inr _ => true
    | .inl _ => false)

theorem ready_of_queueW : (queueW (some (graph0 (some (node0 (nodeRec 3 0) .ready))))).readyNodes 0 =
    [(queue0 (some (graph0 (some (node0 (nodeRec 3 0) .ready)))), node0 (nodeRec 3 0) .ready)] := by
  unfold State.readyNodes
  have h : ((queueW (some (graph0 (some (node0 (nodeRec 3 0) .ready))))).queues.filter (fun x => x.die == 0 &&
      (queueW (some (graph0 (some (node0 (nodeRec 3 0) .ready))))).runs x.ctx)) =
      [queue0 (some (graph0 (some (node0 (nodeRec 3 0) .ready))))] := by decide
  rw [h]
  exact List.mergeSort_singleton _

theorem witness_GraphsRunNodeByNode :
    (let s := queueW none
     s.queue? 0 5 = some (queue0 none) ∧ s.frontUp 0 = true ∧ (queue0 none).head ≠ (queue0 none).tail ∧ reads s [(0x9000, 32)] = true) ∧
    (let g := graph0 none
     (queueW (some g)).residentNodes 0 + g.count ≤ 65536 ∧ reads (queueW (some g)) (pieces g.nodesVa 128 g.count) = true) ∧
    ((queueW (some (graph0 (some (node0 (nodeRec 3 0) .ready))))).firstStart
      [(queue0 (some (graph0 (some (node0 (nodeRec 3 0) .ready)))), node0 (nodeRec 3 0) .ready)]).isSome = true ∧
    nodeOk (nodeRec 7 0) = false ∧ nodeOk (nodeRec 3 0) = true ∧ field (nodeRec 3 0) 0 1 = 3 ∧
    (let n := node0 (nodeRec 3 1) .running
     let s := queueW (some (graph0 (some n)))
     s.node? 0 5 0 = some n ∧ s.workOver (queue0 (some (graph0 (some n)))) n = true ∧ n.doneVa = 0 ∧
       reads s (pieces 0 4 0) = true ∧ n.preds ≠ 0 ∧ (node0 (nodeRec 3 1) .waiting).remaining ≤ 1) ∧
    (let n := node0 (nodeRec 3 0) .done
     (graph0 (some n)).resident = true ∧ (∀ m ∈ (graph0 (some n)).nodes, m.st ≠ .ready ∧ m.st ≠ .running)) := by decide

theorem witness_GraphsRunNodeByNode_more :
    nodeOk (nodeRec 4 0) = true ∧ base.epOk (field (nodeRec 4 0) 36 4) = true ∧ base.epOk 32768 = false ∧
    (let n := node0 (nodeRec 4 0) .running
     base.workOver (queue0 (some (graph0 (some n)))) n = true ∧
     (base.modFab (fun f => { f with advances := [{ far0 false with owner := some (0, 5, 0) }] })).workOver
       (queue0 (some (graph0 (some n)))) n = false) := by decide

/-- A place of one block of one crew on core 1 of die 0. -/
def pl0 : Placement :=
  { die := 0, bay := 0, spawned := false, blocks := [{ pos := 1, token := 1, crews := [{ part := 0, bases := [0, 0, 0, 0] }] }] }

/-- A launch whose only cluster waits. -/
def waitL : State :=
  { base.modPlat (fun p => { p with rdymap := 2 ^ 3 + 2 ^ 27 }) with blocks := [], launches := [{ placeLaunch with next := 0 }] }

def spawn0 : SpawnRec := { entry := 0x7000, args := List.replicate 14 0, stamp := 0 }

theorem witness_LaunchesAreAdmittedAndEnd :
    ((waitL.launch? 0).any (fun l => l.waiting waitL && waitL.placeOk l l.need l.rc.blocks pl0)) = true ∧
    ((launchS id base).launch? 0).any (fun l => !l.waiting (launchS id base)) = true ∧
    (let s := { base with launches := [{ placeLaunch with pools := [(0, List.replicate 8 spawn0)] }] }
     (s.launch? 0).map (fun l => (l.rc.crew, ((l.poolAt 0).filter (fun r => r.entry == 0x7000)).length)) = some (8, 8)) ∧
    (let s := (base.modPlat (fun p => { p with clocks := List.replicate 16 4096 }))
     spawn0.stamp + 4096 ≤ s.plat.clocks.getD 0 0 ∧ base.plat.clocks.getD 0 0 < spawn0.stamp + 4096) ∧
    ((blockW (fun b => { b with threads := b.threads.map (fun t => { t with exited := true }) })).block? 0).any (fun b =>
      b.status == .resident && b.threads.all (fun t => t.exited)) = true ∧
    (let n := node0 (nodeRec 0 0) .running
     let s := { queueW (some (graph0 (some n))) with blocks := [], launches := [{ placeLaunch with q := 5 }] }
     (s.launch? 0).any (fun l => s.launchOver l && l.rc.done == 0 && s.node? l.die l.q l.node == some n) = true) := by decide

/-- A block with a status, in a context that is suspended or not, with room for one save on die 0. -/
def savedW (st : BlockStatus) (susp : Bool) (slots : Nat) : State :=
  ((blockW (fun b => { b with status := st })).modCtx 0 (fun c => { c with suspended := susp })).modPlat (fun p => { p with
    rdymap := 2 ^ 3 + 2 ^ 27
    carves := [{ die := 0, ubufBase := 0, ubufSize := 0, saveBase := 0, saveSize := slots * 2 ^ 21, spawnBase := 0, spawnSize := 0 }] })

theorem witness_BlocksAreSavedAndRestored :
    (((savedW .resident true 1).block? 0).map (fun b => b.status) = some .resident ∧ (savedW .resident true 1).saveSlots 0 = 1 ∧
      (savedW .resident true 1).slotsUsed 0 = 0 ∧ (savedW .resident true 0).saveSlots 0 = 0) ∧
    ((0, 0) ∈ (base.modPlat (fun p => { p with spares := { p.spares with draining := [(0, 0)] } })).plat.spares.draining) ∧
    ((savedW (.saved false) false 1).block? 0).any (fun b => (savedW (.saved false) false 1).canRestore b) = true ∧
    ((savedW (.saved false) true 1).block? 0).any (fun b => !(savedW (.saved false) true 1).canRestore b) = true ∧
    (let s := { savedW (.stopped .suspend) true 1 with saveQ := [(0, 0)] }
     s.slotsUsed 0 < s.saveSlots 0 ∧ s.saveQ.find? (fun y => y.1 == 0) = some (0, 0) ∧
       (s.block? 0).map (fun b => b.status) = some (.stopped .suspend)) ∧
    (let s := (parkW (.bar 1 0)).modCtx 0 (fun c => { c with watch := [{ die := 0, since := 0 }] })
     let s1 := s.modPlat (fun p => { p with clocks := List.replicate 16 (2 ^ 32) })
     (s1.ctx? 0).any (fun c => c.watch.find? (fun y => y.die == 0) == some { die := 0, since := 0 }) = true ∧
       s1.plat.clocks.getD 0 0 = 2 ^ 32 ∧ s.plat.clocks.getD 0 0 < 2 ^ 32) := by decide

theorem witness_BlocksAreSavedAndRestored_more :
    (savedW (.stopped .suspend) true 1).blocks.filter (fun y => y.ctx == 0) =
      ((savedW (.stopped .suspend) true 1).block? 0).toList ∧
    ((savedW (.stopped .suspend) true 1).block? 0).map (fun b => b.status) = some (.stopped .suspend) := by decide

def report0 (t : RepTarget) : Report :=
  { kind := 3, code := .watchdog, sub := 0, die := 0, token := 0, addr := 0, ctr := 0, num := 0, pc := 0, thread := 0, node := 0,
    target := t }

/-- A context with a ring of 64 reports, some held and some open. -/
def ringW (held : List Report) (open_ : List (Nat × RepTarget)) (tail : Word) : State :=
  base.modCtx 0 (fun c => { c with repbase := 0x9000, repsize := 64, reptail := tail, held := held, open_ := open_ })

theorem witness_ReportsAreWrittenAndAnswered :
    base.iss?.isSome = true ∧
    (let s := ringW [report0 (.watchdog 0)] [] 0
     (s.ctx? 0).any (fun c => s.waitingReports c == [report0 (.watchdog 0)] && c.reptail - c.rephead != c.repsize &&
       c.repctr.getD 0 0 == 0 && c.open_ == []) = true) ∧
    ((ringW [] [] 64).ctx? 0).any (fun c => c.reptail - c.rephead == c.repsize) = true ∧
    ((ringW [] [(2, .block 0), (3, .copy 1)] 4).ctx? 0).any (fun c =>
      c.open_.find? (fun o => o.1 == 2) == some (2, .block 0) && c.open_.find? (fun o => o.1 == 3) == some (3, .copy 1)) = true ∧
    t0 (parkW (.host late0 (some 2))) (fun t => t.park == .host late0 (some 2) && !t.priv && t.results == [] && t.lates == []) = true ∧
    (report0 (.watchdog 0)).kind < 256 := by decide

theorem witness_HostRegistersTakeTheirValues :
    (let s := State.reset.modPage 63 (fun p => { p with repsize := 65536, repbase := 64 })
     s.ctx? 63 = none ∧ (s.plat.pages.find? (fun g => g.fn == 63)).any (fun p => isPow2In 64 65536 p.repsize.toNat &&
       p.repbase.toNat % 64 == 0) = true ∧ s.ctxs = []) ∧
    (State.reset.ctx? 0 = none ∧ isPow2In 64 65536 (FnPage.reset 0).repsize.toNat = false) ∧ (base.ctx? 0).isSome = true ∧
    ((0x1C0000000 : DWord).toNat % 2 ^ 34 ≠ 0 ∧ (0x400000000 : DWord).toNat % 2 ^ 34 = 0) ∧
    (base.ctx? 0).any (fun c => c.num == 0 && ctlOk c 16 8192 && !ctlOk c 16 1 && ctlOk c 18 2) = true ∧
    (let v : DWord := 1000 * 2 ^ 16 + 600; v.toNat / 2 ^ 48 = 0 ∧ v.toNat / 2 ^ 16 % 2 ^ 16 = 1000 ∧ v.toNat % 2 ^ 16 = 600 ∧ 15 < 16) := by
  decide

theorem witness_QueuesAndAperturesServeTheHost :
    (let s := queueW none
     s.queue? 0 5 = some (queue0 none) ∧ (queue0 none).ctx = 0 ∧ (queue0 none).entries = 16 ∧ s.frontUp 0 = true ∧
       ((16 : Word) - (queue0 none).head).toNat ≤ 16 ∧ 16 < ((17 : Word) - (queue0 none).head).toNat ∧ base.frontUp 0 = false) ∧
    ({ queue0 none with disabling := some desc0 }.graph = none) ∧
    (desc0.length = 32 ∧ field desc0 14 1 % 2 = 1 ∧ queueDescOk desc0 = true ∧ base.queue? 7 63 = none ∧
      queueDescOk (modAt desc0 12 (fun _ => 64)) = false ∧ field (modAt desc0 14 (fun _ => 0)) 14 1 % 2 = 0) ∧
    (parseCarve 7 (List.replicate 48 0 ++ [1] ++ List.replicate 15 0)).isSome = true ∧ parseCarve 0 [] = none ∧
    (base.modPlat (fun p => { p with rdymap := 2 })).staged 0 0 = false ∧
    reads base (aperturePieces 0x9000 0 8) = true ∧
    ((base.ctx? 0).any (fun c => match (base.aperturePas c [(0x9000, 8)]).2 with | .inr _ => true | .inl _ => false)) = true ∧
    ((base.ctx? 0).any (fun c => match (base.aperturePas c [(0x20000000000000, 8)]).2 with | .inr _ => false | .inl f => !f.isHold)) = true ∧
    2 ^ 34 < 2 ^ 34 - 7 + 8 := by decide

theorem witness_ResetBootAndReadiness :
    (State.reset.plat.rdymap.getLsbD 1 = false ∧ bootCheck State.reset.plat.fuses (State.reset.plat.boot.bytes 0 2048) [] = 1) ∧
    (base.modPlat (fun p => { p with rdymap := 2 })).plat.rdymap.getLsbD 1 = true ∧
    (let s := State.reset.modPlat (fun p => { p with boot := { p.boot with running := true } })
     s.plat.boot.running = true ∧ s.plat.boot.attest ≠ 1 ∧ (List.replicate 64 (0 : Byte)).length = 64) ∧
    (∃ p ∈ State.reset.plat.ports, true ∈ p.lanes) ∧
    ((savedW .resident false 1).plat.carves.any (fun c => c.die == 27 - 27)) = true ∧ State.reset.plat.carves = [] :=
  ⟨by decide, by decide, by decide, ⟨Port.reset, by decide, by decide⟩, by decide, by decide⟩

theorem witness_PowerErrorsAndSparesAreKept :
    (State.reset.plat.islands[15]? = some Island.reset ∧ Island.reset.min + 25 ≤ Island.reset.cur ∧
      (∀ i ∈ State.reset.plat.islands, i.limited = false) ∧ State.reset.plat.powerLimit = false ∧
      { Island.reset with cur := 825 }.cur + 25 ≤ Island.reset.max) ∧
    ((1000000000 : Int) ≤ 1000000000 ∧ 20000 < 20001 ∧ 15000 < 15001) ∧
    ((7, 47) ∉ State.reset.plat.spares.draining ∧ (7, 47) ∉ State.reset.plat.spares.lost) ∧
    (let s := State.reset.modPlat (fun p => { p with spares := { p.spares with draining := [(0, 24)], used := [(0, 1)] } })
     s.plat.spares.draining.find? (fun c => c.1 == 0 && c.2 / 24 == 1 && s.drained c.1 c.2) = some (0, 24) ∧
       (0, 1) ∈ s.plat.spares.used ∧ (0, 1) ∉ State.reset.plat.spares.used) ∧
    0 ∉ State.reset.plat.spares.channelsUsed := by decide

theorem witness_PowerErrorsAndSparesAreKept_more :
    (let s := nextOr base (exec (.softError (.register 0 0 4) true) base)
     base.coreErrs 0 0 = 0 ∧ s.coreErrs 0 0 = 1 ∧ (base.block? 0).any (fun b => b.die == 0 && 8 * b.bay + b.pos == 0) = true) ∧
    (let s := nextOr base (exec (.softError (.tileLine 0 3 0) true) base)
     s.coreErrs 0 0 = 1 ∧ s.plat.corrected = base.plat.corrected + 1) ∧
    (base.block? 9).isNone = true ∧
    (base.plat.spares.coreErrs.filter (fun e => e.die == 0 && e.core == 0)).length ≤ 1 ∧
    2 ∈ (base.modPlat (fun p => { p with dead := [2] })).plat.dead ∧ base.plat.slewRoom < 5000 := by decide

/-- A world in which a write of the first thread to another package is not yet acknowledged, after a fence of the domain. -/
def ackW (s : State) : State :=
  { s.modPeer (fun y => { y with writes := [{ die := 0, line := 0x9000 / 128, owner := .thread 0 0 }] }) with
    blocks := s.blocks.map (first (fun t => { t with fenced := some 3 })) }

/-- What such a thread, without a `red` to a window, waits for; its own stores do not change what it waits for. -/
def acks (s : State) (x : Sig) (i : Iss) (t : Thread) : Bool :=
  t.reds == [] && t.fenced == some 3 && s.ackOpen 0 0 && (s.settleRun x i).ackOpen 0 0

theorem acks_each {s : State} {xs : List Sig} (h : xs.all (fun x => meets s x (acks s x)) = true) :
    ∀ x ∈ xs, Shows s x (acks s x) := fun x hx => shows_of_meets (List.all_eq_true.mp h x hx)

theorem witness_acknowledgementsOutstanding :
    (∀ x ∈ [stSig (fx 5 8 0xFF 0xFF), (Gen.ofB 0x4A (fb 0 8 5)).theSig, pstSig (fx 7 8 0xFF 0xFF), atomSig (fx 4 8 6 0xFF [(53, 9)]),
      redSig (fx 0xFF 8 6 0xFF [(46, 1)]), fenceSig (fx 0xFF 0xFF 0xFF 0xFF [(46, 1), (48, 3)]), cmaintSig (fx 0xFF 8 0xFF 0xFF),
      qadvSig (fx 0xFF 0xFF 4 0xFF [(46, 1), (48, 3)]), sendSig (fx 10 4 6 7 [(49, 1)])],
      Shows (ackW (withT (addrT 0x9000))) x (acks (ackW (withT (addrT 0x9000))) x)) ∧
    (let s := ackW (tableW 0 (world winLeaf (first (addrT 0x9004))))
     Shows s (redSig (fx 0xFF 8 6 0xFF [(53, 9)])) (acks s (redSig (fx 0xFF 8 6 0xFF [(53, 9)])))) ∧
    (∀ x ∈ [tfillSig (fx 3 8 0xFF 0xFF), tstSig (fx 3 4 8 0xFF), tatomSig (fx 4 3 8 9)],
      Shows (ackW (tileW id (tileOf .ready 0 0 2 2))) x (acks (ackW (tileW id (tileOf .ready 0 0 2 2))) x)) :=
  ⟨acks_each (by decide), shows_of_meets (by decide), acks_each (by decide)⟩

/-- A thread whose address is in package 1, which a port reaches. -/
def farW (merge : Nat) : State := twoPkg [Port.reset] (world (farLeaf + merge) (first (addrT 0x9000)))

theorem witness_AtomicsReadModifyAndWrite_away :
    (∀ y ∈ [(atomSig (fx 4 8 6 0xFF [(53, 9)]), accAtom, false), (atomcasSig (fx 4 8 6 12), accAtom, false),
        (redSig (fx 0xFF 8 6 0xFF [(46, 1)]), accRed, true), (redSig (fx 0xFF 8 6 0xFF [(46, 2)]), accMerge, true)],
      Shows (farW 0x80) y.1 (fun i t => match ((farW 0x80).settleRun y.1 i).reach i (at0 8 0 i t) y.2.1 y.2.2 with
        | (s1, .inr p) => plain p && (s1.drainOf 0 0).elsewhere p.pa && !(s1.drainOf 0 0).noRoute p && t.reds == []
        | _ => false)) := by
  intro y h
  simp only [List.mem_cons, List.not_mem_nil, or_false] at h
  rcases h with rfl | rfl | rfl | rfl <;> exact shows_of_meets (by decide)
/-- What the record read of a `wpost` whose record's address is in v8:v9 answers after the warp's earlier stores. -/
def wpostRead (s : State) (a : DWord) (i : Iss) : MemFault ⊕ List Byte :=
  (((s.settleRun (wpostSig (fx 0xFF 8 4 0xFF)) i).drainOf i.blk.bid 0).readRecord i a 64 1).2

theorem witness_ReceivesAndEntriesArePosted_records :
    (let s := { withT (addrT 0x9020) with mem := base.mem.setBytes 0x9020 (entryRec 0) }
     Shows s (wpostSig (fx 0xFF 8 4 0xFF)) (fun i t => t.reds == [] && decide (0x9020 % 64 ≠ 0) &&
       decide (wpostRead s 0x9020 i = .inr (entryRec 0)))) ∧
    (∀ a ∈ [(0x9020 : Nat), 0x9000], (Shows (world 0x1B (first (addrT a))) (wpostSig (fx 0xFF 8 4 0xFF)) (fun i t => t.reds == [] &&
       match wpostRead (world 0x1B (first (addrT a))) (BitVec.ofNat 64 a) i with
       | .inl f => !f.isHold
       | .inr _ => false))) ∧
    (let s := recordW (entryRec 3) Tile.free
     Shows s (wpostSig (fx 0xFF 8 4 0xFF)) (fun i _ => (parseEntry s (entryRec 3)).isNone &&
       decide (wpostRead s 0x9000 i = .inr (entryRec 3)))) := by
  refine ⟨shows_of_meets (by decide), ?_, shows_of_meets (by decide)⟩
  intro a h
  simp only [List.mem_cons, List.not_mem_nil, or_false] at h
  rcases h with rfl | rfl <;> exact shows_of_meets (by decide)

/-- The pair of a quad, its first thread changed, at an ordinary target; `e` holds after the run's settling. -/
def quadShows (f : Thread → Thread) (g : State → State) (e : State → Iss → Bool) : Bool :=
  let s := g { quadW 0x9F 5 0x10 with blocks := (quadW 0x9F 5 0x10).blocks.map (first f) }
  pairShows s (fx 16 4 0xFF 6 [(50, 1)]) (fun z o q _ => redSlotFate z == none && o == some 5 && !q.win) &&
    s.iss?.any (fun i => e (s.settleRun (rredSig (fx 16 4 0xFF 6 [(50, 1)])) i) i)

theorem witness_ReducingWritesApplyOnce_waits :
    quadShows redT id (fun _ i => (i.blk.threads.filter (fun u => u.reds != [])).map i.blk.tindex == [0]) = true ∧
    quadShows id ackW (fun s i => s.ackOpen 0 0 && (i.blk.threads.filter (fun u => u.fenced == some 3)).map i.blk.tindex == [0]) = true ∧
    quadShows id id (fun s _ => !s.ackOpen 0 0 && !s.ackOpen 0 1) = true := by decide

/-- One row of 32 elements of a format in memory at an address. -/
def rowAt (a fmt : Nat) : Place :=
  .tensor { base := BitVec.ofNat 64 a, fmt := fmt, samp := [1, 1], ext := [32, 1], stride := [0, 128], win := [32, 1] } [0, 0]

/-- A copy of one row to one accepted place, of which one unit remains. -/
def copy0 (xf : Xf) (src dst : Place) (unit : Nat × Nat) : Copy :=
  { cid := 7, clus := 0, handle := none, die := 0, bay := 0, core := 0, bid := some 0, lid := none, ctx := 0, owner := .thread,
    key := 0, slot := 0x10, xf := xf, src := src, box := [32, 1],
    dsts := [{ place := dst, pos := none, st := .accepted, todo := [unit], turned := false, elems := 0, later := [] }],
    ctr := none, num := 0, stalled := false, abandoned := false, short := false }

/-- A world with a copy, whose block holds one row in tile 3 and one in tile 4. -/
def rowsW (leaf fmt : Nat) (c : Copy) : State :=
  { world leaf (fun b => { b with tiles := setAt (setAt b.tiles 3 (tileOf .draining 0 0 1 32)) 4 (tileOf .filling 0 fmt 1 32) }) with
    copies := [c] }

/-- The lines that a copy's first unit reads and writes in memory, and whether they are reached, in that order. -/
def unitMaps (leaf fmt : Nat) (c : Copy) (p : Option (Bool × Bool)) : Bool :=
  let s := rowsW leaf fmt c
  s.copy? 7 == some c && (s.ctx? 0).any (fun x => c.dsts.any (fun d => d.todo.any (fun u =>
    let es := (c.rowElems d u.1).filter (fun e => d.place.lineKey ((d.place.tile? s).getD Tile.free) e.2.2 == u.2)
    let lines (y : Place) (f : Nat × List Nat × List Nat → List Nat) : List Nat := match y with
      | .tensor l _ => l.linesOf (es.map f)
      | _ => []
    !c.markedSource s d u && es != [] && match s.mapLines x c.site accCopyIn (lines c.src (fun e => e.2.1)) with
      | (_, .inl _) => p == some (false, true)
      | (s1, .inr _) => match s1.mapLines x c.site accCopyOut (lines d.place (fun e => e.2.2)) with
        | (_, .inl _) => p == some (true, false)
        | (s2, .inr dm) => p == none && s2.mem.wf && s2.churn == [] && dm.all (fun y => bitsAt y.2 53 1 == 0))))

theorem witness_CopiesLandAndComplete_units :
    (∀ xf ∈ [Xf.raw, .cvt], unitMaps 0x1F 0 (copy0 xf (.tile 0 3 0 0) (rowAt 0xA000 0) (0, 0xA000 / 128)) none = true) ∧
    unitMaps 0x1F 0 (copy0 .cvt (.tile 0 3 0 0) (rowAt 0xA000 0x10) (0, 0xA000 / 128)) none = true ∧
    unitMaps 0x1F 0 (copy0 .raw (rowAt 0x9000 0) (rowAt 0xA000 0) (0, 0xA000 / 128)) none = true ∧
    unitMaps 0x1F 0 (copy0 .raw (.tile 0 3 0 0) (.tile 0 4 0 0) (0, 0)) none = true ∧
    unitMaps 0x1F 0x10 (copy0 .cvt (rowAt 0xA000 0) (.tile 0 4 0 0) (0, 0)) none = true ∧
    unitMaps 0x1B 0 (copy0 .raw (rowAt 0x9000 0) (rowAt 0xA000 0) (0, 0xA000 / 128)) (some (false, true)) = true ∧
    unitMaps 0x17 0 (copy0 .raw (rowAt 0x9000 0) (rowAt 0xA000 0) (0, 0xA000 / 128)) (some (true, false)) = true ∧
    (let c := copy0 .raw (.lines [{ data := 1, side := 0 }] 0 32 [0]) (.tile 0 4 0 0) (0, 0)
     let s := rowsW 0x1F 0 c
     c.dsts.any (fun d => c.markedSource s d (0, 0)) = true) := by decide

theorem witness_CopiesLandAndComplete_lines :
    (let c := copy0 .lines (.lines [{ data := 1, side := 0 }] 0 32 []) (.tile 0 4 0 0) (0, 0)
     c.dsts.any (fun d => !c.markedSource (rowsW 0x1F 0 c) d (0, 0)) = true) ∧
    (∀ l ∈ [(0x1F : Nat), 0x1B, 0x17], (let c := copy0 .lines (rowAt 0x9000 7) (rowAt 0xA000 7) (0, 0)
      let s := rowsW l 0 c
      ((s.ctx? 0).any (fun x => match s.mapLines x c.site accCopyIn [0x9000 / 128] with
        | (_, .inl _) => l == 0x1B
        | (s1, .inr _) => match s1.mapLines x c.site accCopyOut [0xA000 / 128] with
          | (_, .inl _) => l == 0x17
          | (s2, .inr _) => l == 0x1F && s2.mem.wf && s2.churn == [])) = true)) ∧
    (let c := copy0 .raw (.tile 0 3 0 0) (.tile 0 4 0 0) (0, 9)
     let s := rowsW 0x1F 0 c
     (s.tile 0 4).rows * (s.tile 0 4).pitch ≤ 9 ∧ c.dsts.any (fun d => !c.markedSource s d (0, 9)) = true) ∧
    fmtBlock 0x10 = true ∧ fmtBlock 1 = false ∧ (elemOf 1 0).isSome = true ∧
    (let e : ElemAt := { blk := 0, va := 5, bit := 0, side := 0 }
     e.bit = 0 ∧ 8 % 8 = 0) ∧
    (let e : ElemAt := { blk := 0, va := 5, bit := 4, side := 0 }
     0 < 4 ∧ e.bit + 4 ≤ 8) ∧
    (let c := copy0 .raw (.tile 0 3 0 0) (.tile 0 4 0 0) (0, 0)
     let d : Copy := { c with dsts := c.dsts.map (fun y => { y with todo := [] }) }
     let s := rowsW 0x1F 0 d
     s.writesOpen (.copy 7) = false ∧ d.isDone = true ∧ c.isDone = false ∧
       (s.modPeer (fun y => { y with writes := [{ die := 0, line := 0, owner := .copy 7 }] })).writesOpen (.copy 7) = true) := by decide

/-- A multicast from tile 3 to tile 4, of another shape or not, of a block that has it in some state. -/
def castW (st : TileState) (fits : Bool) (ds : DstState) : State :=
  let c := copy0 .raw (rowAt 0x9000 0) (.tile 0 4 0 0) (0, 0)
  { world 0x1F (fun b => { b with tiles := setAt (setAt b.tiles 3 (tileOf .filling 0 0 1 32)) 4 (tileOf st 0 0 (if fits then 1 else 2) 32) }) with
    copies := [{ c with handle := some 3, dsts := c.dsts.map (fun d => { d with st := ds, pos := some 1 }) }] }

theorem witness_CopiesLandAndComplete_multicasts : ∀ st ∈ [TileState.free, .engaged, .draining, .empty, .ready, .filling],
    ∀ fits ∈ [true, false], ∀ ds ∈ [DstState.coming, .held],
      (let s := castW st fits ds
       (s.copy? 7).any (fun c => c.owner == .thread && c.bid == some 0 && c.handle == some 3 && !c.abandoned &&
         c.dsts.all (fun d => d.st == ds && d.pos == some 1)) && (s.tile 0 4).st == st && decide ((s.tile 0 4).fills < 255) &&
         (decide ((s.tile 0 4).rows = (s.tile 0 3).rows) == fits) && (s.tile 0 4).level &&
         (s.block? 0).any (fun b => b.status != .ended)) = true := by decide

theorem witness_JoinsFormOperations_marked :
    (let op : MatOp := .mma 0 0 mmaX [] [] [] [] true
     op.bad = true) ∧
    (let op : MatOp := .merge 0 3 6
     (ridgeW.block? 0).any (fun b =>
       let bad : Block := { b with tiles := modAt b.tiles 6 (fun t => { t with lines := modAt t.lines 0 (fun l => { l with marked := true }) }) }
       (op.reads bad).any (fun l => bad.lineMarked l) && !(op.reads b).any (fun l => b.lineMarked l) && op.writes bad != [] &&
         (op.writes bad).all (fun l => decide (l.1 < bad.tiles.length) && decide (l.2 < ((bad.perform op).tile l.1).lines.length))) = true) := by
  decide

/-- Two packages, every function of this one up; its port has a packet to send already. -/
def upW (s : State) : State := twoPkg [{ Port.reset with queue := [[]] }] (s.modPlat (fun p => { p with rdymap := 2 ^ 44 - 1 }))

/-- A world with one reducing write to the memory of package 1. -/
def redAway (f : Reduction → Reduction) : State :=
  upW (base.modFab (fun x => { x with reds := [f { red0 none with pa := 2 ^ 40 + 0x9000 }] }))

theorem witness_ReducingWritesApplyOnce_rounds :
    (let s := winW.modFab (fun f => { f with contribs := [contrib0 0 0, { contrib0 0 0 with round := 1 }] })
     (∃ c ∈ s.fab.contribs, c.win = 0 ∧ c.off = 0 ∧ ¬ 1 ≤ c.round) ∧ (∀ c ∈ s.fab.contribs, c.win = 0 → c.off = 0 → 0 ≤ c.round)) ∧
    (windowHold winW (engineSite 0) 0 = none ∧ (windowHold winW (engineSite 1) 0).isSome = true) ∧
    ((winW.modFab (fun f => { f with contribs := [contrib0 1 0] })).fab.contribs.any (fun c =>
      c.gid == 0 && c.ep / 8 == winW.plat.fuses.pkg && c.ep % 8 == 1)) = true := by decide

theorem witness_ReducingWritesApplyOnce_away :
    (let s := redAway id
     (s.red? 4).any (fun r => !r.away && !s.reported (.reduction 4) && !s.redWaits r && !s.cutOff (bitsAt r.pa 40 12) && s.elsewhere r.pa &&
       freeSlot ((s.fab.reds.filter (fun o => o.die == r.die && o.away)).map (fun o => o.slot)) == 0) = true) ∧
    ((redAway (fun r => { r with away := true })).red? 4).any (fun r => r.away) = true ∧
    (let s := upW (base.modFab (fun x => { x with reds := [{ red0 (some 5) with from_ := some 8, job := 9 }] }))
     (s.red? 4).any (fun r => !r.away && !s.redWaits r && r.from_ == some 8 && !s.cutOff (bitsAt r.pa 40 12) && !s.elsewhere r.pa &&
       (s.ctxOfJob 9).isNone) = true) ∧
    (red0 none).held = false ∧ (red0 none).from_ = none ∧ ({ red0 none with held := true } : Reduction).held = true := by decide

theorem witness_MessagesMatchOrWait_performed :
    (let s (ws : List PeerWrite) : State :=
       { (fabW base [msg0 (.matched 9)] [recv0 .landing]).modPeer (fun y => { y with writes := ws }) with copies := [landing0] }
     (s [{ die := 1, line := 0, owner := .copy 11 }]).sendDone (msg0 (.matched 9)) = false ∧
       (s []).sendDone (msg0 (.matched 9)) = true ∧ landing0.isDone = true) ∧
    (let m := { msg0 .taken with src := 8 }
     m.sent = false ∧ (fabW base [m] []).sendDone m = true ∧ m.src / 8 ≠ base.plat.fuses.pkg ∧ m.len ≤ 16384) := by decide

/-- A context whose pages are package 1's, a record of which is on its way to its home, or not. -/
def recordFar (o : Option PeerOwner) (s : State) : State :=
  (upW { s with mem := s.mem.setBytes 0x4000 (toBytes 8 (farLeaf)) }).modPeer (fun y =>
    { y with writes := o.toList.map (fun w => { die := 0, line := 0, owner := w }) })

/-- Whether a status or completion record is written at once, or is waited for. -/
def recordOpen (s : State) (n : Nat) (o : PeerOwner) : Option Bool :=
  match s.writeRecord 0 0 0x9000 (List.replicate n 0) o with
  | (s1, none) => some (s1.writesOpen o)
  | _ => none

theorem witness_ReceivesAndEntriesComplete_records :
    (∀ o ∈ [PeerOwner.recv 9, .node 0 5 0, .graph 0 5, .launch 0],
      recordOpen base 32 o = some false ∧ recordOpen (recordFar none base) 32 o = some true ∧
      (recordFar (some o) base).writesOpen o = true ∧ base.writesOpen o = false) ∧
    (let s := fabW base [] [recv0 .recordOut]
     s.recv? 9 = some (recv0 .recordOut)) ∧
    (let e : WorkEnt := { ent0 .running 0 0 with abandoned := true }
     base.entryDone e = true ∧ base.copies.filter (fun o => o.owner == .entry 12) = [] ∧ e.abandoned = true) := by decide

theorem witness_LinksCheckAndDeliver_reads :
    (let k : Packet := { kind := .read, flags := 0, src := 8, dst := 0, job := 0, order := 0, field := 0x9000, lines := [] }
     let s := upW base
     s.packetWaits k = false ∧ ((s.touch 288).noteSharer 288 8 false).mem.marked 288 = false ∧ s.elsewhere 0x9000 = false ∧
       ({ s with mem := s.mem.mark 288 } : State).mem.marked 288 = true ∧
       ({ s with dir := [{ line := 288, owner := some 9, sharers := [], groups := [], asked := [] }] } : State).packetWaits k = true) ∧
    (let d : DirEntry := { line := 288, owner := some 8, sharers := [9], groups := [0], asked := [9] }
     let s := { upW base with dir := [d] }
     s.dir.find? (fun y => y.line == 288) = some d ∧ d.groups ≠ [] ∧ 10 / 8 ≠ s.plat.fuses.pkg ∧ s.plat.present (10 / 8) = true ∧
       10 ∉ d.asked ∧ 10 / 256 ∈ d.groups ∧ 9 ∈ d.asked ∧ 0 / 8 = s.plat.fuses.pkg) := by decide

theorem witness_WaitingThreadsAndWarpsGoOn_missing :
    (let w : WaitA := { waitA0 with pa := 2 ^ 40 + 0x9000 }
     let s := upW (parkW (.waita w))
     t0 s (fun t => t.park == .waita w) && (s.block? 0).any (fun b => b.status == .resident && s.missing b.die w.pa) = true) ∧
    (let s := savedW (.saved false) false 1
     (s.block? 0).any (fun b => b.status != .resident) = true) := by decide

/-- A launch record of one block of one crew, with a pool. -/
def launchBytes (crew pool : Nat) : List Byte :=
  toBytes 8 0x6000 ++ toBytes 2 crew ++ [1, 1, 8, 1, 0, 0] ++ toBytes 4 1 ++ toBytes 4 0 ++ toBytes 4 0 ++ toBytes 4 pool ++
    List.replicate 224 0

/-- A node whose record has a word at byte 32 and further bytes. -/
def nodeAt (kind a : Nat) (more : List Byte) : List Byte :=
  [BitVec.ofNat 8 kind, 0] ++ toBytes 2 0 ++ List.replicate 28 0 ++ toBytes 8 a ++ more ++ List.replicate (88 - more.length) 0

/-- A queue of one graph of one ready node, with bytes in memory at 0xB000. -/
def startW (raw bs : List Byte) : State :=
  let s := queueW (some (graph0 (some (node0 raw .ready))))
  { s with mem := s.mem.setBytes 0xB000 bs }

/-- Whether the records of a node are read by the first context, and satisfy a test. -/
def startReads (s : State) (raw : List Byte) (p : List Byte → Bool) : Bool :=
  nodeOk raw && (s.ctx? 0).any (fun c => match (s.readPieces c 0 (node0 raw .ready).reads).2 with
    | .inr r => p r
    | .inl _ => false)

theorem witness_GraphsRunNodeByNode_starts :
    (startReads (startW (nodeAt 0 0xB000 []) (launchBytes 8 0)) (nodeAt 0 0xB000 []) (fun r => launchRecOk r 5 0) = true ∧
     startReads (startW (nodeAt 0 0xB000 []) (launchBytes 9 0)) (nodeAt 0 0xB000 []) (fun r => !launchRecOk r 5 0) = true) ∧
    (let l : Launch := placeLaunch
     base.everFits l = true ∧ base.everFits { l with rc := { l.rc with blocks := 9 } } = false ∧ l.dieSet = [0] ∧ base.plat.carves = []) ∧
    (let raw := nodeAt 1 0x9000 (toBytes 8 0x9080)
     startReads { startW raw [] with mem := (copyW Tile.free).mem } raw (fun r =>
       match parseLayout (r.take 128), parseLayout (r.drop 128) with
       | .inr la, .inr lb => la.win == lb.win && la.fmt == lb.fmt && dim0Ok la 0 0 false false
       | _, _ => false) = true ∧
     startReads (startW raw []) raw (fun r => match parseLayout (r.take 128) with
       | .inl _ => true
       | .inr _ => false) = true) ∧
    (let raw := nodeAt 2 0xB000 (toBytes 4 1 ++ toBytes 2 6)
     startReads (startW raw (entryRec 0)) raw (fun r => (parseEntry base (r.take 64)).isSome) = true ∧
     startReads (startW raw (entryRec 3)) raw (fun r => (parseEntry base (r.take 64)).isNone) = true) ∧
    (∀ k ∈ [5, 6], startReads (startW (nodeAt k 0xB000 []) [1]) (nodeAt k 0xB000 []) (fun r => fromBytes r == 1) = true) ∧
    ((base.ctx? 0).any (fun c => match (base.readPieces c 0 (node0 (nodeAt 0 0x20000000000000 []) .ready).reads).2 with
      | .inl f => !f.f.isHold
      | .inr _ => false) = true) := by decide

/-- A launch node whose record is in the memory of package 1, or whose pool has no room. -/
def waitStart (far : Bool) : State :=
  if far then recordFar none (startW (nodeAt 0 0xB000 []) [])
  else { (startW (nodeAt 0 0xB000 []) (launchBytes 8 64)).modPlat (fun p => { p with
      carves := [{ die := 0, ubufBase := 0, ubufSize := 0, saveBase := 0, saveSize := 0, spawnBase := 2 ^ 36, spawnSize := 64 }] }) with
    launches := [{ placeLaunch with rc := { placeRec with pool := 64 }, pools := [(0, [])] }] }

theorem ready_of_waitStart (far : Bool) : (waitStart far).readyNodes 0 =
    [(queue0 (some (graph0 (some (node0 (nodeAt 0 0xB000 []) .ready)))), node0 (nodeAt 0 0xB000 []) .ready)] := by
  unfold State.readyNodes
  have h : ((waitStart far).queues.filter (fun x => x.die == 0 && (waitStart far).runs x.ctx)) =
      [queue0 (some (graph0 (some (node0 (nodeAt 0 0xB000 []) .ready))))] := by
    cases far <;> decide
  rw [h]
  exact List.mergeSort_singleton _

theorem witness_GraphsRunNodeByNode_waits :
    let y := (queue0 (some (graph0 (some (node0 (nodeAt 0 0xB000 []) .ready)))), node0 (nodeAt 0 0xB000 []) .ready)
    (∀ far ∈ [true, false], ((waitStart far).firstStart [y]).isNone = true ∧
      ([y].find? (fun z => z.1.q == 5 && z.2.idx == 0)) = some y ∧
      ((waitStart far).ctx? 0).any (fun c => match ((waitStart far).readPieces c 0 y.2.reads).2 with
        | .inl f => far && f.f.isHold
        | .inr _ => !far) = true) ∧
    (let s := waitStart false
     let l : Launch := { placeLaunch with rc := { placeRec with pool := 64 } }
     s.everFits l = true ∧ l.dieSet = [0] ∧ s.plat.carves.map (fun y => y.spawnSize) = [64] ∧
       s.launches.map (fun o => (o.pools, o.rc.pool)) = [([(0, [])], 64)]) := by decide

theorem witness_GraphsRunNodeByNode_records :
    (let n : Node := { node0 (nodeRec 3 0) .running with out := some (0, []) }
     ∀ o ∈ [none, some (PeerOwner.node 0 5 0)], (let s := recordFar o (queueW (some (graph0 (some n))))
       s.node? 0 5 0 = some n ∧ n.out = some (0, []) ∧ s.writesOpen (.node 0 5 0) = o.isSome)) ∧
    (∀ o ∈ [none, some (PeerOwner.graph 0 5)], (let g : Graph := { graph0 none with out := true }
       let s := recordFar o (queueW (some g))
       (s.queue? 0 5).any (fun x => x.graph == some g) = true ∧ g.held = false ∧ s.writesOpen (.graph 0 5) = o.isSome)) ∧
    (∀ o ∈ [none, some (PeerOwner.launch 0)],
      (let s := recordFar o { base with launches := [{ placeLaunch with out := true }] }
       (s.launch? 0).any (fun l => l.out) = true ∧ s.writesOpen (.launch 0) = o.isSome)) := by decide

theorem witness_ReportsAreWrittenAndAnswered_waits :
    (let s := (ringW [report0 (.watchdog 0)] [] 0)
     let up := s.modPlat (fun p => { p with rdymap := 2 ^ 44 - 1 })
     (s.ctx? 0).any (fun c => s.reportWaits c 1 && !s.reportWaits c 0 && !up.reportWaits c 1 &&
       s.waitingReports c == [report0 (.watchdog 0)]) = true) := by decide

theorem witness_QueuesAndAperturesServeTheHost_holds :
    (let s := recordFar none base
     (s.ctx? 0).any (fun c => (match (s.readPieces c 0 (aperturePieces 0x9000 0 8)).2 with | .inl f => f.f.isHold | .inr _ => false) &&
       (match (s.aperturePas c (aperturePieces 0x9000 0 8)).2 with | .inl _ => false | .inr _ => true)) = true) ∧
    (let s := base.modPlat (fun p => { p with rdymap := 0 })
     s.memOk ∧ s.churn = []) := ⟨by decide, by unfold State.memOk; decide, by decide⟩

theorem witness_PowerErrorsAndSparesAreKept_draining :
    (let x := { State.reset.plat.spares with draining := [(0, 24)] }
     (0, 24) ∈ x.draining ∧ (0, 24) ∉ x.lost ∧ (0, 25) ∉ x.draining) := by decide

/-- The threads of a run of two, one after another, and whether the access of each lands. -/
def bothLand (s : State) (x : Sig) (acc : Acc) (red : Bool) (p : State → Thread → Pa → Bool) : Bool :=
  s.iss?.any (fun i => (parts x s.tick i).map i.blk.tindex == [0, 1] && (parts x s.tick i).all (fun t => t.reds == [] &&
    match (s.settleRun x i).reach i (at0 4 0 i t) acc red with
    | (s1, .inr q) => p s1 t q && !s1.noRoute q && !s1.mem.marked (lineOf q.pa)
    | _ => false))

/-- A run of two threads, each with the address 0x9000 in v4:v5, on pages of a leaf. -/
def twoW (leaf : Nat) : State := quadW leaf 0 0

theorem witness_runsOfTwo :
    (∀ x ∈ [ldSig (fx 8 4 0xFF 0xFF), (Gen.ofB 0x48 (fb 0 4 8)).theSig, (Gen.ofB 0x49 (fb 0 4 8)).theSig],
      bothLand (twoW 0x1F) x accLoad false (fun _ _ p => plain p) = true) ∧
    (∀ x ∈ [stSig (fx 8 4 0xFF 0xFF), (Gen.ofB 0x4A (fb 0 4 8)).theSig, (Gen.ofB 0x4B (fb 0 4 8)).theSig],
      bothLand (twoW 0x1F) x accStore false (fun _ t p => plain p && t.fenced == none) = true) ∧
    bothLand (twoW 0x11F) (stSig (fx 16 4 0xFF 0xC0 [(53, 7)])) accStore false (fun s1 t p => p.tag != 0 && !p.sc &&
      shareAligned (tagFmt p.tag) 0x9000 && t.fenced == none && (s1.block? 0).any (fun b =>
        decide (groupFate b t 16 (blockRegs (tagFmt p.tag)) false = .go))) = true ∧
    (∀ x ∈ [atomSig (fx 8 4 6 0xFF [(53, 9)]), atomcasSig (fx 8 4 6 7 [(48, 0)])],
      bothLand (twoW 0x1F) x accAtom false (fun s1 _ p => plain p && !(s1.drainOf 0 0).elsewhere p.pa) = true) ∧
    bothLand (twoW 0x1F) (redSig (fx 0xFF 4 6 0xFF [(53, 9)])) accRed true (fun s1 _ p =>
      plain p && !(s1.drainOf 0 0).elsewhere p.pa) = true ∧
    bothLand (tableW 0 (twoW winLeaf)) (redSig (fx 0xFF 4 6 0xFF [(53, 9)])) accRed true (fun s1 _ p => p.win && p.tag == 0 &&
      (windowAt? s1 p.pa).any (fun w => w.fmt == 0)) = true := by decide

/-- The same pair, on tile 3. -/
def twoTile (t : Tile) : State :=
  let s := twoW 0x1F
  { s with blocks := s.blocks.map (fun b => { b with tiles := setAt b.tiles 3 t, grans := 1 }) }

theorem witness_runsOfTwo_tiles :
    (let s : State := { twoTile Tile.free with blocks := (twoTile Tile.free).blocks.map (fun b : Block =>
        { b with threads := b.threads.map (vs [(8, 2 * 65536 + 2)]) }) }
     s.iss?.any (fun i => (parts (tallocSig (fx 3 8 0xFF 0xFF)) s.tick i).length == 2 && (i.blk.tile 3).st == .free &&
       decide (tileLines 0 2 2 0 ≤ 32 ∧ i.blk.grans = 1)) = true) ∧
    (∀ st ∈ [TileState.empty, .ready], (twoTile (tileOf st 0 0 2 2)).iss?.any (fun i =>
      let ps := parts (tstSig (fx 3 8 16 0xFF)) (twoTile (tileOf st 0 0 2 2)).tick i
      ps.length == 2 && ps.all (fun t => t.fenced == none && tileAccessFate (tileOf st 0 0 2 2) false 1 0 0 8 0xFF == none &&
        decide (groupFate i.blk t 8 1 false = .go))) = true) ∧
    (∀ f ∈ [(0x0B, 8), (0, 8)], (twoTile (tileOf .ready 0 f.1 1 1)).iss?.any (fun i =>
      [tatomSig (fx 8 3 16 9 [(53, f.2)]), tredSig (fx 0xFF 3 16 9 [(53, f.2)])].all (fun x =>
        (parts x (twoTile (tileOf .ready 0 f.1 1 1)).tick i).map (fun t => t.fenced) == [none, none])) = true) := by decide

/-- A machine with an empty agenda in which an engine's step and a lane's issue are both possible. -/
def bothW (tick : Nat) : State :=
  let s := (placeWord State.reset []).modPlat (fun p => { p with rdymap := p.rdymap ||| 2 ^ 27 })
  { s with queues := [queue0 none], tick := tick, agenda := [] }

theorem witness_AStepTakesTheNamedEvent_choice :
    (∀ n ∈ [0, 1], (bothW n).plat.stopped = false ∧ (bothW n).agenda = [] ∧ (bothW n).pickLane.isSome = true ∧
      (bothW n).pickEvent.isSome = true) ∧
    (State.reset.agenda = [] ∧ State.reset.pickLane = none ∧ State.reset.pickEvent = none) := by decide

/-- A write of the first thread to another package's memory on an SC page, and one far atomic of it, not yet answered. -/
def scW : State := (parkW (.sc none)).modPeer (fun y =>
  { y with writes := [{ die := 0, line := 288, owner := .thread 0 0, sc := true }] })
def farAtomW (f : Thread → Thread) : State :=
  let w : PeerWaiter := { ix := 0, bid := 0, ti := 0, rid := none, ret := false, d := 0, late := late0 }
  (withT f).modPeer (fun y => { y with atoms := [{ die := 0, pa := 2 ^ 40 + 0x9000, b64 := false, waiters := [w] }] })

theorem witness_StoresAreBufferedAndPerformed_answers :
    t0 scW (fun t => t.park == .sc none) = true ∧ scW.scOpen 0 0 = true ∧ (parkW (.sc none)).scOpen 0 0 = false ∧
    (scW.writeAcked 0 288).fab.peer.writes = [] ∧
    (let w : PeerWrite := { die := 0, line := 288, owner := .thread 0 0, sc := true }
     let s := scW.modPeer (fun y => { y with writes := [w, { w with line := 289 }] })
     t0 s (fun t => t.park == .sc none) = true ∧ s.fab.peer.writes = [w, { w with line := 289 }]) := by decide

theorem witness_acquiresAndAnswers :
    Shows (farAtomW id) (fenceSig (fx 0xFF 0xFF 0xFF 0xFF)) (fun i t =>
      ((farAtomW id).settleRun (fenceSig (fx 0xFF 0xFF 0xFF 0xFF)) i).atomsOpen 0 0 && t.reds == []) ∧
    Shows (farAtomW id) (fenceSig (fx 0xFF 0xFF 0xFF 0xFF [(46, 1)])) yes ∧
    (∀ a ∈ [0, 1], Shows (farW 0x80) (atomSig (fx 4 8 6 0xFF [(51, a), (53, 9)])) (fun i _ =>
      match ((farW 0x80).settleRun (atomSig (fx 4 8 6 0xFF [(51, a), (53, 9)])) i).reach i (at0 8 0 i (i.blk.threads.headD schedW.default0)) accAtom with
      | (s1, .inr p) => !p.sc && (s1.drainOf 0 0).elsewhere p.pa
      | _ => false)) ∧
    (∀ x ∈ [sigOf [] (.pginvPage false 4), sigOf [] (.pginvContext false)],
      Shows (ackW priv) x (fun i t => t.results == [] && t.lates == [] && t.reds == [] && ((ackW priv).settleRun x i).ackOpen 0 0)) := by
  refine ⟨shows_of_meets (by decide), shows_of_meets (by decide), ?_, ?_⟩ <;>
  · intro y h
    simp only [List.mem_cons, List.not_mem_nil, or_false] at h
    rcases h with rfl | rfl <;> exact shows_of_meets (by decide)

/-- The context's launch has a pool of a size; the first thread names the entry in v8:v9. -/
def exitW (pool entry : Nat) (f : Thread → Thread) (g : Block → Block) : State :=
  launchS (fun r => { r with pool := pool }) (world 0x1F (fun b => g (first (fun t => f (vs [(8, entry)] t)) b)))

theorem witness_SpawnsAndRegisterFilesChange_exits :
    let y := sigOf [] (.spawnExit false 8)
    let has (s : State) (room : Bool) : Bool := (s.launch? 0).any (fun l => l.rc.pool != 0 && decide (l.poolUsed 0 < l.rc.pool / 64) == room)
    let apart (i : Iss) : Bool := i.blk.conv.all (fun c => !c.members.contains 0 || c.st == .idle || c.st == .declared)
    Shows (exitW 64 0x7001 id id) y (fun _ t => (t.reg64 8).toNat % 2 == 1) ∧
    Shows (exitW 0 0x7000 id id) y (fun _ _ => ((exitW 0 0x7000 id id).launch? 0).any (fun l => l.rc.pool == 0)) ∧
    Shows (exitW 64 0x7000 (fun t => t.addResult .ready [.v 3] []) id) y (fun _ t => t.reds == [] && t.results != []) ∧
    (let s := exitW 64 0x7000 id (fun b => { b with conv := setAt b.conv 0 { Conv.idle with st := .joining, members := [0] } })
     Shows s y (fun i t => t.reds == [] && t.results == [] && t.lates == [] && has s true &&
       i.blk.conv.any (fun c => c.st == .joining && c.members.contains 0))) ∧
    (∀ p ∈ [63, 64], Shows (exitW p 0x7000 id id) y (fun i t =>
      t.reds == [] && t.results == [] && t.lates == [] && apart i && has (exitW p 0x7000 id id) (p == 64))) ∧
    Shows (exitW 64 0x7000 redT id) y (fun _ t => t.reds != [] && has (exitW 64 0x7000 redT id) true) := by
  refine ⟨shows_of_meets (by decide), shows_of_meets (by decide), shows_of_meets (by decide), shows_of_meets (by decide), ?_,
    shows_of_meets (by decide)⟩
  intro p h
  simp only [List.mem_cons, List.not_mem_nil, or_false] at h
  rcases h with rfl | rfl <;> exact shows_of_meets (by decide)

/-- A stream result of the first thread that waits for row 0 of tile 3, whose line is filled or not. -/
def streamW (full : Bool) : State :=
  let t := tileOf .ready 0 0 1 1
  tileW (fun u => u.addResult (.stream 3 0 0 1 4 none (some 0)) [.v 4] [])
    { t with lines := t.lines.map (fun l => { l with fill := full }) }

theorem witness_TileElementsAreReadAndWritten_streams :
    (∀ full ∈ [true, false], t0 (streamW full) (fun t => t.results.map (fun r => r.kind) == [.stream 3 0 0 1 4 none (some 0)]) = true ∧
      ((streamW full).tile 0 3).lines.map (fun l => l.fill) = [full]) ∧
    (let t := tileOf .ready 0 0 1 1
     Shows (tileW id t) (tldSig (fx 4 3 0xFF 0xFF [(52, 1)])) (fun i _ =>
       (i.blk.tile 3).lines.all (fun l => !l.fill && !l.marked) && tileAccessFate (i.blk.tile 3) false 1 0 0 4 0xFF == none)) :=
  ⟨by decide, shows_of_meets (by decide)⟩

/-- The block of 64 declared members, changed. -/
def joinV (f : Block → Block) : State := { joinW with blocks := joinW.blocks.map f }

/-- The first 64 threads join with format slots 0 and 1. -/
def mmaY : FormX := fx 3 32 64 0xFF [(50, 1)]

theorem witness_JoinsFormOperations_fates :
    let sound (y : DWord) : Bool := slotOk y && fmtAssigned (slotFmt y)
    let sa (i : Iss) : DWord := i.blk.slots.getD 0 0
    let sb (i : Iss) : DWord := i.blk.slots.getD 1 0
    let live (i : Iss) : Bool := (List.range 64).all (fun m => (i.blk.threads[m]?).any (fun u => !u.exited))
    let formed (i : Iss) : Bool := live i && sound (sa i) && sound (sb i) && slotFmt (sa i) == 1 && slotFmt (sb i) == 1
    let slots (a b : DWord) (blk : Block) : Block := { blk with slots := setAt (setAt blk.slots 0 a) 1 b }
    let acc (t : Tile) (blk : Block) : Block := { blk with tiles := setAt blk.tiles 3 t }
    Shows (joinV (fun b => { b with threads := modAt b.threads 5 (fun t => { t with exited := true }) })) (mmaSig mmaY) (fun i _ => !live i) ∧
    (∀ y ∈ [((1 : DWord), (2 ^ 63 : DWord)), (2 ^ 63, 1)], Shows (joinV (slots y.1 y.2)) (mmaSig mmaY) (fun i _ =>
      live i && (sound (sa i) && !slotOk (sb i) || !slotOk (sa i)))) ∧
    (∀ y ∈ [((1 : DWord), (0x1F : DWord)), (0x1F, 1)], Shows (joinV (slots y.1 y.2)) (mmaSig mmaY) (fun i _ =>
      live i && (sound (sa i) && slotOk (sb i) && !fmtAssigned (slotFmt (sb i)) || slotOk (sa i) && !fmtAssigned (slotFmt (sa i))))) ∧
    Shows (joinV (slots 1 2)) (mmaSig mmaY) (fun i _ => live i && sound (sa i) && sound (sb i) && slotFmt (sa i) != slotFmt (sb i) &&
      !fmtBlock (slotFmt (sb i))) ∧
    Shows joinW (mmaSig (fx 3 32 64 0xC0 [(50, 1)])) (fun i _ => formed i && fmtWidth 1 == 16) ∧
    (∀ t ∈ [Tile.free, tileOf .ready 1 0 64 64, tileOf .engaged 0 0 64 64, tileOf .engaged 1 0 32 64], Shows (joinV (acc t)) (mmaSig mmaY)
      (fun i _ => formed i && (i.blk.tile 3).st == t.st && decide ((i.blk.tile 3).st ≠ .engaged ∨ (i.blk.tile 3).kind = 0 ∨ (i.blk.tile 3).rows < 64))) ∧
    Shows (joinV (fun b => { b with conv := [convOf .declared (List.range 32) [] none] })) (mmaSig mmaY) (fun i _ =>
      formed i && (i.blk.conv.getD 0 Conv.idle).members.length == 32 && (i.blk.tile 3).st == .engaged) ∧
    Shows (joinV (acc { tileOf .engaged 1 0 64 64 with lines := [{ data := 0, side := 0, fill := false, marked := true }] })) (mmaSig mmaY)
      (fun i _ => formed i && mmaY.fld 49 49 == 0 && ((i.blk.tile 3).windowLines 64 64).any (fun l => ((i.blk.tile 3).line l).marked)) := by
  refine ⟨shows_of_meets (by decide), ?_, ?_, shows_of_meets (by decide), shows_of_meets (by decide), ?_, shows_of_meets (by decide),
    shows_of_meets (by decide)⟩ <;>
  · intro y h
    simp only [List.mem_cons, List.not_mem_nil, or_false] at h
    rcases h with rfl | rfl | rfl | rfl <;> exact shows_of_meets (by decide)

theorem witness_JoinsFormOperations_registers :
    let reads : List Opd := [{ spec := 32, n := 16, rd := true }, { spec := 64, n := 16, rd := true }]
    let joins (f : Thread → Thread) : State := joinV (first f)
    Shows (joins (fun t => { t with v := t.v.take 64 })) (mmaSig mmaY) (fun _ t => reads.any (fun o => o.beyond t)) ∧
    Shows (joins (fun t => { t with pend := [.v 64] })) (mmaSig mmaY) (fun _ t =>
      reads.all (fun o => !o.beyond t) && reads.any (fun o => o.pending t)) ∧
    Shows (joins (fun t => { t with badRegs := [64] })) (mmaSig mmaY) (fun _ t =>
      reads.all (fun o => !o.beyond t && !o.pending t) && reads.any (fun o => o.marked [] t)) :=
  ⟨shows_of_meets (by decide), shows_of_meets (by decide), shows_of_meets (by decide)⟩

/-- The block of the four ridge tiles, changed. -/
def ridgeV (f : Block → Block) : State := { ridgeW with blocks := ridgeW.blocks.map f }

theorem witness_RidgeOperationsAreQueuedAndPerformed_fates :
    let put (h : Nat) (f : Tile → Tile) (b : Block) : Block := { b with tiles := modAt b.tiles h f }
    let lens (rows : Nat) (b : Block) : Block :=
      first (vs [(9, 7)]) { b with tiles := setAt b.tiles 7 (tileOf .engaged 0 0x0B rows 2) }
    let x := smxmrgSig (fx 3 6 0xFF 0xFF)
    let both (i : Iss) : Bool := (i.blk.tile 3).st == .engaged && (i.blk.tile 6).st == .engaged
    let kinds (i : Iss) : Bool := both i && (i.blk.tile 3).kind == 2 && (i.blk.tile 6).kind == 2
    (∀ st ∈ [TileState.free, .ready], Shows (ridgeV (put 6 (fun t => { t with st := st }))) x (fun i _ =>
      (i.blk.tile 3).st == .engaged && (i.blk.tile 6).st == st)) ∧
    Shows (ridgeV (put 6 (fun t => { t with kind := 0 }))) x (fun i _ => both i && (i.blk.tile 6).kind == 0) ∧
    Shows (ridgeV (put 6 (fun t => { t with rows := 1 }))) x (fun i _ => kinds i && (i.blk.tile 6).rows == 1) ∧
    Shows ridgeW (smxmrgSig (fx 3 3 0xFF 0xFF)) (fun i _ => kinds i) ∧
    Shows (ridgeV (put 6 (fun t => { t with lines := t.lines.map (fun l => { l with marked := true }) }))) x (fun i _ =>
      kinds i && ((MatOp.merge 0 3 6).reads i.blk).any (fun l => i.blk.lineMarked l)) ∧
    Shows ridgeW (smxfinSig (fx 5 3 0xFF 0xFF)) (fun i _ => (i.blk.tile 5).fmt == 1 && slotFmt (i.blk.slots.getD 0 0) == 1) ∧
    (∀ y ∈ [(2 ^ 63 : DWord), 0x1F, 2], Shows (ridgeV (fun b => { b with slots := List.replicate 8 y })) (smxfinSig (fx 5 3 0xFF 0xFF))
      (fun i _ => both i && i.blk.slots.getD 0 0 == y && decide ((i.blk.tile 5).fmt ≠ slotFmt y) &&
        decide (slotOk y = false ∨ fmtAssigned (slotFmt y) = false ∨ (slotOk y = true ∧ fmtAssigned (slotFmt y) = true)))) ∧
    (∀ rows ∈ [1, 2], Shows (ridgeV (lens rows)) (smxupdSig (fx 3 4 5 8 [(62, 2)])) (fun i t =>
       (readSpec i.warp.w t 9).toNat % 64 == 7 && (i.blk.tile 7).st == .engaged && (i.blk.tile 7).fmt == 0x0B && (i.blk.tile 7).rows == rows)) := by
  refine ⟨?_, shows_of_meets (by decide), shows_of_meets (by decide), shows_of_meets (by decide), shows_of_meets (by decide),
    shows_of_meets (by decide), ?_, ?_⟩ <;>
  · intro y h
    simp only [List.mem_cons, List.not_mem_nil, or_false] at h
    rcases h with rfl | rfl | rfl <;> exact shows_of_meets (by decide)

/-- A receive record by its fields: source, kind, handle, maximum, layout address and status address. -/
def recvBytes (src kind h max lay status : Nat) : List Byte :=
  toBytes 4 src ++ toBytes 8 0 ++ [BitVec.ofNat 8 kind, BitVec.ofNat 8 h, 0, 0] ++ toBytes 8 max ++ toBytes 8 lay ++ toBytes 8 status ++
    List.replicate 24 0

theorem witness_ReceivesAndEntriesArePosted_fates :
    ([recvBytes 0 2 0 128 0 0, recvBytes 0 0 64 128 0 0, recvBytes 0 1 1 128 0 0, recvBytes 0 0 0 128 8 0, recvBytes 32768 0 0 128 0 0].all
      (fun r => r.length == 64 && recvFate base 0 r 0x9000 false == some 1) = true) ∧
    ([recvBytes 32767 0 0 1 0 0, recvBytes 0xFFFFFFFF 0 0 0x100000000 0 0].all (fun r => recvFate base 0 r 0x9000 false == some 2) = true) ∧
    ([(recvBytes 0 0 0 0xFFFFFF80 0 0, 0x9020), (recvBytes 0 0 0 128 0 16, 0x9000), (recvBytes 0 1 0 128 64 0, 0x9000)].all (fun (r, va) =>
      recvFate base 0 r (BitVec.ofNat 64 va) false == some 3) = true) ∧
    recvFate (tileW id (tileOf .ready 2 0 2 2)) 0 (recvBytes 0 0 3 128 0 0) 0x9000 false = some 4 ∧
    (recvFate base 0 (recvBytes 0 0 3 128 0 0) 0x9000 true = some 5 ∧ recvFate base 0 (recvBytes 0 1 0 128 128 32) 0x9000 true = none) := by
  decide

theorem witness_FabricQueriesAreAnswered_cancels :
    (recv0 .posted).status = 0 ∧
    ({ recv0 .posted with status := 0x9000 } : Recv).status ≠ 0 ∧
    recordOpen base 32 (.recv 9) = some false ∧ recordOpen (recordFar none base) 32 (.recv 9) = some true ∧
    (match (base.writeRecord 0 0 0x20000000000000 (List.replicate 32 0) (.recv 9)).2 with
      | some f => !f.isHold
      | none => false) = true ∧
    (match ((recordFar none base).modPlat (fun p => { p with rdymap := 0 })).writeRecord 0 0 0x9000 (List.replicate 32 0) (.recv 9) with
      | (_, some f) => f.isHold
      | _ => true) = true := by decide

theorem witness_ReducingWritesApplyOnce_hops :
    ((window? (tableW 0 base) 0).map (fun w => ((w.members.map (fun m => m.2)).eraseDups.length, w.members.map (fun m => m.1)))) = some (1, [0]) ∧
    (let s := (tableW 0 base).modFab (fun f => { f with contribs := [contrib0 0 0] })
     (s.fab.at_ 0 0 0 0).map (fun c => c.ep) = [0] ∧
       s.fab.contribs.find? (fun y => y.win == 0 && y.off == 0 && y.round == 0 && y.gid == 0 && y.hop != 1 &&
         y.ep / 8 == s.plat.fuses.pkg) = some (contrib0 0 0)) ∧
    (∀ z ∈ [((0 : Byte), (contrib0 0 0).codes), (1, (contrib0 1 0).codes)], z.2.length = 32) ∧
    (0x9060 % 32 = 0 ∧ 0x9060 % 128 / 32 = 3 ∧ 3 < 8) := by decide

/-- A landing of the receive in tile 3 of `rows` lines, with a message of a length that was cut short or not. -/
def landW (len : Nat) (cut short : Bool) (flags : Word) : State :=
  { (fabW (tileW id (tileOf .filling 0 0 1 32)) [{ msg0 (.matched 9) with len := len, cut := cut, data := [{ data := 1, side := 0 }] }]
      [{ recv0 .landing with mid := some 7, mlen := len, flags := flags }]) with
    copies := [{ landing0 with short := short }] }

theorem witness_ReceivesAndEntriesComplete_truncated :
    (∀ p ∈ [(128, false, false, 0), (256, false, true, 0), (256, true, false, 0), (128, false, false, 8)],
      (let s := landW p.1 p.2.1 p.2.2.1 (BitVec.ofNat 32 p.2.2.2)
       (s.recv? 9).any (fun r => r.st == .landing && r.tile == some 3 && s.roomOf r == 1 && r.mlen == p.1) = true ∧
         (s.copies.find? (fun o => o.owner == .landing 9)).any (fun c => c.isDone && !s.writesOpen (.copy c.cid)) = true ∧
         (s.msg? 7).any (fun m => m.cut == p.2.1 && m.data.length == 1) = true)) ∧
    ((match parseLayout (layRec 0 2) with
      | .inr l => ({ recv0 .landing with tile := none, lay := some l } : Recv).lay == some l
      | .inl _ => false) = true) ∧
    (let e := ent0 .running 0 0
     let c : Copy := { landing0 with owner := .entry 12 }
     let s := { base.modFab (fun f => { f with entries := [e] }) with copies := [c] }
     s.entryDone e = true ∧ s.copies.filter (fun o => o.owner == .entry 12) = [c] ∧
       ({ s with copies := [{ c with dsts := (copy0 .lines (rowAt 0x9000 7) (rowAt 0xA000 7) (0, 0)).dsts }] } : State).entryDone e = false) := by
  decide

theorem witness_LinksCheckAndDeliver_directory :
    (let s (d : DirEntry) : State := { upW base with dir := [d] }
     let d : DirEntry := { line := 288, owner := some 8, sharers := [9], groups := [], asked := [9] }
     (s d).dir.find? (fun y => y.line == 288) = some d ∧ d.groups = [] ∧ 8 ∉ d.asked ∧ 8 / 8 ≠ (s d).plat.fuses.pkg ∧
       (s d).plat.present (8 / 8) = true) ∧
    (let d : DirEntry := { line := 288, owner := none, sharers := [], groups := [0], asked := [] }
     d.groups ≠ [] ∧ d.asked = [] ∧ 8 / 256 ∈ d.groups ∧ 8 ∉ d.asked) ∧
    (let k (pkg : Nat) : Packet :=
       { kind := .acknowledge, flags := 0, src := 8, dst := 0, job := 0, order := 0,
         field := BitVec.ofNat 64 (2 ^ 40 * pkg + 0x9000), lines := [] }
     (k 1).kind = .acknowledge ∧ (k 1).flags.toNat % 4 = 0 ∧ (k 1).field.toNat / 2 ^ 52 % 4 = 0 ∧
       (k 1).field.toNat / 2 ^ 40 % 2 ^ 12 ≠ base.plat.fuses.pkg ∧ (k 0).field.toNat / 2 ^ 40 % 2 ^ 12 = base.plat.fuses.pkg) ∧
    (let d (own : Option Nat) (sh gs : List Nat) : DirEntry := { line := 288, owner := own, sharers := sh, groups := gs, asked := [] }
     (d (some 8) [] []).take 8 false = d (some 8) [] [] ∧ (d (some 8) [9] []).take 10 false = d none [9, 8, 10] [] ∧
       ((d none [8, 9, 10, 256] []).take 11 false).groups.length = 2 ∧ 1 ∈ ((d none [] [0]).take 256 false).groups) := by decide

/-- The scheduler of two warps, its active one as given. -/
def turnW (p : Park) (issued : Nat) : State :=
  { schedW with blocks := schedW.blocks.map (fun b => { b with
      threads := b.threads.map (fun t => if t.crew == 0 then { t with park := p } else t)
      warps := b.warps.map (fun w => if w.crew == 0 then { w with issued := issued } else w) }) }

theorem witness_WaitingThreadsAndWarpsGoOn_exchanges :
    (∀ w ∈ [(Park.bar 1 0, 0, 0), (.ready, 4096, 1)], (let s := turnW w.1 w.2.1
      s.scheds.length = 1 ∧ s.scheds.all (fun y => s.sched? y.die y.core y.part == some y && y.pending.any s.refReady &&
        (parkedFirst s y).isSome == decide (w.2.2 = 0) && ((y.active[0]?).getD none).any (fun r =>
          (s.warp? r).any (fun z => z.2.issued == w.2.1))) = true ∧
        (match exec (if w.2.2 = 0 then .warpExchange 0 0 0 0 else .warpQuantumExpire 0 0 0 0) s with
          | .next t => t.scheds != s.scheds
          | _ => false) = true)) ∧
    (let s := turnW .ready 4095
     s.scheds.all (fun y => y.active.all (fun r => r.all (fun q => s.refReady q && (s.warp? q).any (fun z => decide (z.2.issued < 4096))))) = true) ∧
    (let s : State := { turnW (.bar 1 0) 0 with scheds := schedW.scheds.map (fun y => { y with pending := [] }) }
     s.scheds.all (fun y => y.pending.all (fun q => !s.refReady q)) = true) := by decide

/-- A running node of a graph of two nodes whose released list, its first or second one, is at 0xB000. -/
def listW (second : Bool) (list : Nat) (status : Nat) (is : List Nat) : State :=
  let raw := nodeRec 3 0
  let raw := (raw.take 16 ++ toBytes 8 list ++ toBytes 4 is.length ++ List.replicate 12 0 ++ toBytes 8 list ++ toBytes 4 is.length ++
    List.replicate 76 0)
  let n : Node := { node0 raw .running with second := second, status := status, workDone := true }
  let m : Node := { node0 (nodeRec 3 2) .waiting with idx := 1 }
  let s := queueW (some { graph0 (some n) with count := 2, nodes := [n, m] })
  { s with mem := s.mem.setBytes 0xB000 (is.flatMap (toBytes 4)) }

/-- What its released list reads as: `none` where it cannot be read. -/
def listRead (s : State) : Option (List Byte) :=
  (s.node? 0 5 0).bind (fun n => (s.ctx? 0).bind (fun c =>
    match (s.readPieces c 0 (pieces (BitVec.ofNat 64 (if n.second then field n.raw 40 8 else field n.raw 16 8)) 4
      (if n.second then field n.raw 48 4 else field n.raw 24 4))).2 with
    | .inr bs => some bs
    | .inl _ => none))

theorem witness_GraphsRunNodeByNode_lists :
    (∀ b ∈ [false, true], ∀ is ∈ [[0, 1, 1], [2]], (let s := listW b 0xB000 0 is
      listRead s = some (is.flatMap (toBytes 4)) ∧ (s.node? 0 5 0).any (fun n => n.st == .running && n.status == 0 && n.second == b &&
        n.out == none && n.chain == [] && !n.held && field n.raw 8 8 == 0 &&
        ((s.queue? 0 5).any (fun x => s.workOver x n && x.graph.isSome))) = true)) ∧
    listRead (listW false 0x20000000000000 0 [0]) = none ∧
    ((listW false 0xB000 2 []).node? 0 5 0).any (fun n => n.st == .running && n.status == 2) = true ∧
    (let s := listW false 0xB000 0 [1]
     (s.node? 0 5 1).any (fun m => m.st == .waiting && m.remaining == 2 && m.preds == 2) = true ∧ 1 ≠ 0) ∧
    (let n := node0 (modAt (nodeRec 3 0) 9 (fun _ => 0x90)) .running
     field n.raw 8 8 = 0x9000 ∧ field n.raw 8 8 % 64 = 0 ∧ recordOpen base 64 (.node 0 5 0) = some false ∧
       recordOpen (recordFar none base) 64 (.node 0 5 0) = some true ∧
       (match (base.writeRecord 0 0 0x20000000000000 (List.replicate 64 0) (.node 0 5 0)).2 with
        | some f => !f.isHold
        | none => false) = true) := by decide

theorem witness_LaunchesAreAdmittedAndEnd_places :
    (pl0.blocks.map (fun b => b.pos)).Pairwise (· < ·) ∧
    (∀ p ∈ pl0.blocks, (p.crews.map (fun c => c.part)).Nodup ∧ ∀ c ∈ p.crews, ∀ b ∈ c.bases, b % 8 = 0) ∧
    (let l : Launch := { placeLaunch with pools := [(0, [spawn0, { spawn0 with entry := 0x8000 }, spawn0]), (1, [])] }
     l.pools.find? (fun p => p.1 == 0) = some (0, [spawn0, { spawn0 with entry := 0x8000 }, spawn0]) ∧ (l.pools.map (fun p => p.1)).Nodup) ∧
    (let s := launchS id base
     (s.block? 0).any (fun b => b.bid == 0) = true ∧ s.copies = [] ∧ s.fab.msgs = [] ∧ s.mats.all (fun u => u.queue == []) = true ∧
       (s.blocks.all (fun x => x.bid == 0)) = true ∧ (s.launch? 0).isSome = true ∧ (placeBlock 0).clus ≠ 0xFFFFFFFF) ∧
    (let s := { launchS id base with blocks := [placeBlock 0, { placeBlock 0 with bid := 1 }], copies := [copy0 .raw (rowAt 0x9000 0) (rowAt 0xA000 0) (0, 0)] }
     (s.block? 0).any (fun b => b.bid == 0) = true ∧ (∃ c ∈ s.copies, c.bid = some 0) ∧
       (∃ x ∈ s.blocks, x.cid = 0 ∧ x.bid ≠ 0 ∧ x.status ≠ .ended)) := by decide

/-- A block with a status whose first thread is parked, with a late failure or none. -/
def lateW (st : BlockStatus) (p : Park) (late : Bool) : State :=
  blockW (fun b => { first (fun t => { t with park := p, lates := if late then [(0, late0)] else [] }) b with status := st })

theorem witness_BlocksAreSavedAndRestored_threads :
    (∀ p ∈ [Park.ready, .queued, .bar 1 0], t0 ((lateW .resident p false)) (fun t => t.park == p && t.lates == []) = true) ∧
    (let s := withT (fun t => { t.addResult .ready [.v 3] [{ dest := .v 3, val := 7 }] with park := .queued })
     t0 s (fun t => (t.results.filter (fun r => r.kind == .ready)).length == 1 && t.park == .queued) = true ∧
       ((s.mat 0 0).queue.length ≤ 8)) ∧
    (∀ p ∈ [Park.ready, .queued, .retry .results, .marker, .handler late0, .host late0 none, .bar 1 0], t0 (lateW (.saved false) p true)
      (fun t => t.park == p && t.lates != []) = true) ∧
    (∀ c ∈ [0, 1], (let w : WaitA := { waitA0 with cond := c }
      let s := lateW (.saved false) (.waita w) false
      t0 s (fun t => t.park == .waita w && t.lates == []) = true ∧ s.missing 0 w.pa = false ∧ s.mem.marked (lineOf w.pa) = false ∧
        waitaHolds s 0 0 w = decide (c = 0))) ∧
    (let s := upW (parkW (.waita { waitA0 with pa := 2 ^ 40 + 0x9000 }))
     s.missing 0 (2 ^ 40 + 0x9000) = true) ∧
    (∀ st ∈ [BlockStatus.halted, .stopped .halt, .ended, .resident, .stopped .drain, .saved true],
      ((savedW st true 1).block? 0).any (fun b => b.status == st) = true) ∧
    ((savedW (.stopped .suspend) true 1).blocks.filter (fun b => b.ctx == 0 && b.status == .stopped .suspend)).length = 1 := by decide

/-- A context whose ring has its tail at an index, with one die's counter register, and the routes of all traps or of none. -/
def putW (tail ctr : Word) (route : BitVec 32) (f : Thread → Thread) : State :=
  (withT f).modCtx 0 (fun c => { c with repbase := 0x9000, repsize := 64, reptail := tail, repctr := setAt c.repctr 0 ctr, route := route })

theorem witness_ReportsAreWrittenAndAnswered_puts :
    (let s := putW 63 0x8005 0 id
     s.mem.wf = true ∧ s.churn = [] ∧ (s.ctx? 0).any (fun c => c.repbase.toNat % 64 == 0 &&
       (c.repbase.toNat + 64 * (c.reptail.toNat % c.repsize.toNat)) / 2 ^ 53 % 2 == 0 && (c.repctr.getD 0 0).toNat.testBit 15 &&
       !s.elsewhere (0x9000 + 64 * 63)) = true) ∧
    ((putW 0 0 0 id).ctx? 0).any (fun c => !(c.repctr.getD 0 0).toNat.testBit 15 && !c.route.getLsbD (trapNum .watchdog)) = true ∧
    t0 (putW 0 0 0 (fun t => { t with park := .host late0 none })) (fun t => t.park == .host late0 none) = true ∧
    t0 (putW 0 0 0 (fun t => { t with park := .idle 100 })) (fun t => t.park == .idle 100) = true ∧
    ((putW 0 0 0 id).ctx? 0).any (fun c => c.reptail + 1 != c.rephead) = true ∧
    ({ report0 .none with kind := 1 } : Report).kind ≠ 3 := by decide

theorem witness_ReportsAreWrittenAndAnswered_targets :
    (∀ st ∈ [RecvState.recordHeld, .landing], ((fabW base [] [recv0 st]).recv? 9).any (fun r => r.st == st) = true) ∧
    ((base.modFab (fun f => { f with entries := [ent0 .running 0 0] })).ent? 12).any (fun e => e.st != .stalled) = true ∧
    ((rowsW 0x1F 0 (copy0 .raw (.tile 0 3 0 0) (.tile 0 4 0 0) (0, 0))).copy? 7).any (fun c => c.cid == 7 &&
      c.dsts.any (fun d => d.st == .accepted && d.tileRef == some (0, 4))) = true ∧
    ((rowsW 0x1F 0 (copy0 .raw (rowAt 0x9000 0) (rowAt 0xA000 0) (0, 0))).copy? 7).any (fun c => c.dsts.all (fun d => d.tileRef == none)) = true ∧
    ((fabW base [msg0 .flight] []).msg? 7).any (fun m => m.tile == none && m.st == .flight) = true ∧
    (∀ r ∈ [{ red0 none with group := some 3 }, { red0 none with entry := some 12 }, red0 none],
      (base.modFab (fun f => { f with reds := [r] })).red? 4 = some r) ∧
    (∀ st ∈ [BlockStatus.ended, .halted], ((savedW st true 1).block? 0).any (fun b => b.status == st) = true) ∧
    (let n : Node := { node0 (nodeRec 3 0) .running with status := 5 }
     (queueW (some (graph0 (some n)))).node? 0 5 0 = some n ∧ n.status ≠ 0) ∧
    t0 (parkW (.host late0 (some 2))) (fun t => t.park == .host late0 (some 2)) = true := by decide

theorem witness_HostRegistersTakeTheirValues_registers :
    (base.ctx? 0).any (fun c => !ctlOk c 16 4096 && !ctlOk c 18 1 && !ctlOk c 20 8 && !ctlOk c 21 8 && !ctlOk c 24 1 &&
      !ctlOk c 26 0x10000 && !ctlOk c 26 0x1000 && !ctlOk c 27 0x20000) = true ∧
    (base.ctx? 0).any (fun c => ctlOk c 20 (2 ^ 53 - 16) && ctlOk c 21 16 && ctlOk c 24 0 && ctlOk c 26 0x8FFF && ctlOk c 27 0x1FFFF) = true ∧
    ((ringW [] [] 0).ctx? 0).any (fun c => c.reptail == c.rephead) = true ∧ ((ringW [] [] 1).ctx? 0).any (fun c => c.reptail != c.rephead) = true := by
  decide

theorem witness_HostRegistersTakeTheirValues_graphs :
    let g : Graph := { graph0 (some { node0 (nodeAt 0 0xB000 []) .running with lid := some 0 }) with doneVa := 0xC000 }
    let s : State := { queueW (some g) with launches := [{ placeLaunch with rc := { placeRec with done := 0xC040 } }] }
    (s.queue? 0 5).any (fun x => x.ctx == 0 && x.graph.isSome) = true ∧
      (g.nodes.filter (fun n => n.st == .running && !n.workDone)).length = 1 ∧
      (s.launch? 0).any (fun l => l.rc.done == 0xC040 && !l.out) = true := by decide

theorem witness_QueuesAndAperturesServeTheHost_descriptors :
    (∀ on ∈ [0, 1], (queueW none).queue? 0 5 = some (queue0 none) ∧ (queue0 none).enabled = true ∧
      field (modAt desc0 14 (fun _ => BitVec.ofNat 8 on)) 14 1 % 2 = on ∧ (modAt desc0 14 (fun _ => BitVec.ofNat 8 on)).length = 32) ∧
    (∀ d ∈ [(desc0, true), (modAt desc0 12 (fun _ => 64), false)], field d.1 14 1 % 2 = 1 ∧ queueDescOk d.1 = d.2 ∧ base.queue? 7 63 = none) ∧
    parseCarve 7 (List.replicate 48 0 ++ [1] ++ List.replicate 15 0) =
      some { die := 7, ubufBase := 0, ubufSize := 0, saveBase := 0, saveSize := 0, spawnBase := 0, spawnSize := 0 } := by decide

end Sys2Proof.Tests
end

section
/-! SUPPORT. The values of the integer operations (R93 to R98): what the exact arithmetic of the model's tables comes to in
the operations of bit vectors. -/

namespace Sys2Proof.Machine

open Sys2Proof

/-! ### Fields and sign extension -/

theorem bitsAt_eq_div (x lo n : Nat) : bitsAt x lo n = x / 2 ^ lo % 2 ^ n := by
  rw [bitsAt, Nat.shiftRight_eq_div_pow]

theorem bitsAt_zero (x n : Nat) : bitsAt x 0 n = x % 2 ^ n := by
  rw [bitsAt, Nat.shiftRight_zero]

/-- Sign extension from a width is the signed reading of a vector of that width. -/
theorem sext_eq_toInt {n : Nat} (hn : 0 < n) (x : Nat) : sext n x = (BitVec.ofNat n x).toInt := by
  obtain ⟨k, rfl⟩ : ∃ k, n = k + 1 := ⟨n - 1, by omega⟩
  have hx : x % 2 ^ (k + 1) = x % 2 ^ k + 2 ^ k * (x / 2 ^ k % 2) := Nat.mod_pow_succ
  have hlow : x % 2 ^ k < 2 ^ k := Nat.mod_lt _ (Nat.two_pow_pos k)
  have hsign : bitsAt x (k + 1 - 1) 1 = 1 ↔ ¬ 2 * (x % 2 ^ (k + 1)) < 2 ^ (k + 1) := by
    rw [bitsAt_eq_div, Nat.add_sub_cancel, pow_one, hx, pow_succ]
    rcases Nat.mod_two_eq_zero_or_one (x / 2 ^ k) with h | h <;> rw [h] <;> omega
  unfold sext
  rw [BitVec.toInt_eq_toNat_cond, BitVec.toNat_ofNat]
  by_cases h : 2 * (x % 2 ^ (k + 1)) < 2 ^ (k + 1)
  · rw [if_neg (mt hsign.mp (not_not.mpr h)), if_pos h]
    push_cast
    rfl
  · rw [if_pos (hsign.mpr h), if_neg h]
    push_cast
    rfl

/-- Sign extension of a vector to a word (R93). -/
theorem word_sext {n : Nat} (hn : 0 < n) (x : Nat) : word (sext n x) = (BitVec.ofNat n x).signExtend 32 := by
  rw [sext_eq_toInt hn]
  rfl

/-- A field below 2 ^ l, sign-extended from its bit l − 1. -/
theorem word_sext_of_lt {l v : Nat} (hl : 0 < l) (hl32 : l ≤ 32) (hv : v < 2 ^ l) :
    word (sext l v) = if v < 2 ^ (l - 1) then BitVec.ofNat 32 v else BitVec.ofNat 32 (v + 2 ^ 32 - 2 ^ l) := by
  have hp : 2 ^ l = 2 * 2 ^ (l - 1) := by rw [← pow_succ', Nat.sub_add_cancel hl]
  have hle : 2 ^ l ≤ 2 ^ 32 := Nat.pow_le_pow_right (by omega) hl32
  rw [sext_eq_toInt hl, BitVec.toInt_eq_toNat_cond, BitVec.toNat_ofNat, Nat.mod_eq_of_lt hv]
  by_cases h : v < 2 ^ (l - 1)
  · rw [if_pos h, if_pos (by omega)]
    exact BitVec.ofInt_natCast 32 v
  · rw [if_neg h, if_neg (by omega)]
    apply BitVec.eq_of_toNat_eq
    rw [word, BitVec.toNat_ofInt, BitVec.toNat_ofNat]
    omega

/-! ### `iadd` -/

/-- A sum that no carry leaves below zero, clamped to the unsigned words (R94). -/
theorem word_clamp_sum (x y : Nat) :
    word (clamp 0 hiN32 ((x : Int) + y)) = BitVec.ofNat 32 (min (2 ^ 32 - 1) (x + y)) := by
  have h : clamp 0 hiN32 ((x : Int) + y) = ((min (2 ^ 32 - 1) (x + y) : Nat) : Int) := by
    unfold clamp hiN32
    omega
  rw [h]
  exact BitVec.ofInt_natCast 32 _

/-- A difference of words, clamped to the unsigned words (R94). -/
theorem word_clamp_difference (a b : Word) :
    word (clamp 0 hiN32 ((a.toNat : Int) - b.toNat)) = if a.toNat < b.toNat then 0 else a - b := by
  have ha := a.isLt
  have h : clamp 0 hiN32 ((a.toNat : Int) - b.toNat) = ((a.toNat - b.toNat : Nat) : Int) := by
    unfold clamp hiN32
    omega
  rw [h]
  apply BitVec.eq_of_toNat_eq
  rw [word, BitVec.ofInt_natCast, BitVec.toNat_ofNat]
  split
  · rw [Nat.sub_eq_zero_of_le (by omega)]
    rfl
  · rw [BitVec.toNat_sub_of_le (BitVec.le_def.mpr (by omega))]
    omega

/-! ### `imul` -/

/-- The high word of an exact value. -/
theorem hiWord_ofInt (z : Int) : hiWord (BitVec.ofInt 64 z) = word (z / 2 ^ 32) := by
  apply BitVec.eq_of_toNat_eq
  rw [hiWord, word, BitVec.toNat_setWidth, BitVec.toNat_ushiftRight, BitVec.toNat_ofInt, BitVec.toNat_ofInt,
    Nat.shiftRight_eq_div_pow]
  omega

theorem setWidth_eq_ofInt (a : Word) : a.setWidth 64 = BitVec.ofInt 64 a.toNat := by
  rw [BitVec.ofInt_natCast, BitVec.ofNat_toNat]

theorem signExtend_eq_ofInt (a : Word) : a.signExtend 64 = BitVec.ofInt 64 a.toInt := rfl

/-- The high words of the three products of R94. -/
theorem hiWord_mul_signed (a b : Word) : word (a.toInt * b.toInt / 2 ^ 32) = hiWord (a.signExtend 64 * b.signExtend 64) := by
  rw [signExtend_eq_ofInt, signExtend_eq_ofInt, ← BitVec.ofInt_mul, hiWord_ofInt]

theorem hiWord_mul_unsigned (a b : Word) :
    word ((a.toNat : Int) * b.toNat / 2 ^ 32) = hiWord (a.setWidth 64 * b.setWidth 64) := by
  rw [setWidth_eq_ofInt, setWidth_eq_ofInt, ← BitVec.ofInt_mul, hiWord_ofInt]

theorem hiWord_mul_mixed (a b : Word) : word (a.toInt * b.toNat / 2 ^ 32) = hiWord (a.signExtend 64 * b.setWidth 64) := by
  rw [signExtend_eq_ofInt, setWidth_eq_ofInt, ← BitVec.ofInt_mul, hiWord_ofInt]

/-! ### `iminmax` -/

/-- The smaller of two words, chosen by the strict comparison the other way round (R94). -/
theorem min_toInt_eq (a b : Word) : (if a.toInt ≤ b.toInt then a else b) = if b.slt a then b else a := by
  simp only [BitVec.slt_iff_toInt_lt, ← not_le, ite_not]

theorem min_toNat_eq (a b : Word) : (if a.toNat ≤ b.toNat then a else b) = if b.ult a then b else a := by
  simp only [BitVec.ult_iff_lt, BitVec.lt_def, ← not_le, ite_not]

/-- The larger of two words: where they are equal, either choice is the same word (R94). -/
theorem max_toInt_eq (a b : Word) : (if a.toInt ≤ b.toInt then b else a) = if a.slt b then b else a := by
  by_cases h : a.toInt = b.toInt
  · rw [BitVec.toInt_inj.mp h, ite_self, ite_self]
  · simp only [BitVec.slt_iff_toInt_lt, lt_iff_le_and_ne, ne_eq, h, not_false_eq_true, and_true]

theorem max_toNat_eq (a b : Word) : (if a.toNat ≤ b.toNat then b else a) = if a.ult b then b else a := by
  by_cases h : a.toNat = b.toNat
  · rw [BitVec.eq_of_toNat_eq h, ite_self, ite_self]
  · simp only [BitVec.ult_iff_lt, BitVec.lt_def, lt_iff_le_and_ne, ne_eq, h, not_false_eq_true, and_true]

/-! ### `shift` -/

/-- A left shift by the width or more leaves nothing, and so does a logical right shift (R94). -/
theorem shl_eq_ite (a : Word) (n : Nat) : a <<< n = if 32 ≤ n then 0 else a <<< n := by
  split
  · next h => exact BitVec.shiftLeft_eq_zero h
  · rfl

theorem shr_eq_ite (a : Word) (n : Nat) : a >>> n = if 32 ≤ n then 0 else a >>> n := by
  split
  · next h => exact BitVec.ushiftRight_eq_zero h
  · rfl

/-- An arithmetic shift by the width or more fills the word with its sign, as a shift by 31 does (R94). -/
theorem sar_eq_sar_min (a : Word) (n : Nat) : a.sshiftRight n = a.sshiftRight (min n 31) := by
  by_cases h : n ≤ 31
  · rw [Nat.min_eq_left h]
  · rw [Nat.min_eq_right (by omega)]
    ext i hi
    rw [BitVec.getElem_sshiftRight, BitVec.getElem_sshiftRight, dif_neg (by omega)]
    by_cases h0 : i = 0
    · subst h0
      rfl
    · rw [dif_neg (by omega)]

/-! ### `iunary` -/

theorem popcount_eq_length (n x : Nat) : popcount n x = ((List.range n).filter (fun k => x.testBit k)).length := by
  induction n generalizing x with
  | zero => rfl
  | succ n ih =>
    have hrest : ((List.range n).filter ((fun k => x.testBit k) ∘ Nat.succ)).length = popcount n (x / 2) := by
      rw [ih]
      simp only [Function.comp_def, Nat.succ_eq_add_one, Nat.testBit_succ]
    rw [popcount, List.range_succ_eq_map, List.filter_cons, List.filter_map, Nat.testBit_zero]
    rcases Nat.mod_two_eq_zero_or_one x with h | h
    · simp [h, hrest]
    · simp [h, hrest, Nat.add_comm]

theorem reverseBits_lt (n x : Nat) : reverseBits n x < 2 ^ n := by
  induction n generalizing x with
  | zero => exact Nat.one_pos
  | succ n ih =>
    have h := ih (x / 2)
    rw [reverseBits, Nat.shiftLeft_eq, pow_succ]
    rcases Nat.mod_two_eq_zero_or_one x with hx | hx <;> rw [hx] <;> omega

theorem testBit_reverseBits (n x i : Nat) : (reverseBits n x).testBit i = (decide (i < n) && x.testBit (n - 1 - i)) := by
  induction n generalizing x with
  | zero => simp [reverseBits]
  | succ n ih =>
    rw [reverseBits, Nat.shiftLeft_eq, Nat.mul_comm, Nat.testBit_two_pow_mul_add _ (reverseBits_lt n _)]
    by_cases h : i < n
    · rw [if_pos h, ih, show n + 1 - 1 - i = (n - 1 - i) + 1 by omega, Nat.testBit_succ]
      simp [h, Nat.lt_succ_of_lt h]
    · rw [if_neg h]
      by_cases he : i = n
      · subst he
        simp
      · have hbit : (x % 2).testBit (i - n) = false :=
          Nat.testBit_lt_two_pow (lt_of_lt_of_le (Nat.mod_lt x two_pos) (Nat.le_self_pow (by omega) 2))
        simp [hbit, show ¬ i < n + 1 by omega]

theorem ofNat_reverseBits (a : Word) : BitVec.ofNat 32 (reverseBits 32 a.toNat) = a.reverse := by
  ext i hi
  rw [← BitVec.getLsbD_eq_getElem, ← BitVec.getLsbD_eq_getElem, BitVec.getLsbD_ofNat, testBit_reverseBits,
    BitVec.getLsbD_reverse, BitVec.getMsbD_eq_getLsbD]
  simp [hi, BitVec.getLsbD]

/-- The numbers below `n` that come before the first one that a test refuses. -/
theorem takeWhile_range {n j : Nat} (p : Nat → Bool) (hj : j < n) (hp : ∀ k < j, p k = true) (hn : p j = false) :
    (List.range n).takeWhile p = List.range j := by
  obtain ⟨m, rfl⟩ : ∃ m, n = j + (m + 1) := ⟨n - j - 1, by omega⟩
  rw [List.range_add, List.takeWhile_append_of_pos (fun k hk => hp k (List.mem_range.mp hk)), List.range_succ_eq_map]
  simp [hn]

/-- The leading zeros of a word are those above its highest set bit (R95). -/
theorem clz_eq_length (a : Word) : (if a = 0 then 32 else 31 - a.toNat.log2) =
    ((List.range 32).takeWhile (fun k => !a.getLsbD (31 - k))).length := by
  by_cases h : a = 0
  · subst h
    decide
  · have h0 : a.toNat ≠ 0 := fun e => h (BitVec.eq_of_toNat_eq e)
    have hlog : a.toNat.log2 < 32 := (Nat.log2_lt h0).mpr a.isLt
    have habove : ∀ k < 31 - a.toNat.log2, (!a.getLsbD (31 - k)) = true := fun k hk => by
      have : a.toNat < 2 ^ (31 - k) := (Nat.log2_lt h0).mp (by omega)
      simp [BitVec.getLsbD, Nat.testBit_lt_two_pow this]
    have htop : (!a.getLsbD (31 - (31 - a.toNat.log2))) = false := by
      rw [show 31 - (31 - a.toNat.log2) = a.toNat.log2 by omega]
      simp [BitVec.getLsbD, Nat.testBit_log2 h0]
    rw [if_neg h, takeWhile_range _ (by omega) habove htop, List.length_range]

theorem ite_toInt_neg {α : Type} (a : Word) (x y : α) : (if a.toInt < 0 then x else y) = if a.slt 0 then x else y := by
  rw [BitVec.slt_eq_decide]
  simp

/-- The low bits of a word, sign-extended or zero-extended (R95). -/
theorem word_sext_toNat {n : Nat} (hn : 0 < n) (a : Word) : word (sext n a.toNat) = (a.setWidth n).signExtend 32 := by
  rw [word_sext hn, BitVec.ofNat_toNat]

theorem ofNat_bitsAt_zero (n : Nat) (a : Word) : BitVec.ofNat 32 (bitsAt a.toNat 0 n) = (a.setWidth n).setWidth 32 := by
  apply BitVec.eq_of_toNat_eq
  simp [bitsAt_zero]

/-! ### Bit fields -/

theorem bfLen_eq (b : Word) : bfLen b = min (b.toNat / 256 % 32) (32 - b.toNat % 32) := by
  simp [bfLen, bitsAt_eq_div]

/-- The replaced field of a number has the low bits of the new value; the bits around it stay (R98). -/
theorem testBit_putBits (x lo n y i : Nat) :
    (putBits x lo n y).testBit i = if lo ≤ i ∧ i < lo + n then y.testBit (i - lo) else x.testBit i := by
  have hlow : x % 2 ^ lo < 2 ^ lo := Nat.mod_lt _ (Nat.two_pow_pos lo)
  have hnew : y % 2 ^ n < 2 ^ n := Nat.mod_lt _ (Nat.two_pow_pos n)
  have hx : x = 2 ^ lo * (x / 2 ^ lo) + x % 2 ^ lo := (Nat.div_add_mod x (2 ^ lo)).symm
  have hq : x / 2 ^ lo = 2 ^ n * (x / 2 ^ lo / 2 ^ n) + x / 2 ^ lo % 2 ^ n := (Nat.div_add_mod _ (2 ^ n)).symm
  have hput : putBits x lo n y = 2 ^ lo * (2 ^ n * (x / 2 ^ lo / 2 ^ n) + y % 2 ^ n) + x % 2 ^ lo := by
    rw [putBits, bitsAt_eq_div, Nat.shiftLeft_eq, Nat.shiftLeft_eq]
    nth_rewrite 1 [hx]
    nth_rewrite 1 [hq]
    rw [Nat.mul_add, Nat.mul_add, Nat.mul_comm (x / 2 ^ lo % 2 ^ n), Nat.mul_comm (y % 2 ^ n)]
    omega
  rw [hput, Nat.testBit_two_pow_mul_add _ hlow, Nat.testBit_two_pow_mul_add _ hnew]
  by_cases h1 : i < lo
  · rw [if_pos h1, if_neg (by omega), Nat.testBit_mod_two_pow]
    simp [h1]
  · rw [if_neg h1]
    by_cases h2 : i < lo + n
    · rw [if_pos (by omega), if_pos ⟨by omega, h2⟩, Nat.testBit_mod_two_pow]
      simp [show i - lo < n by omega]
    · rw [if_neg (by omega), if_neg (by omega), Nat.testBit_div_two_pow, Nat.testBit_div_two_pow]
      congr 1
      omega

/-- The word of ones in bits [pos + l − 1 : pos]. -/
def fieldMask (pos l : Nat) : Word := BitVec.ofNat 32 ((2 ^ l - 1) * 2 ^ pos)

theorem getLsbD_fieldMask (pos l i : Nat) :
    (fieldMask pos l).getLsbD i = (decide (i < 32) && decide (pos ≤ i ∧ i < pos + l)) := by
  rw [fieldMask, BitVec.getLsbD_ofNat, Nat.testBit_mul_two_pow, Nat.testBit_two_pow_sub_one]
  by_cases h : pos ≤ i
  · simp [h, show i - pos < l ↔ i < pos + l by omega]
  · simp [h]

/-- Replacing a field, written with the mask of the field (R98). -/
theorem ofNat_putBits (d a : Word) (pos l : Nat) :
    BitVec.ofNat 32 (putBits d.toNat pos l a.toNat) = (d &&& ~~~fieldMask pos l) ||| (a <<< pos &&& fieldMask pos l) := by
  ext i hi
  simp only [← BitVec.getLsbD_eq_getElem, BitVec.getLsbD_ofNat, BitVec.getLsbD_or, BitVec.getLsbD_and, BitVec.getLsbD_not,
    BitVec.getLsbD_shiftLeft, testBit_putBits, getLsbD_fieldMask, hi]
  by_cases h : pos ≤ i ∧ i < pos + l
  · simp [h, BitVec.getLsbD, not_lt.mpr h.1]
  · simp [h, BitVec.getLsbD]

end Sys2Proof.Machine
end

section
/-! SUPPORT. Narrow register instructions: what one that writes a v register at once gives each performing thread, and what it
makes of a thread that a decode check or a pending register stops (R41, R47, R51). -/

namespace Sys2Proof.Machine

open Sys2Proof

/-! ### Narrow fields -/

/-- A field of six bits names a v register (R36). -/
theorem narrow_lt (n : BitVec 6) : n.toNat < 128 := Nat.lt_trans n.isLt (by decide)

@[simp] theorem specIsV_narrow (n : BitVec 6) : specIsV n.toNat = true := by
  simpa [specIsV] using narrow_lt n

@[simp] theorem specIsW_narrow (n : BitVec 6) : specIsW n.toNat = false := by
  have := narrow_lt n
  simp [specIsW]
  omega

@[simp] theorem Thread.rd_narrow (t : Thread) (w : List Word) (n : BitVec 6) : (t.rd w).r n.toNat = t.reg n.toNat :=
  readSpec_v w t (narrow_lt n)

/-- An operand of one v register, permitted and aligned. -/
def Opd.IsNarrow (o : Opd) (n : BitVec 6) : Prop := o.spec = n.toNat ∧ o.v = true ∧ o.n = 1 ∧ o.al = 1

theorem src_isNarrow (n : BitVec 6) : (src n.toNat).IsNarrow n := ⟨rfl, rfl, rfl, rfl⟩
theorem dst_isNarrow (n : BitVec 6) : (dst n.toNat).IsNarrow n := ⟨rfl, rfl, rfl, rfl⟩
theorem srcDst_isNarrow (n : BitVec 6) : (srcDst n.toNat).IsNarrow n := ⟨rfl, rfl, rfl, rfl⟩

theorem Opd.IsNarrow.classOk {o : Opd} {n : BitVec 6} (h : o.IsNarrow n) : o.classOk = true := by
  obtain ⟨hs, hv, -, -⟩ := h
  simp [Opd.classOk, hs, hv]

theorem Opd.IsNarrow.alignOk {o : Opd} {n : BitVec 6} (h : o.IsNarrow n) : o.alignOk = true := by
  obtain ⟨-, -, -, ha⟩ := h
  simp [Opd.alignOk, ha, Nat.mod_one]

theorem Opd.IsNarrow.specIsW {o : Opd} {n : BitVec 6} (h : o.IsNarrow n) : specIsW o.spec = false := by
  rw [h.1, specIsW_narrow]

theorem Opd.IsNarrow.beyond {o : Opd} {n : BitVec 6} (h : o.IsNarrow n) {t : Thread} (ht : n.toNat < t.v.length) :
    o.beyond t = false := by
  obtain ⟨hs, -, hn, -⟩ := h
  simp [Opd.beyond, hs, hn]
  omega

theorem Opd.IsNarrow.pending {o : Opd} {n : BitVec 6} (h : o.IsNarrow n) (t : Thread) :
    o.pending t = t.pend.contains (.v n.toNat) := by
  obtain ⟨hs, -, hn, -⟩ := h
  simp [Opd.pending, Opd.names, hs, hn]

/-! ### Results at once -/

/-- A narrow instruction that writes one v register with a value of the thread's own registers. -/
theorem Results.of_narrow {ins : Instr} {x : Sig} {sw : Bool} {d : BitVec 6} (hv : x.vclass = false) (hs : x.sw = sw)
    (hl : x.len = 4) (e : Rd → Word) (val : Thread → Word)
    (he : ∀ s, exec ins s = .next (s.runOwn x fun r => wr d.toNat (e r)))
    (hr : ∀ t w, e (t.rd w) = val t) : Results ins x (fun _ _ t => (t.setV d.toNat (val t)).advance sw 4) := by
  refine Results.of_v (narrow_lt d) hv (fun _ i _ t => e (t.rd i.warp.w)) he ?_
  intro s i ti t _
  rw [hr, hs, hl]

/-! ### Fates -/

/-- Whatever the fates of its threads, an instruction that writes a v register leaves all of its block but the threads. -/
theorem State.runOwn_narrow_block {s : State} {i : Iss} (hi : s.iss? = some i) (x : Sig) (d : BitVec 6) (e : Rd → Word) :
    ∃ b', (s.runOwn x fun r => wr d.toNat (e r)).block? i.blk.bid = some b' ∧ b' = { i.blk with threads := b'.threads } := by
  cases hp : parts x s.tick i with
  | nil =>
    have hlocal : (s.runOwn x fun r => wr d.toNat (e r)) =
        s.runLocal x fun j t => t.effect x (wr d.toNat (e (t.rd j.warp.w))) := by
      rw [State.runOwn, State.runAlu, State.withIss_some hi, hp]
    rw [hlocal]
    exact ⟨_, State.runLocal_block hi x _, rfl⟩
  | cons p ps =>
    have hkeep : ∀ w : Warp, w.writes (wr d.toNat (e (p.rd i.warp.w))) = w := fun w => by
      rw [wr_v (narrow_lt d)]
      exact Warp.writes_none w _ (by simp [vWrite])
    refine ⟨_, State.runAlu_block hi hp _, ?_⟩
    simp only [hkeep, ite_self, List.map_id']

/-- A thread of the run that a check stops takes its trap, and nothing else changes but threads of the run. -/
theorem MakesThread.of_narrow_trap {ins : Instr} {x : Sig} {d : BitVec 6} {s : State} {i : Iss} {ti : Nat} {t : Thread}
    {code : TrapCode} {sub : Nat} {info : Word} (e : Rd → Word)
    (he : exec ins s = .next (s.runOwn x fun r => wr d.toNat (e r))) (hi : s.iss? = some i)
    (ht : i.blk.threads[ti]? = some t) (hr : i.run.has t = true) (hf : fateOf x s.tick i.blk t = .trap code sub info) :
    MakesThread ins s i ti (t.fault i.ctx code sub 0 info) := by
  have hthread : (s.runOwn x fun r => wr d.toNat (e r)).thread? i.blk.bid ti = some (t.fault i.ctx code sub 0 info) := by
    rw [State.runOwn, State.runAlu_thread hi, State.runLocal_thread hi, ht]
    simp [hr, hf, Thread.settle]
  obtain ⟨b', hb, hw⟩ := State.runOwn_narrow_block hi x d e
  obtain ⟨hframe, hothers⟩ := State.runAlu_onlyBlock hi x fun i _ t => wr d.toNat (e (t.rd i.warp.w))
  have hget : ∀ n, (s.runOwn x fun r => wr d.toNat (e r)).thread? i.blk.bid n = b'.threads[n]? := fun n => by
    rw [State.thread?, hb]
    rfl
  refine ⟨_, he, hframe, hothers, b', hb, hw, ?_, fun n u hu ho => ?_⟩
  · rw [← hget, hthread]
  · rw [← hget]
    exact State.runAlu_outside hi x _ n u hu ho

/-- A word that fails one of the checks 4 to 9 of R47 traps with the first check's subcode. -/
theorem fateOf_illop {x : Sig} {n : Nat} (hm : x.majorOk = true) (hs : x.sys = false) (hf : x.fate = some n) (tick : Nat)
    (b : Block) (t : Thread) : fateOf x tick b t = .trap .illop n 0 := by
  simp [fateOf, decodeFate, hm, hs, hf]

theorem pickSpec_nil (tick : Nat) : pickSpec tick [] = none := rfl

/-- Where every offending operand names one register, `$tinfo` names it. -/
theorem pickSpec_of_forall_eq {xs : List Nat} {n : Nat} (tick : Nat) (h0 : xs ≠ []) (h : ∀ y ∈ xs, y = n) :
    pickSpec tick xs = some n := by
  have hdups : xs.eraseDups = [n] := by
    cases xs with
    | nil => exact absurd rfl h0
    | cons y ys =>
      have hys : ys.filter (fun z => !z == y) = [] := by
        simpa [List.filter_eq_nil_iff, h y] using fun z hz => h z (List.mem_cons_of_mem y hz)
      rw [List.eraseDups_cons, hys, h y (List.mem_cons_self ..)]
      rfl
  rw [pickSpec, hdups]

/-- No operand meets a test: no specifier offends. -/
theorem Sig.offenders_eq_nil {x : Sig} {f : Opd → Bool} (h : ∀ o ∈ x.ops, f o = false) : x.offenders f = [] := by
  rw [Sig.offenders, List.filter_eq_nil_iff.mpr (fun o ho => by simp [h o ho])]
  rfl

/-- A thread without a guard, none of whose operands lies beyond its count and whose pending sources are all one register,
traps HAZARD (read) with that register (R51). -/
theorem threadFate_pending_source {x : Sig} {t : Thread} {n : Nat} (hg : x.g = 7) (hng : x.ng = false) (hp : x.predR = [])
    (hb : ∀ o ∈ x.ops, o.beyond t = false) (hsome : ∃ o ∈ x.ops, o.rd = true ∧ o.pending t = true)
    (hall : ∀ o ∈ x.ops, o.rd = true → o.pending t = true → o.spec = n) (tick : Nat) (lent : List RegName)
    (badW : List Nat) : threadFate x tick lent badW t = .trap .hazard 1 (BitVec.ofNat 32 n) := by
  have hbeyond : pickSpec tick (x.offenders (·.beyond t)) = none := by
    rw [Sig.offenders_eq_nil hb, pickSpec_nil]
  have hpend : pickSpec tick (x.offenders (fun o => o.rd && o.pending t) ++ x.predR.filter (fun n => t.pend.contains (.p n))) =
      some n := by
    rw [hp, List.filter_nil, List.append_nil]
    apply pickSpec_of_forall_eq
    · obtain ⟨o, ho, hr, hq⟩ := hsome
      simp only [Sig.offenders, ne_eq, List.map_eq_nil_iff, List.filter_eq_nil_iff, not_forall]
      exact ⟨o, ho, by simp [hr, hq]⟩
    · intro y hy
      obtain ⟨o, ho, rfl⟩ := List.mem_map.mp hy
      obtain ⟨hmem, htest⟩ := List.mem_filter.mp ho
      obtain ⟨hr, hq⟩ := Bool.and_eq_true_iff.mp htest
      exact hall o hmem hr hq
  have hguard : readPred t 7 ≠ false := by simp [readPred]
  simp only [threadFate, hg, hng, ne_eq, not_true_eq_false, false_and, if_false, if_neg hguard, hbeyond, hpend]

/-- A narrow instruction whose fields are all in order passes the decode checks (R47). -/
theorem Sig.fate_narrow {x : Sig} (hm : x.minorOk = true) (hr : x.resOk = true) (hs : x.specOk = true) (hg : x.g = 7)
    (hng : x.ng = false) (ho : ∀ o ∈ x.ops, ∃ n, o.IsNarrow n) : x.fate = none := by
  have hclass : x.ops.all Opd.classOk = true := List.all_eq_true.mpr fun o h => (ho o h).elim fun _ hn => hn.classOk
  have halign : x.ops.all Opd.alignOk = true := List.all_eq_true.mpr fun o h => (ho o h).elim fun _ hn => hn.alignOk
  have hunif : x.uniformOk = true := by
    have : x.ops.any (fun o => o.wr && Machine.specIsW o.spec) = false :=
      List.any_eq_false.mpr fun o h => (ho o h).elim fun _ hn => by simp [hn.specIsW]
    simp [Sig.uniformOk, this]
  have hguard : x.guardOk = true := by simp [Sig.guardOk, Sig.always, hg, hng]
  simp [Sig.fate, hm, hr, hs, hclass, halign, hunif, hguard]

/-- A narrow instruction whose operands all lie within the thread's count, and whose only pending source is one register, traps
HAZARD (read) with it (R51). -/
theorem fateOf_narrow_pending {x : Sig} {t : Thread} {d : BitVec 6} (hf : x.fate = none) (hm : x.majorOk = true)
    (hs : x.sys = false) (hg : x.g = 7) (hng : x.ng = false) (hp : x.predR = [])
    (hops : ∀ o ∈ x.ops, ∃ n : BitVec 6, o.IsNarrow n ∧ n.toNat < t.v.length ∧
      (n ≠ d → t.pend.contains (.v n.toNat) = false))
    (hd : ∃ o ∈ x.ops, o.rd = true ∧ o.IsNarrow d) (hpend : t.pend.contains (.v d.toNat) = true) (tick : Nat) (b : Block) :
    fateOf x tick b t = .trap .hazard 1 (d.setWidth 32) := by
  have hthread := threadFate_pending_source (t := t) (n := d.toNat) hg hng hp
    (fun o ho => by
      obtain ⟨n, hn, hlt, -⟩ := hops o ho
      exact hn.beyond hlt)
    (by
      obtain ⟨o, ho, hr, hn⟩ := hd
      exact ⟨o, ho, hr, by rw [hn.pending, hpend]⟩)
    (fun o ho _ hq => by
      obtain ⟨n, hn, -, hclear⟩ := hops o ho
      rw [hn.pending] at hq
      have : n = d := by
        by_contra hne
        rw [hclear hne] at hq
        cases hq
      rw [hn.1, this])
    tick (lentRegs b (b.tindex t)) (b.badWOf t)
  have hdecode : decodeFate x t = none := by simp [decodeFate, hm, hs, hf]
  rw [BitVec.ofNat_toNat] at hthread
  rw [fateOf, hdecode]
  exact hthread

end Sys2Proof.Machine
end

section
/-! PROOFS. The integer operations of registers, immediates and bit fields (R94 to R98). -/

namespace Sys2Proof.Machine

open Sys2Proof

/-! ### Values of the immediates and the bit fields -/

/-- The immediates of B-form are sign-extended (R97). -/
theorem word_simm (mj : Nat) (f : FormB) : word (Gen.ofB mj f).simm = f.imm.signExtend 32 := by
  rw [Gen.simm, word_sext (by decide)]
  exact congrArg (BitVec.signExtend 32) (BitVec.ofNat_toNat 10 f.imm)

/-- A B-form instruction that combines a register with its immediate (R97). -/
theorem Results.of_narrow_immediate {ins : Instr} {mj : Nat} {f : FormB} (hv : (Gen.ofB mj f).theSig.vclass = false)
    (hs : (Gen.ofB mj f).theSig.sw = f.sw) (hl : (Gen.ofB mj f).theSig.len = 4) (v : Word → Word → Word)
    (he : ∀ s, exec ins s = .next (s.runOwn (Gen.ofB mj f).theSig fun r =>
      wr f.d.toNat (v (r.r f.a.toNat) (word (Gen.ofB mj f).simm)))) :
    Results ins (Gen.ofB mj f).theSig (fun _ _ t =>
      (t.setV f.d.toNat (v (t.reg f.a.toNat) (f.imm.signExtend 32))).advance f.sw 4) :=
  Results.of_narrow hv hs hl (fun r => v (r.r f.a.toNat) (word (Gen.ofB mj f).simm)) _ he fun t w => by
    rw [Thread.rd_narrow, word_simm]

/-- The immediate of `shifti` holds the kind above the amount (R97). -/
theorem shiftiImm_amount (k : BitVec 3) (h : BitVec 5) : bitsAt (k.toNat * 32 + h.toNat) 0 5 = h.toNat := by
  rw [bitsAt_zero]
  omega

theorem shiftiImm_kind (k : BitVec 3) (h : BitVec 5) : bitsAt (k.toNat * 32 + h.toNat) 5 3 = k.toNat := by
  rw [bitsAt_eq_div]
  omega

/-- The extracted field of `bfx`, zero-extended or sign-extended (R98). -/
theorem bfxVal_eq (m : BitVec 4) (a b : Word) :
    let pos := b.toNat % 32
    let l := min (b.toNat / 256 % 32) (32 - pos)
    let v := a.toNat / 2 ^ pos % 2 ^ l
    bfxVal m.toNat a b = if l = 0 then 0 else if m = 0 ∨ v < 2 ^ (l - 1) then BitVec.ofNat 32 v
      else BitVec.ofNat 32 (v + 2 ^ 32 - 2 ^ l) := by
  intro pos l v
  have hm : m.toNat = 0 ↔ m = 0 := BitVec.toNat_inj (y := 0)
  have hpos : bitsAt b.toNat 0 5 = pos := bitsAt_zero _ _
  have hlen : bfLen b = l := bfLen_eq b
  have hfield : bitsAt a.toNat pos l = v := bitsAt_eq_div _ _ _
  have hval : bfxVal m.toNat a b = if l = 0 then 0 else if m = 0 then BitVec.ofNat 32 v else word (sext l v) := by
    simp only [bfxVal, hpos, hlen, hfield, hm]
  rw [hval]
  by_cases hl : l = 0
  · rw [if_pos hl, if_pos hl]
  · have hsigned := word_sext_of_lt (l := l) (v := v) (by omega) (by omega) (Nat.mod_lt _ (Nat.two_pow_pos l))
    rw [if_neg hl, if_neg hl, hsigned]
    by_cases h0 : m = 0
    · rw [if_pos h0, if_pos (Or.inl h0)]
    · simp only [h0, if_false, false_or]

/-- The replaced field of `bfi` (R98). -/
theorem bfiVal_eq (d a b : Word) :
    let pos := b.toNat % 32
    let mask := fieldMask pos (min (b.toNat / 256 % 32) (32 - pos))
    bfiVal d a b = (d &&& ~~~mask) ||| (a <<< pos &&& mask) := by
  have hpos : bitsAt b.toNat 0 5 = b.toNat % 32 := bitsAt_zero _ _
  rw [bfiVal, ofNat_putBits, bfLen_eq, hpos]

/-! ### Words that encode no instruction -/

/-- A word of an unprivileged major with an assigned minor and a reserved field that is not zero (R47 step 5). -/
theorem when_reserved {c : Bool} {w limit : Nat} (i : Instr) (hc : c = false) (hm : cut w 28 4 < limit) (hs : cut w 3 7 < 0x70) :
    when c i w limit = .inl { code := .illop, sub := 3, addr := 0, sys := false } := by
  simp [when, refuse, illop, hc, not_le.mpr hm, not_le.mpr hs]

/-- A word of an unprivileged major with an unassigned minor (R47 step 4). -/
theorem when_unassigned {c : Bool} {w limit : Nat} (i : Instr) (hc : c = false) (hm : limit ≤ cut w 28 4) (hs : cut w 3 7 < 0x70) :
    when c i w limit = .inl { code := .illop, sub := 2, addr := 0, sys := false } := by
  simp [when, refuse, illop, hc, hm, not_le.mpr hs]

theorem decodeWord_iunary {w : Nat} (h4 : w % 4 = 1) (hmajor : cut w 3 7 = 0x25) :
    decodeWord w = when (cut w 22 6 == 0) (.iunary (formU w)) w 10 := by
  simp only [decodeWord, h4, if_true, decode32, hmajor]

theorem decodeWord_shifti {w : Nat} (h4 : w % 4 = 1) (hmajor : cut w 3 7 = 0x2B) : decodeWord w =
    when (cut w 30 2 == 0) (.shifti (cutBit w 2) (cutBv w 27 3) (cutBv w 22 5) (cutBv w 16 6) (cutBv w 10 6)) w 16 := by
  simp only [decodeWord, h4, if_true, decode32, hmajor]

theorem decodeWord_bfi {w : Nat} (h4 : w % 4 = 1) (hmajor : cut w 3 7 = 0x30) : decodeWord w =
    when (cut w 28 4 == 0) (.bfi (cutBit w 2) (cutBv w 22 6) (cutBv w 16 6) (cutBv w 10 6)) w 1 := by
  simp only [decodeWord, h4, if_true, decode32, hmajor]

/-! ### Fates of the immediates and the bit fields -/

/-- `shifti` of kind 5 to 7 has a reserved field that is not zero (R97). -/
theorem fate_shifti_kind {k : BitVec 3} (hk : 5 ≤ k.toNat) (sw : Bool) (h : BitVec 5) (a d : BitVec 6) :
    (sigOf [] (.shifti sw k h a d)).fate = some 3 := by
  have : ¬ k.toNat ≤ 4 := by omega
  simp [sigOf, Gen.theSig, Gen.dai, Gen.sig, Sig.fate, shiftiImm_kind, this]

/-- `bfx` has two minors (R98). -/
theorem fate_bfx_minor {f : FormA} (hm : 2 ≤ f.m.toNat) : (Gen.ofA 0x2F f).theSig.fate = some 2 := by
  have : ¬ f.m.toNat < 2 := not_lt.mpr hm
  simp [Gen.theSig, Gen.ofA, Gen.dab, Gen.sig, Sig.fate, this, -Nat.not_lt]

/-- `movhi` reads its destination, so a pending one stops it (R97). -/
theorem fateOf_movhi_pending {f : FormC} {t : Thread} (hlt : f.d.toNat < t.v.length)
    (hpend : t.pend.contains (.v f.d.toNat) = true) (tick : Nat) (b : Block) :
    fateOf (movhiSig f) tick b t = .trap .hazard 1 (f.d.setWidth 32) := by
  have hops : ∀ o ∈ (movhiSig f).ops, o.IsNarrow f.d := by
    simpa [movhiSig] using srcDst_isNarrow f.d
  have hfate : (movhiSig f).fate = none := Sig.fate_narrow rfl rfl rfl rfl rfl fun o ho => ⟨f.d, hops o ho⟩
  exact fateOf_narrow_pending hfate rfl rfl rfl rfl rfl (fun o ho => ⟨f.d, hops o ho, hlt, fun hne => absurd rfl hne⟩)
    ⟨srcDst f.d.toNat, List.mem_singleton.mpr rfl, rfl, srcDst_isNarrow f.d⟩ hpend tick b

/-- `bfi` reads its destination too (R98). -/
theorem fateOf_bfi_pending {sw : Bool} {b a d : BitVec 6} {t : Thread} (hlt : ∀ r ∈ [b, a, d], r.toNat < t.v.length)
    (hclear : ∀ r ∈ [b, a], r ≠ d → t.pend.contains (.v r.toNat) = false) (hpend : t.pend.contains (.v d.toNat) = true)
    (tick : Nat) (blk : Block) :
    fateOf (sigOf [] (.bfi sw b a d)) tick blk t = .trap .hazard 1 (d.setWidth 32) := by
  have hops : ∀ o ∈ (sigOf [] (.bfi sw b a d)).ops, ∃ n : BitVec 6, o.IsNarrow n ∧ n.toNat < t.v.length ∧
      (n ≠ d → t.pend.contains (.v n.toNat) = false) := by
    intro o ho
    obtain rfl | rfl | rfl : o = src a.toNat ∨ o = src b.toNat ∨ o = srcDst d.toNat := by
      simpa [sigOf, Gen.theSig, Gen.sig] using ho
    · exact ⟨a, src_isNarrow a, hlt a (by simp), hclear a (by simp)⟩
    · exact ⟨b, src_isNarrow b, hlt b (by simp), hclear b (by simp)⟩
    · exact ⟨d, srcDst_isNarrow d, hlt d (by simp), fun hne => absurd rfl hne⟩
  have hfate : (sigOf [] (.bfi sw b a d)).fate = none := Sig.fate_narrow rfl rfl rfl rfl rfl fun o ho => by
    obtain ⟨n, hn, -⟩ := hops o ho
    exact ⟨n, hn⟩
  exact fateOf_narrow_pending hfate rfl rfl rfl rfl rfl hops
    ⟨srcDst d.toNat, by simp [sigOf, Gen.theSig, Gen.sig], rfl, srcDst_isNarrow d⟩ hpend tick blk

/-! ### The statements -/

/-- Settles O9: every row's value is the model's, case by minor. -/
theorem registerIntegerOperationsGiveTheirResults : Obligations.RegisterIntegerOperationsGiveTheirResults := by
  unfold Obligations.RegisterIntegerOperationsGiveTheirResults
  intro f
  refine ⟨?_, ?_, ?_, ?_, ?_, ?_⟩
  · refine Results.of_narrow rfl rfl rfl (fun r => iaddVal f.m.toNat (r.r f.a.toNat) (r.r f.b.toNat)) _ (fun _ => rfl) ?_
    intro t w
    simp only [Thread.rd_narrow]
    match f.m.toNat with
    | 0 | 1 | 2 | 3 => rfl
    | 4 => exact word_clamp_sum _ _
    | _ + 5 => exact word_clamp_difference _ _
  · refine Results.of_narrow rfl rfl rfl (fun r => imulVal f.m.toNat (r.r f.a.toNat) (r.r f.b.toNat)) _ (fun _ => rfl) ?_
    intro t w
    simp only [Thread.rd_narrow]
    match f.m.toNat with
    | 0 => rfl
    | 1 => exact hiWord_mul_signed _ _
    | 2 => exact hiWord_mul_unsigned _ _
    | _ + 3 => exact hiWord_mul_mixed _ _
  · refine Results.of_narrow rfl rfl rfl (fun r => iminmaxVal f.m.toNat (r.r f.a.toNat) (r.r f.b.toNat)) _ (fun _ => rfl) ?_
    intro t w
    simp only [Thread.rd_narrow]
    match f.m.toNat with
    | 0 => exact min_toInt_eq _ _
    | 1 => exact min_toNat_eq _ _
    | 2 => exact max_toInt_eq _ _
    | _ + 3 => exact max_toNat_eq _ _
  · refine Results.of_narrow rfl rfl rfl (fun r => logicVal f.m.toNat (r.r f.a.toNat) (r.r f.b.toNat)) _ (fun _ => rfl) ?_
    intro t w
    simp only [Thread.rd_narrow]
    match f.m.toNat with
    | 0 | 1 | 2 | 3 | 4 | _ + 5 => rfl
  · refine Results.of_narrow rfl rfl rfl
      (fun r => shiftVal f.m.toNat (r.r f.a.toNat) (bitsAt (r.r f.b.toNat).toNat 0 6)) _ (fun _ => rfl) ?_
    intro t w
    simp only [Thread.rd_narrow, bitsAt_zero]
    match f.m.toNat with
    | 0 => exact shl_eq_ite _ _
    | 1 => exact shr_eq_ite _ _
    | 2 => exact sar_eq_sar_min _ _
    | 3 | _ + 4 => rfl
  · refine Results.of_narrow rfl rfl rfl (fun r => r.r f.a.toNat + r.r f.b.toNat <<< f.m.toNat) _ (fun _ => rfl) ?_
    intro t w
    simp only [Thread.rd_narrow]

/-- Settles O10: the values case by minor, and the decoder's check of b. -/
theorem unaryIntegerOperationsGiveTheirResults : Obligations.UnaryIntegerOperationsGiveTheirResults := by
  unfold Obligations.UnaryIntegerOperationsGiveTheirResults
  constructor
  · intro f
    refine Results.of_narrow rfl rfl rfl (fun r => iunaryVal f.m.toNat (r.r f.a.toNat)) _ (fun _ => rfl) ?_
    intro t w
    simp only [Thread.rd_narrow]
    match f.m.toNat with
    | 0 => exact congrArg (BitVec.ofNat 32) (popcount_eq_length 32 _)
    | 1 => exact congrArg (BitVec.ofNat 32) (clz_eq_length _)
    | 2 => exact ofNat_reverseBits _
    | 3 => exact ite_toInt_neg _ _ _
    | 4 | 5 => rfl
    | 6 | 7 => exact word_sext_toNat (by decide) _
    | 8 | _ + 9 => exact ofNat_bitsAt_zero _ _
  · intro w h4 hmajor hminor hb
    rw [decodeWord_iunary h4 hmajor]
    exact when_reserved _ (beq_false_of_ne hb) hminor (by omega)

/-- Settles O11: the values, the decoder's checks, and the checks of the issue (R47, R51). -/
theorem immediatesAndBitFieldsGiveTheirResults : Obligations.ImmediatesAndBitFieldsGiveTheirResults := by
  unfold Obligations.ImmediatesAndBitFieldsGiveTheirResults
  refine ⟨fun f => ⟨?_, ?_, ?_, ?_⟩, fun sw k h a d => ?_, fun f => ⟨?_, ?_⟩, fun f => ?_, fun sw b a d => ?_,
    fun w h4 => ⟨fun hmajor hres => ?_, fun hmajor hminor => ?_⟩,
    fun s i ti t hi ht hr => ⟨fun sw k h a d hk => ?_, fun f hm => ?_, fun f hlt hpend => ?_,
      fun sw b a d hlt hclear hpend => ?_⟩⟩
  · exact Results.of_narrow_immediate rfl rfl rfl (· + ·) fun _ => rfl
  · exact Results.of_narrow_immediate rfl rfl rfl (· &&& ·) fun _ => rfl
  · exact Results.of_narrow_immediate rfl rfl rfl (· ||| ·) fun _ => rfl
  · exact Results.of_narrow_immediate rfl rfl rfl (· ^^^ ·) fun _ => rfl
  · refine Results.of_narrow rfl rfl rfl (fun r => shiftVal (bitsAt (k.toNat * 32 + h.toNat) 5 3) (r.r a.toNat)
      (bitsAt (k.toNat * 32 + h.toNat) 0 5)) _ (fun _ => rfl) fun t w => ?_
    rw [shiftiImm_kind, shiftiImm_amount, Thread.rd_narrow]
    have hamount : h.toNat % 32 = h.toNat := Nat.mod_eq_of_lt h.isLt
    match k.toNat with
    | 0 | 1 | 2 => rfl
    | 3 => exact congrArg (BitVec.rotateLeft _) hamount
    | _ + 4 => exact congrArg (BitVec.rotateRight _) hamount
  · exact Results.of_narrow rfl rfl rfl (fun _ => f.imm.signExtend 32) _ (fun _ => rfl) fun _ _ => rfl
  · exact Results.of_narrow rfl rfl rfl
      (fun r => f.imm.setWidth 32 <<< 16 ||| (r.r f.d.toNat &&& 0xFFFF)) _ (fun _ => rfl)
      fun t w => by rw [Thread.rd_narrow]
  · exact Results.of_narrow rfl rfl rfl (fun r => bfxVal f.m.toNat (r.r f.a.toNat) (r.r f.b.toNat)) _ (fun _ => rfl)
      fun t w => by
        rw [Thread.rd_narrow, Thread.rd_narrow]
        exact bfxVal_eq _ _ _
  · exact Results.of_narrow rfl rfl rfl (fun r => bfiVal (r.r d.toNat) (r.r a.toNat) (r.r b.toNat)) _ (fun _ => rfl)
      fun t w => by
        rw [Thread.rd_narrow, Thread.rd_narrow, Thread.rd_narrow]
        exact bfiVal_eq _ _ _
  · rw [decodeWord_shifti h4 hmajor]
    exact when_reserved _ (beq_false_of_ne hres) (Nat.mod_lt _ (by decide)) (by omega)
  · rw [decodeWord_bfi h4 hmajor]
    exact when_unassigned _ (beq_false_of_ne hminor) (Nat.one_le_iff_ne_zero.mpr hminor) (by omega)
  · exact MakesThread.of_narrow_trap _ rfl hi ht hr (fateOf_illop rfl rfl (fate_shifti_kind hk sw h a d) _ _ _)
  · exact MakesThread.of_narrow_trap _ rfl hi ht hr (fateOf_illop rfl rfl (fate_bfx_minor hm) _ _ _)
  · exact MakesThread.of_narrow_trap _ rfl hi ht hr (fateOf_movhi_pending hlt hpend _ _)
  · exact MakesThread.of_narrow_trap _ rfl hi ht hr (fateOf_bfi_pending hlt hclear hpend _ _)

end Sys2Proof.Machine
end
